-- ==== Sys2Proof/Word.lean ====
section
/-! DEFINITION. The word types of the machine and their plainest arithmetic: 32-bit words, 64-bit pairs, bytes, lane
vectors and lane masks (R13, R15, R26). -/

namespace Sys2Proof

/-- One lane's value of a v register (R13). -/
abbrev Word := BitVec 32
/-- A 64-bit value held in a pair (R15). -/
abbrev DWord := BitVec 64
/-- One byte of memory. -/
abbrev Byte := BitVec 8
/-- The number of a v register. -/
abbrev Reg := BitVec 7
/-- A 128-bit mask: bit i belongs to lane i (R26). -/
abbrev Mask := BitVec 128
/-- A v register: one 32-bit value in each of the 128 lanes (R13). -/
abbrev Lanes := Vector Word 128

/-- The register whose lane i holds `f i`. -/
def Lanes.tab (f : Fin 128 → Word) : Lanes := ⟨⟨(List.finRange 128).map f⟩, by simp⟩

@[simp] theorem Lanes.getElem_tab (f : Fin 128 → Word) (i : Nat) (h : i < 128) : (Lanes.tab f)[i] = f ⟨i, h⟩ := by
  simp [Lanes.tab]

/-- The register that holds `w` in every lane. -/
def Lanes.uni (w : Word) : Lanes := Vector.replicate 128 w

/-- The lane numbers in ascending order. -/
def allLanes : List (Fin 128) := List.finRange 128

end Sys2Proof
end

