-- ==== Sys2Proof/Config.lean ====
section
/-! DEFINITION. What one part fixes and the manual does not publish. Every constant here is without a body: nothing in Lean
can compute it, so a statement holds for every value of it. -/

namespace Sys2Proof.Config

/-- The unpublished value of approximate function `fn` at the input bits `x` (R169); `Approx.lean` keeps it within the
bounds of Table 5-8. DESIGN CHOICE: log entry 3. -/
opaque approx (fn : BitVec 3) (x : Word) : Word

/-- The clock cycles that pass beyond the first at step `n` of the run (CTX.CYCLE, R43): no rule of the manual fixes an
instruction's time. DESIGN CHOICE: log entry 4. -/
opaque gap (n : Nat) : Nat

/-- A value that the manual does not state although the machine goes on: `point` says which (DESIGN CHOICE: log entry 6 lists the points),
`n` is the step at which it arises. -/
opaque free (point n : Nat) : BitVec 64

end Sys2Proof.Config
end

