-- ==== Sys2Proof/Syntax.lean ====
section
/-! DEFINITION. The steps of the machine, one constructor per row of spec/opcode_table.json: the 244 encoded instructions
(Tables 2-4 to 2-7), each with exactly the fields its word holds and, where Table 2-3 lets it take one, the `ext` payload
word in front of it, then the 106 steps that have no encoding (what the device, the host or another package does). The
operands of those stand in `State.arg`: Lean's compiler allows fields to the first 245 constructors of a type only. -/

namespace Sys2Proof

/-- One step of the machine. `x` is the 24-bit KIND and PAYLOAD of an accepted `ext` prefix (R63), if there is one.
The keys of a step without an encoding: a die is 4 × package + die number, a core is 96 × die key + core number, a group is
16 × team number + group index within the team. -/
inductive Instr where
  /-- `ADD` (R159). Lane integer add of s32 or n32 values, wrapping or saturating. -/
  | add (m : BitVec 3) (d : BitVec 7) (a : BitVec 7) (b : BitVec 7)
  /-- `SUB` (R159). Lane integer subtract. -/
  | sub (m : BitVec 3) (d : BitVec 7) (a : BitVec 7) (b : BitVec 7)
  /-- `MUL` (R159). Lane integer multiply, low 32 bits or saturated. -/
  | mul (m : BitVec 3) (d : BitVec 7) (a : BitVec 7) (b : BitVec 7)
  /-- `MULH` (R159). Lane high 32 bits of the exact 64-bit product. -/
  | mulh (m : BitVec 3) (d : BitVec 7) (a : BitVec 7) (b : BitVec 7)
  /-- `MAD` (R159). Lane multiply-add a*b+d, wrapped or clamped once. -/
  | mad (m : BitVec 3) (d : BitVec 7) (a : BitVec 7) (b : BitVec 7)
  /-- `DIV` (R159). Lane integer divide with the limit results of Table 3-1. -/
  | div (m : BitVec 3) (d : BitVec 7) (a : BitVec 7) (b : BitVec 7)
  /-- `REM` (R159). Lane integer remainder. -/
  | rem (m : BitVec 3) (d : BitVec 7) (a : BitVec 7) (b : BitVec 7)
  /-- `MIN` (R159). Lane signed or unsigned minimum. -/
  | min (m : BitVec 3) (d : BitVec 7) (a : BitVec 7) (b : BitVec 7)
  /-- `MAX` (R159). Lane signed or unsigned maximum. -/
  | max (m : BitVec 3) (d : BitVec 7) (a : BitVec 7) (b : BitVec 7)
  /-- `ABS` (R159). Lane absolute value of s32. -/
  | abs (m : BitVec 3) (d : BitVec 7) (a : BitVec 7)
  /-- `NEG` (R159). Lane negation of s32. -/
  | neg (m : BitVec 3) (d : BitVec 7) (a : BitVec 7)
  /-- `CMP` (R160). Lane 32-bit integer compare writing 0 or 1. -/
  | cmp (m : BitVec 3) (d : BitVec 7) (a : BitVec 7) (b : BitVec 7)
  /-- `ADD_64` (R165). Lane 64-bit pair add. -/
  | add64 (m : BitVec 3) (d : BitVec 7) (a : BitVec 7) (b : BitVec 7)
  /-- `SUB_64` (R165). Lane 64-bit pair subtract. -/
  | sub64 (m : BitVec 3) (d : BitVec 7) (a : BitVec 7) (b : BitVec 7)
  /-- `CMP_64` (R160). Lane 64-bit integer compare writing 0 or 1. -/
  | cmp64 (m : BitVec 3) (d : BitVec 7) (a : BitVec 7) (b : BitVec 7)
  /-- `LEA` (R165). Lane address formation a + (sign-extended b << sh). -/
  | lea (h : BitVec 3) (d : BitVec 7) (a : BitVec 7) (b : BitVec 7)
  /-- `AND` (R161). Lane bitwise AND. -/
  | and (d : BitVec 7) (a : BitVec 7) (b : BitVec 7)
  /-- `OR` (R161). Lane bitwise OR. -/
  | or (d : BitVec 7) (a : BitVec 7) (b : BitVec 7)
  /-- `XOR` (R161). Lane bitwise XOR. -/
  | xor (d : BitVec 7) (a : BitVec 7) (b : BitVec 7)
  /-- `ANDN` (R161). Lane a AND NOT b. -/
  | andn (d : BitVec 7) (a : BitVec 7) (b : BitVec 7)
  /-- `SHL` (R161). Lane shift left by register count. -/
  | shl (d : BitVec 7) (a : BitVec 7) (b : BitVec 7)
  /-- `SHR` (R161). Lane logical shift right by register count. -/
  | shr (d : BitVec 7) (a : BitVec 7) (b : BitVec 7)
  /-- `SAR` (R161). Lane arithmetic shift right by register count. -/
  | sar (d : BitVec 7) (a : BitVec 7) (b : BitVec 7)
  /-- `ROL` (R161). Lane rotate left. -/
  | rol (d : BitVec 7) (a : BitVec 7) (b : BitVec 7)
  /-- `ROR` (R161). Lane rotate right. -/
  | ror (d : BitVec 7) (a : BitVec 7) (b : BitVec 7)
  /-- `POPC` (R161). Lane population count. -/
  | popc (d : BitVec 7) (a : BitVec 7)
  /-- `CLZ` (R161). Lane count of leading zeros. -/
  | clz (d : BitVec 7) (a : BitVec 7)
  /-- `CTZ` (R161). Lane count of trailing zeros. -/
  | ctz (d : BitVec 7) (a : BitVec 7)
  /-- `BREV` (R161). Lane bit reversal. -/
  | brev (d : BitVec 7) (a : BitVec 7)
  /-- `BFX` (R162). Lane bit-field extract, signed or unsigned. -/
  | bfx (s : BitVec 1) (d : BitVec 7) (a : BitVec 7) (b : BitVec 7)
  /-- `BFI` (R162). Lane bit-field insert into D. -/
  | bfi (d : BitVec 7) (a : BitVec 7) (b : BitVec 7)
  /-- `SEL` (R163). Lane select of A or B by bit 0 of E. -/
  | sel (d : BitVec 7) (a : BitVec 7) (b : BitVec 7) (x : Option (BitVec 24))
  /-- `ADDI` (R164). Lane add of a signed immediate. -/
  | addi (d : BitVec 7) (a : BitVec 7) (i : BitVec 10) (x : Option (BitVec 24))
  /-- `ANDI` (R164). Lane AND with an unsigned immediate. -/
  | andi (d : BitVec 7) (a : BitVec 7) (i : BitVec 10) (x : Option (BitVec 24))
  /-- `ORI` (R164). Lane OR with an unsigned immediate. -/
  | ori (d : BitVec 7) (a : BitVec 7) (i : BitVec 10) (x : Option (BitVec 24))
  /-- `XORI` (R164). Lane XOR with an unsigned immediate. -/
  | xori (d : BitVec 7) (a : BitVec 7) (i : BitVec 10) (x : Option (BitVec 24))
  /-- `SHLI` (R164). Lane shift left by an immediate count. -/
  | shli (d : BitVec 7) (a : BitVec 7) (i : BitVec 5)
  /-- `SHRI` (R164). Lane logical shift right by an immediate count. -/
  | shri (d : BitVec 7) (a : BitVec 7) (i : BitVec 5)
  /-- `SARI` (R164). Lane arithmetic shift right by an immediate count. -/
  | sari (d : BitVec 7) (a : BitVec 7) (i : BitVec 5)
  /-- `MULI` (R164). Lane multiply by a signed immediate. -/
  | muli (d : BitVec 7) (a : BitVec 7) (i : BitVec 10) (x : Option (BitVec 24))
  /-- `SHFL` (R173). Cross-lane shuffle within segments by mode. -/
  | shfl (m : BitVec 3) (d : BitVec 7) (a : BitVec 7) (b : BitVec 7) (x : Option (BitVec 24))
  /-- `VOTE` (R174). Cross-lane predicate count, rank or miss. -/
  | vote (m : BitVec 3) (d : BitVec 7) (a : BitVec 7) (b : BitVec 7)
  /-- `RED` (R175). Cross-lane reduction over the member set by the fixed tree. -/
  | red (m : BitVec 3) (d : BitVec 7) (a : BitVec 7) (b : BitVec 7)
  /-- `SCAN` (R175). Cross-lane inclusive prefix over the member set. -/
  | scan (m : BitVec 3) (d : BitVec 7) (a : BitVec 7) (b : BitVec 7)
  /-- `PERM` (R176). Cross-lane permutation by destination lane. -/
  | perm (d : BitVec 7) (a : BitVec 7) (b : BitVec 7) (x : Option (BitVec 24))
  /-- `FADD_F32` (R166). Lane f32 add with rounding mode. -/
  | faddF32 (m : BitVec 3) (d : BitVec 7) (a : BitVec 7) (b : BitVec 7)
  /-- `FSUB_F32` (R166). Lane f32 subtract. -/
  | fsubF32 (m : BitVec 3) (d : BitVec 7) (a : BitVec 7) (b : BitVec 7)
  /-- `FMUL_F32` (R166). Lane f32 multiply. -/
  | fmulF32 (m : BitVec 3) (d : BitVec 7) (a : BitVec 7) (b : BitVec 7)
  /-- `FMAC_F32` (R166). Lane fused f32 multiply-accumulate into D. -/
  | fmacF32 (m : BitVec 3) (d : BitVec 7) (a : BitVec 7) (b : BitVec 7)
  /-- `FMIN_F32` (R166). Lane f32 minimumNumber. -/
  | fminF32 (d : BitVec 7) (a : BitVec 7) (b : BitVec 7)
  /-- `FMAX_F32` (R166). Lane f32 maximumNumber. -/
  | fmaxF32 (d : BitVec 7) (a : BitVec 7) (b : BitVec 7)
  /-- `CMP_F32` (R166). Lane f32 compare writing 0 or 1. -/
  | cmpF32 (m : BitVec 3) (d : BitVec 7) (a : BitVec 7) (b : BitVec 7)
  /-- `RCP_F32` (R167). Lane approximate reciprocal. -/
  | rcpF32 (d : BitVec 7) (a : BitVec 7)
  /-- `RSQ_F32` (R167). Lane approximate reciprocal square root. -/
  | rsqF32 (d : BitVec 7) (a : BitVec 7)
  /-- `SQRT_F32` (R167). Lane correctly rounded square root. -/
  | sqrtF32 (d : BitVec 7) (a : BitVec 7)
  /-- `EXP2_F32` (R167). Lane approximate 2^x. -/
  | exp2F32 (d : BitVec 7) (a : BitVec 7)
  /-- `LOG2_F32` (R167). Lane approximate log2 x. -/
  | log2F32 (d : BitVec 7) (a : BitVec 7)
  /-- `TANH_F32` (R167). Lane approximate tanh. -/
  | tanhF32 (d : BitVec 7) (a : BitVec 7)
  /-- `FADD_F64` (R166). Lane f64 add on pairs. -/
  | faddF64 (m : BitVec 3) (d : BitVec 7) (a : BitVec 7) (b : BitVec 7)
  /-- `FSUB_F64` (R166). Lane f64 subtract on pairs. -/
  | fsubF64 (m : BitVec 3) (d : BitVec 7) (a : BitVec 7) (b : BitVec 7)
  /-- `FMUL_F64` (R166). Lane f64 multiply on pairs. -/
  | fmulF64 (m : BitVec 3) (d : BitVec 7) (a : BitVec 7) (b : BitVec 7)
  /-- `FMAC_F64` (R166). Lane fused f64 multiply-accumulate. -/
  | fmacF64 (m : BitVec 3) (d : BitVec 7) (a : BitVec 7) (b : BitVec 7)
  /-- `FMIN_F64` (R166). Lane f64 minimumNumber. -/
  | fminF64 (d : BitVec 7) (a : BitVec 7) (b : BitVec 7)
  /-- `FMAX_F64` (R166). Lane f64 maximumNumber. -/
  | fmaxF64 (d : BitVec 7) (a : BitVec 7) (b : BitVec 7)
  /-- `CMP_F64` (R166). Lane f64 compare writing a single register. -/
  | cmpF64 (m : BitVec 3) (d : BitVec 7) (a : BitVec 7) (b : BitVec 7)
  /-- `FADD_F16` (R166). Lane scalar f16 add. -/
  | faddF16 (m : BitVec 3) (d : BitVec 7) (a : BitVec 7) (b : BitVec 7)
  /-- `FMUL_F16` (R166). Lane scalar f16 multiply. -/
  | fmulF16 (m : BitVec 3) (d : BitVec 7) (a : BitVec 7) (b : BitVec 7)
  /-- `FMAC_F16` (R166). Lane scalar f16 fused multiply-accumulate. -/
  | fmacF16 (m : BitVec 3) (d : BitVec 7) (a : BitVec 7) (b : BitVec 7)
  /-- `FADD_BF16` (R166). Lane scalar bf16 add. -/
  | faddBf16 (m : BitVec 3) (d : BitVec 7) (a : BitVec 7) (b : BitVec 7)
  /-- `FMUL_BF16` (R166). Lane scalar bf16 multiply. -/
  | fmulBf16 (m : BitVec 3) (d : BitVec 7) (a : BitVec 7) (b : BitVec 7)
  /-- `FMAC_BF16` (R166). Lane scalar bf16 fused multiply-accumulate. -/
  | fmacBf16 (m : BitVec 3) (d : BitVec 7) (a : BitVec 7) (b : BitVec 7)
  /-- `FADD_F16X2` (R166). Lane packed f16 add per half. -/
  | faddF16x2 (m : BitVec 3) (d : BitVec 7) (a : BitVec 7) (b : BitVec 7)
  /-- `FMUL_F16X2` (R166). Lane packed f16 multiply per half. -/
  | fmulF16x2 (m : BitVec 3) (d : BitVec 7) (a : BitVec 7) (b : BitVec 7)
  /-- `FMAC_F16X2` (R166). Lane packed f16 fused multiply-accumulate. -/
  | fmacF16x2 (m : BitVec 3) (d : BitVec 7) (a : BitVec 7) (b : BitVec 7)
  /-- `FADD_BF16X2` (R166). Lane packed bf16 add per half. -/
  | faddBf16x2 (m : BitVec 3) (d : BitVec 7) (a : BitVec 7) (b : BitVec 7)
  /-- `FMUL_BF16X2` (R166). Lane packed bf16 multiply per half. -/
  | fmulBf16x2 (m : BitVec 3) (d : BitVec 7) (a : BitVec 7) (b : BitVec 7)
  /-- `FMAC_BF16X2` (R166). Lane packed bf16 fused multiply-accumulate. -/
  | fmacBf16x2 (m : BitVec 3) (d : BitVec 7) (a : BitVec 7) (b : BitVec 7)
  /-- `FMIN_FMAX_HALF` (R166). Lane half or packed minimum or maximum selected by M. -/
  | fminFmaxHalf (t : BitVec 2) (x : BitVec 1) (d : BitVec 7) (a : BitVec 7) (b : BitVec 7)
  /-- `CMP_F16` (R166). Lane f16 compare. -/
  | cmpF16 (m : BitVec 3) (d : BitVec 7) (a : BitVec 7) (b : BitVec 7)
  /-- `CMP_BF16` (R166). Lane bf16 compare. -/
  | cmpBf16 (m : BitVec 3) (d : BitVec 7) (a : BitVec 7) (b : BitVec 7)
  /-- `CVT_TO_FLOAT` (R171). Lane conversion to an IEEE float type. -/
  | cvtToFloat (m : BitVec 3) (d : BitVec 7) (a : BitVec 7) (s : BitVec 4) (t : BitVec 2)
  /-- `CVT_TO_INTEGER` (R171). Lane conversion to an integer type. -/
  | cvtToInteger (m : BitVec 3) (d : BitVec 7) (a : BitVec 7) (s : BitVec 4) (t : BitVec 3)
  /-- `CVT_TO_NARROW` (R171). Lane conversion to t8, t6 or e8. -/
  | cvtToNarrow (m : BitVec 3) (d : BitVec 7) (a : BitVec 7) (s : BitVec 4) (t : BitVec 2)
  /-- `CVT_BF16X2_F32` (R117). Lane conversion of two f32 values to packed bf16. -/
  | cvtBf16x2F32 (m : BitVec 3) (d : BitVec 7) (a : BitVec 7) (b : BitVec 7)
  /-- `CVT_F16X2_F32` (R117). Lane conversion of two f32 values to packed f16. -/
  | cvtF16x2F32 (m : BitVec 3) (d : BitVec 7) (a : BitVec 7) (b : BitVec 7)
  /-- `ATOMC` (R196). Lane atomic read-modify-write on team core memory. -/
  | atomc (m : BitVec 3) (d : BitVec 7) (a : BitVec 7) (b : BitVec 7)
  /-- `CLRE` (R194). Marks the addressed core-memory granules empty. -/
  | clre (a : BitVec 7) (k : BitVec 5) (x : Option (BitVec 24))
  /-- `TAGLD` (R209). Reads the tag of a 32-byte granule. -/
  | tagld (d : BitVec 7) (a : BitVec 7) (k : BitVec 5) (x : Option (BitVec 24))
  /-- `TAGST` (R209). Sets the tag of a 32-byte granule. -/
  | tagst (d : BitVec 7) (a : BitVec 7) (k : BitVec 5) (x : Option (BitVec 24))
  /-- `PCLR` (R212). Supervisor clearing of a poisoned line. -/
  | pclr (a : BitVec 7) (k : BitVec 5) (x : Option (BitVec 24))
  /-- `CWB` (R206). Writes back dirty copies of a line within the scope. -/
  | cwb (s : BitVec 3) (a : BitVec 7) (k : BitVec 5) (x : Option (BitVec 24))
  /-- `CINV` (R206). Removes clean copies of a line within the scope. -/
  | cinv (s : BitVec 3) (a : BitVec 7) (k : BitVec 5) (x : Option (BitVec 24))
  /-- `CFLUSH` (R206). Writes back and removes every copy of a line within the scope. -/
  | cflush (s : BitVec 3) (a : BitVec 7) (k : BitVec 5) (x : Option (BitVec 24))
  /-- `PREF` (R208). Requests a readable copy of a line without architectural effect. -/
  | pref (s : BitVec 3) (a : BitVec 7) (k : BitVec 5) (x : Option (BitVec 24))
  /-- `LDF` (R189). Typed load decoding eight elements by the page format. -/
  | ldf (o : BitVec 2) (s : BitVec 3) (d : BitVec 7) (a : BitVec 7) (k : BitVec 5) (x : Option (BitVec 24))
  /-- `STF` (R189). Typed store encoding eight elements by the page format. -/
  | stf (o : BitVec 2) (s : BitVec 3) (d : BitVec 7) (a : BitVec 7) (k : BitVec 5) (x : Option (BitVec 24))
  /-- `LD_S8` (R184). Loads a sign-extended byte. -/
  | ldS8 (o : BitVec 2) (s : BitVec 3) (d : BitVec 7) (a : BitVec 7) (k : BitVec 5) (x : Option (BitVec 24))
  /-- `LD_N8` (R184). Loads a zero-extended byte. -/
  | ldN8 (o : BitVec 2) (s : BitVec 3) (d : BitVec 7) (a : BitVec 7) (k : BitVec 5) (x : Option (BitVec 24))
  /-- `LD_S16` (R184). Loads a sign-extended halfword. -/
  | ldS16 (o : BitVec 2) (s : BitVec 3) (d : BitVec 7) (a : BitVec 7) (k : BitVec 5) (x : Option (BitVec 24))
  /-- `LD_N16` (R184). Loads a zero-extended halfword. -/
  | ldN16 (o : BitVec 2) (s : BitVec 3) (d : BitVec 7) (a : BitVec 7) (k : BitVec 5) (x : Option (BitVec 24))
  /-- `LD_32` (R184). Loads a 32-bit word. -/
  | ld32 (o : BitVec 2) (s : BitVec 3) (d : BitVec 7) (a : BitVec 7) (k : BitVec 5) (x : Option (BitVec 24))
  /-- `LD_64` (R184). Loads 64 bits into a pair. -/
  | ld64 (o : BitVec 2) (s : BitVec 3) (d : BitVec 7) (a : BitVec 7) (k : BitVec 5) (x : Option (BitVec 24))
  /-- `LD_128` (R184). Loads 128 bits into a quadruple. -/
  | ld128 (o : BitVec 2) (s : BitVec 3) (d : BitVec 7) (a : BitVec 7) (k : BitVec 5) (x : Option (BitVec 24))
  /-- `ATOM_32` (R197). 32-bit global atomic selected by K. -/
  | atom32 (o : BitVec 2) (s : BitVec 3) (d : BitVec 7) (a : BitVec 7) (k : BitVec 5) (x : Option (BitVec 24))
  /-- `ST_8` (R184). Stores a byte. -/
  | st8 (o : BitVec 2) (s : BitVec 3) (d : BitVec 7) (a : BitVec 7) (k : BitVec 5) (x : Option (BitVec 24))
  /-- `ST_16` (R184). Stores a halfword. -/
  | st16 (o : BitVec 2) (s : BitVec 3) (d : BitVec 7) (a : BitVec 7) (k : BitVec 5) (x : Option (BitVec 24))
  /-- `ST_32` (R184). Stores a 32-bit word. -/
  | st32 (o : BitVec 2) (s : BitVec 3) (d : BitVec 7) (a : BitVec 7) (k : BitVec 5) (x : Option (BitVec 24))
  /-- `ST_64` (R184). Stores a 64-bit pair. -/
  | st64 (o : BitVec 2) (s : BitVec 3) (d : BitVec 7) (a : BitVec 7) (k : BitVec 5) (x : Option (BitVec 24))
  /-- `ST_128` (R184). Stores a 128-bit quadruple. -/
  | st128 (o : BitVec 2) (s : BitVec 3) (d : BitVec 7) (a : BitVec 7) (k : BitVec 5) (x : Option (BitVec 24))
  /-- `ATOM_64` (R197). 64-bit global atomic selected by K. -/
  | atom64 (o : BitVec 2) (s : BitVec 3) (d : BitVec 7) (a : BitVec 7) (k : BitVec 5) (x : Option (BitVec 24))
  /-- `ATOM_128` (R197). 128-bit global compare-and-swap. -/
  | atom128 (o : BitVec 2) (s : BitVec 3) (d : BitVec 7) (a : BitVec 7) (k : BitVec 5) (x : Option (BitVec 24))
  /-- `LDC_32` (R192). Core-memory 32-bit load without full/empty action. -/
  | ldc32 (o : BitVec 2) (d : BitVec 7) (a : BitVec 7) (k : BitVec 5) (x : Option (BitVec 24))
  /-- `LDC_64` (R192). Core-memory 64-bit load. -/
  | ldc64 (o : BitVec 2) (d : BitVec 7) (a : BitVec 7) (k : BitVec 5) (x : Option (BitVec 24))
  /-- `LDC_128` (R192). Core-memory 128-bit load. -/
  | ldc128 (o : BitVec 2) (d : BitVec 7) (a : BitVec 7) (k : BitVec 5) (x : Option (BitVec 24))
  /-- `LDC_W_K_32` (R193). Waits for full granules, reads 32 bits and keeps them full. -/
  | ldcWK32 (o : BitVec 2) (d : BitVec 7) (a : BitVec 7) (k : BitVec 5) (x : Option (BitVec 24))
  /-- `LDC_W_K_64` (R193). Waiting keep-full 64-bit core-memory load. -/
  | ldcWK64 (o : BitVec 2) (d : BitVec 7) (a : BitVec 7) (k : BitVec 5) (x : Option (BitVec 24))
  /-- `LDC_W_K_128` (R193). Waiting keep-full 128-bit core-memory load. -/
  | ldcWK128 (o : BitVec 2) (d : BitVec 7) (a : BitVec 7) (k : BitVec 5) (x : Option (BitVec 24))
  /-- `LDC_W_C_32` (R193). Waits for full granules, reads 32 bits and empties them. -/
  | ldcWC32 (o : BitVec 2) (d : BitVec 7) (a : BitVec 7) (k : BitVec 5) (x : Option (BitVec 24))
  /-- `LDC_W_C_64` (R193). Waiting consuming 64-bit core-memory load. -/
  | ldcWC64 (o : BitVec 2) (d : BitVec 7) (a : BitVec 7) (k : BitVec 5) (x : Option (BitVec 24))
  /-- `LDC_W_C_128` (R193). Waiting consuming 128-bit core-memory load. -/
  | ldcWC128 (o : BitVec 2) (d : BitVec 7) (a : BitVec 7) (k : BitVec 5) (x : Option (BitVec 24))
  /-- `STC_32` (R192). Core-memory 32-bit store without full/empty action. -/
  | stc32 (o : BitVec 2) (d : BitVec 7) (a : BitVec 7) (k : BitVec 5) (x : Option (BitVec 24))
  /-- `STC_64` (R192). Core-memory 64-bit store. -/
  | stc64 (o : BitVec 2) (d : BitVec 7) (a : BitVec 7) (k : BitVec 5) (x : Option (BitVec 24))
  /-- `STC_128` (R192). Core-memory 128-bit store. -/
  | stc128 (o : BitVec 2) (d : BitVec 7) (a : BitVec 7) (k : BitVec 5) (x : Option (BitVec 24))
  /-- `STC_F_32` (R192). Core-memory 32-bit store that sets the granule full. -/
  | stcF32 (o : BitVec 2) (d : BitVec 7) (a : BitVec 7) (k : BitVec 5) (x : Option (BitVec 24))
  /-- `STC_F_64` (R192). Core-memory 64-bit store that sets full. -/
  | stcF64 (o : BitVec 2) (d : BitVec 7) (a : BitVec 7) (k : BitVec 5) (x : Option (BitVec 24))
  /-- `STC_F_128` (R192). Core-memory 128-bit store that sets full. -/
  | stcF128 (o : BitVec 2) (d : BitVec 7) (a : BitVec 7) (k : BitVec 5) (x : Option (BitVec 24))
  /-- `STC_T_128` (R195). Writes 16 bytes into the template image under construction. -/
  | stcT128 (d : BitVec 7) (a : BitVec 7) (k : BitVec 5) (x : Option (BitVec 24))
  /-- `UADD` (R159). Uniform integer add. -/
  | uadd (m : BitVec 3) (d : BitVec 7) (a : BitVec 7) (b : BitVec 7)
  /-- `USUB` (R159). Uniform integer subtract. -/
  | usub (m : BitVec 3) (d : BitVec 7) (a : BitVec 7) (b : BitVec 7)
  /-- `UMUL` (R159). Uniform integer multiply. -/
  | umul (m : BitVec 3) (d : BitVec 7) (a : BitVec 7) (b : BitVec 7)
  /-- `UMAD` (R159). Uniform multiply-add. -/
  | umad (m : BitVec 3) (d : BitVec 7) (a : BitVec 7) (b : BitVec 7)
  /-- `UDIV` (R159). Uniform integer divide. -/
  | udiv (m : BitVec 3) (d : BitVec 7) (a : BitVec 7) (b : BitVec 7)
  /-- `UREM` (R159). Uniform integer remainder. -/
  | urem (m : BitVec 3) (d : BitVec 7) (a : BitVec 7) (b : BitVec 7)
  /-- `UMIN` (R159). Uniform minimum. -/
  | umin (m : BitVec 3) (d : BitVec 7) (a : BitVec 7) (b : BitVec 7)
  /-- `UMAX` (R159). Uniform maximum. -/
  | umax (m : BitVec 3) (d : BitVec 7) (a : BitVec 7) (b : BitVec 7)
  /-- `UCMP` (R160). Uniform 32-bit integer compare. -/
  | ucmp (m : BitVec 3) (d : BitVec 7) (a : BitVec 7) (b : BitVec 7)
  /-- `UADD_64` (R165). Uniform 64-bit pair add. -/
  | uadd64 (m : BitVec 3) (d : BitVec 7) (a : BitVec 7) (b : BitVec 7)
  /-- `USUB_64` (R165). Uniform 64-bit pair subtract. -/
  | usub64 (m : BitVec 3) (d : BitVec 7) (a : BitVec 7) (b : BitVec 7)
  /-- `UCMP_64` (R160). Uniform 64-bit integer compare. -/
  | ucmp64 (m : BitVec 3) (d : BitVec 7) (a : BitVec 7) (b : BitVec 7)
  /-- `ULEA` (R165). Uniform address formation. -/
  | ulea (h : BitVec 3) (d : BitVec 7) (a : BitVec 7) (b : BitVec 7)
  /-- `UAND` (R161). Uniform bitwise AND. -/
  | uand (d : BitVec 7) (a : BitVec 7) (b : BitVec 7)
  /-- `UOR` (R161). Uniform bitwise OR. -/
  | uor (d : BitVec 7) (a : BitVec 7) (b : BitVec 7)
  /-- `UXOR` (R161). Uniform bitwise XOR. -/
  | uxor (d : BitVec 7) (a : BitVec 7) (b : BitVec 7)
  /-- `UANDN` (R161). Uniform a AND NOT b. -/
  | uandn (d : BitVec 7) (a : BitVec 7) (b : BitVec 7)
  /-- `USHL` (R161). Uniform shift left. -/
  | ushl (d : BitVec 7) (a : BitVec 7) (b : BitVec 7)
  /-- `USHR` (R161). Uniform logical shift right. -/
  | ushr (d : BitVec 7) (a : BitVec 7) (b : BitVec 7)
  /-- `USAR` (R161). Uniform arithmetic shift right. -/
  | usar (d : BitVec 7) (a : BitVec 7) (b : BitVec 7)
  /-- `UPOPC` (R161). Uniform population count. -/
  | upopc (d : BitVec 7) (a : BitVec 7)
  /-- `UCLZ` (R161). Uniform count of leading zeros. -/
  | uclz (d : BitVec 7) (a : BitVec 7)
  /-- `UCTZ` (R161). Uniform count of trailing zeros. -/
  | uctz (d : BitVec 7) (a : BitVec 7)
  /-- `UBFX` (R162). Uniform bit-field extract. -/
  | ubfx (s : BitVec 1) (d : BitVec 7) (a : BitVec 7) (b : BitVec 7)
  /-- `USEL` (R163). Uniform select. -/
  | usel (d : BitVec 7) (a : BitVec 7) (b : BitVec 7) (x : Option (BitVec 24))
  /-- `UADDI` (R164). Uniform add of a signed immediate. -/
  | uaddi (d : BitVec 7) (a : BitVec 7) (i : BitVec 10) (x : Option (BitVec 24))
  /-- `UANDI` (R164). Uniform AND with an immediate. -/
  | uandi (d : BitVec 7) (a : BitVec 7) (i : BitVec 10) (x : Option (BitVec 24))
  /-- `UORI` (R164). Uniform OR with an immediate. -/
  | uori (d : BitVec 7) (a : BitVec 7) (i : BitVec 10) (x : Option (BitVec 24))
  /-- `USHLI` (R164). Uniform shift left by an immediate. -/
  | ushli (d : BitVec 7) (a : BitVec 7) (i : BitVec 5)
  /-- `USHRI` (R164). Uniform logical shift right by an immediate. -/
  | ushri (d : BitVec 7) (a : BitVec 7) (i : BitVec 5)
  /-- `USARI` (R164). Uniform arithmetic shift right by an immediate. -/
  | usari (d : BitVec 7) (a : BitVec 7) (i : BitVec 5)
  /-- `LI` (R164). Loads an immediate into all 128 lanes. -/
  | li (d : BitVec 7) (i : BitVec 17) (x : Option (BitVec 24))
  /-- `UFADD_F32` (R166). Uniform f32 add. -/
  | ufaddF32 (m : BitVec 3) (d : BitVec 7) (a : BitVec 7) (b : BitVec 7)
  /-- `UFMUL_F32` (R166). Uniform f32 multiply. -/
  | ufmulF32 (m : BitVec 3) (d : BitVec 7) (a : BitVec 7) (b : BitVec 7)
  /-- `UFMAC_F32` (R166). Uniform fused f32 multiply-accumulate. -/
  | ufmacF32 (m : BitVec 3) (d : BitVec 7) (a : BitVec 7) (b : BitVec 7)
  /-- `UCMP_F32` (R166). Uniform f32 compare. -/
  | ucmpF32 (m : BitVec 3) (d : BitVec 7) (a : BitVec 7) (b : BitVec 7)
  /-- `UCVT_TO_FLOAT` (R171). Uniform conversion to a float type. -/
  | ucvtToFloat (m : BitVec 3) (d : BitVec 7) (a : BitVec 7) (s : BitVec 4) (t : BitVec 2)
  /-- `UCVT_TO_INTEGER` (R171). Uniform conversion to an integer type. -/
  | ucvtToInteger (m : BitVec 3) (d : BitVec 7) (a : BitVec 7) (s : BitVec 4) (t : BitVec 3)
  /-- `PREP` (R127). Prepares a target register from a PC-relative offset and starts prefetch. -/
  | prep (n : BitVec 3) (o : BitVec 21) (x : Option (BitVec 24))
  /-- `PREPV` (R128). Prepares a target register from a pointer pair. -/
  | prepv (n : BitVec 3) (c : BitVec 7)
  /-- `BR` (R132). Unconditional transfer through a target register. -/
  | br (n : BitVec 3)
  /-- `BRT` (R132). Transfer if the uniform condition bit is 1. -/
  | brt (n : BitVec 3) (c : BitVec 7)
  /-- `BRF` (R132). Transfer if the uniform condition bit is 0. -/
  | brf (n : BitVec 3) (c : BitVec 7)
  /-- `BRNONE` (R132). Transfer if EXEC is all zeros. -/
  | brnone (n : BitVec 3)
  /-- `BRANY` (R132). Transfer if EXEC has a bit set. -/
  | brany (n : BitVec 3)
  /-- `CALL` (R132). Writes the return address to bM and transfers through bN. -/
  | call (n : BitVec 3) (m : BitVec 3)
  /-- `BLOOP` (R134). Decrements the counter and transfers while it is not zero. -/
  | bloop (n : BitVec 3) (c : BitVec 7)
  /-- `BINV` (R131). Invalidates a target register and discards its window. -/
  | binv (n : BitVec 3)
  /-- `BMOV` (R129). Copies a target register with its preparation point. -/
  | bmov (n : BitVec 3) (m : BitVec 3)
  /-- `BRD` (R130). Reads a target register into a pair. -/
  | brd (n : BitVec 3) (c : BitVec 7)
  /-- `MSAVE` (R144). Writes EXEC to a mask register. -/
  | msave (d : BitVec 7)
  /-- `MLOAD` (R144). Sets EXEC from a mask register. -/
  | mload (a : BitVec 7)
  /-- `MAND` (R144). Sets EXEC to the AND of two masks. -/
  | mand (d : BitVec 7) (a : BitVec 7) (b : BitVec 7)
  /-- `MANDN` (R144). Sets EXEC to mask A AND NOT mask B. -/
  | mandn (d : BitVec 7) (a : BitVec 7) (b : BitVec 7)
  /-- `MOR` (R144). Sets EXEC to the OR of two masks. -/
  | mor (d : BitVec 7) (a : BitVec 7) (b : BitVec 7)
  /-- `MRESTORE` (R145). Sets EXEC from a mask and orders accesses as fence.ar.grp. -/
  | mrestore (a : BitVec 7)
  /-- `MALL` (R144). Saves EXEC and sets it to LIVE. -/
  | mall (d : BitVec 7)
  /-- `MCOUNT` (R144). Counts the set bits of a mask. -/
  | mcount (d : BitVec 7) (a : BitVec 7)
  /-- `MFIRST` (R144). Finds the lowest set bit of a mask. -/
  | mfirst (d : BitVec 7) (a : BitVec 7)
  /-- `BRK` (R151). Raises a breakpoint trap. -/
  | brk (i : BitVec 10)
  /-- `SVC` (R278). Raises a supervisor call trap and posts a record. -/
  | svc (i : BitVec 10)
  /-- `RETT` (R279). Supervisor acts on a mailbox record: resume or terminate. -/
  | rett (a : BitVec 7)
  /-- `SYSR` (R276). Reads a system register into all lanes. -/
  | sysr (d : BitVec 7) (n : BitVec 12)
  /-- `SYSW` (R276). Writes a system register. -/
  | sysw (d : BitVec 7) (n : BitVec 12)
  /-- `WLINE` (R280). Waits until a word differs from a value or the mailbox holds a record. -/
  | wline (d : BitVec 7) (a : BitVec 7) (b : BitVec 7)
  /-- `MMA_BF16` (R219). Issues a dense bf16 matrix step. -/
  | mmaBf16 (z : BitVec 1) (d : BitVec 7) (a : BitVec 7) (b : BitVec 7)
  /-- `MMA_F16` (R219). Issues a dense f16 matrix step. -/
  | mmaF16 (z : BitVec 1) (d : BitVec 7) (a : BitVec 7) (b : BitVec 7)
  /-- `MMA_T8` (R219). Issues a dense t8 matrix step. -/
  | mmaT8 (z : BitVec 1) (d : BitVec 7) (a : BitVec 7) (b : BitVec 7)
  /-- `MMA_T6` (R219). Issues a dense t6 matrix step. -/
  | mmaT6 (z : BitVec 1) (d : BitVec 7) (a : BitVec 7) (b : BitVec 7)
  /-- `MMA_I4` (R219). Issues a bf16 by i4 matrix step. -/
  | mmaI4 (z : BitVec 1) (d : BitVec 7) (a : BitVec 7) (b : BitVec 7)
  /-- `MMAS` (R220). Issues a sparse matrix step. -/
  | mmas (n : BitVec 2) (z : BitVec 1) (d : BitVec 7) (a : BitVec 7) (b : BitVec 7) (x : Option (BitVec 24))
  /-- `MMAQ_BF16` (R225). Issues this member's part of a bf16 quad step. -/
  | mmaqBf16 (z : BitVec 1) (d : BitVec 7) (a : BitVec 7) (b : BitVec 7)
  /-- `MMAQ_F16` (R225). Issues this member's part of an f16 quad step. -/
  | mmaqF16 (z : BitVec 1) (d : BitVec 7) (a : BitVec 7) (b : BitVec 7)
  /-- `MMAQ_T8` (R225). Issues this member's part of a t8 quad step. -/
  | mmaqT8 (z : BitVec 1) (d : BitVec 7) (a : BitVec 7) (b : BitVec 7)
  /-- `MMAQ_T6` (R225). Issues this member's part of a t6 quad step. -/
  | mmaqT6 (z : BitVec 1) (d : BitVec 7) (a : BitVec 7) (b : BitVec 7)
  /-- `MMAQ_I4` (R225). Issues this member's part of an i4 quad step. -/
  | mmaqI4 (z : BitVec 1) (d : BitVec 7) (a : BitVec 7) (b : BitVec 7)
  /-- `MMAQS` (R225). Issues this member's part of a sparse quad step. -/
  | mmaqs (n : BitVec 2) (z : BitVec 1) (d : BitVec 7) (a : BitVec 7) (b : BitVec 7) (x : Option (BitVec 24))
  /-- `MSCL` (R224). Writes the matrix scale state. -/
  | mscl (a : BitVec 7)
  /-- `MFENCE` (R229). Closes the pending set into a batch. -/
  | mfence (d : BitVec 7)
  /-- `MWAIT` (R230). Waits for a batch and reports its faults. -/
  | mwait (a : BitVec 7)
  /-- `MSTAT` (R231). Reads batch, scale or copy-queue counters. -/
  | mstat (d : BitVec 7) (s : BitVec 7)
  /-- `CPY` (R238). Issues a linear copy request. -/
  | cpy (d : BitVec 7) (a : BitVec 7) (b : BitVec 7)
  /-- `CPY2D` (R238). Issues a two-dimensional copy request. -/
  | cpy2d (d : BitVec 7) (a : BitVec 7) (b : BitVec 7) (x : Option (BitVec 24))
  /-- `CPYX` (R239). Issues a converting copy request. -/
  | cpyx (d : BitVec 7) (a : BitVec 7) (b : BitVec 7)
  /-- `CPYK` (R240). Issues a keyed copy to or from a remote window. -/
  | cpyk (d : BitVec 7) (a : BitVec 7) (b : BitVec 7) (x : Option (BitVec 24))
  /-- `FREEZE_KEEP` (R249). Makes a stem, returns its handle and continues. -/
  | freezeKeep (d : BitVec 7)
  /-- `STEMEND` (R255). Ends an open stem named by a handle. -/
  | stemend (a : BitVec 7)
  /-- `SPAWN` (R257). Appends active lanes' items to the bin of the own stem and target. -/
  | spawn (n : BitVec 3) (c : BitVec 7)
  /-- `SPAWNF` (R257). Appends items to bins of per-lane stem handles. -/
  | spawnf (n : BitVec 3) (c : BitVec 7)
  /-- `LAUNCH` (R261). Supervisor takes the die's share of a launch packet. -/
  | launch (a : BitVec 7)
  /-- `BAR` (R262). Arrives at a named barrier and waits for the phase. -/
  | bar (a : BitVec 7) (b : BitVec 7)
  /-- `ARRIVE` (R262). Arrives at a named barrier and returns the phase. -/
  | arrive (d : BitVec 7) (a : BitVec 7) (b : BitVec 7)
  /-- `WAITB` (R262). Waits until a barrier phase has completed. -/
  | waitb (a : BitVec 7) (b : BitVec 7)
  /-- `QUOTA` (R265). Team rendezvous that changes role register budgets. -/
  | quota (a : BitVec 7)
  /-- `ENERGY` (R284). Reads launch or die energy accounting. -/
  | energy (d : BitVec 7) (a : BitVec 7)
  /-- `BIST` (R283). Supervisor runs a built-in self-test on a unit. -/
  | bist (d : BitVec 7) (a : BitVec 7)
  /-- `TRC` (R282). Emits a software trace packet. -/
  | trc (a : BitVec 7)
  /-- `SEND` (R268). Issues a message send request. -/
  | send (d : BitVec 7) (a : BitVec 7) (b : BitVec 7)
  /-- `RECV` (R269). Posts a receive in the core's table. -/
  | recv (d : BitVec 7) (a : BitVec 7) (b : BitVec 7)
  /-- `PROBE` (R270). Reports the oldest matching overflow message. -/
  | probe (d : BitVec 7) (a : BitVec 7) (b : BitVec 7)
  /-- `RWAIT` (R270). Waits for a receive and returns its status. -/
  | rwait (d : BitVec 7) (a : BitVec 7)
  /-- `COLL_RED` (R272). Issues a collective reduction. -/
  | collRed (d : BitVec 7) (a : BitVec 7) (b : BitVec 7)
  /-- `COLL_BCAST` (R272). Issues a collective broadcast. -/
  | collBcast (d : BitVec 7) (a : BitVec 7) (b : BitVec 7)
  /-- `COLL_GATH` (R272). Issues a collective gather. -/
  | collGath (d : BitVec 7) (a : BitVec 7) (b : BitVec 7)
  /-- `CWAIT` (R274). Waits for the group's collectives of a GID. -/
  | cwait (a : BitVec 7)
  /-- `GRUN` (R275). Starts a parser run of a graph. -/
  | grun (d : BitVec 7) (a : BitVec 7)
  /-- `GSET` (R275). Stores a condition word and wakes runs waiting on it. -/
  | gset (a : BitVec 7) (b : BitVec 7)
  /-- `GWAIT` (R275). Waits for a parser run to end and returns its status. -/
  | gwait (d : BitVec 7) (a : BitVec 7)
  /-- `TLBINV` (R281). Supervisor drops translations within a scope. -/
  | tlbinv (a : BitVec 7) (b : BitVec 7)
  /-- `FENCE` (R203). Orders the group's accesses by kind and scope. -/
  | fence (k : BitVec 2) (s : BitVec 3)
  /-- `EXT` (R63, R64): an `ext` word with payload word `p` (KIND and PAYLOAD, bits [23:0]) before the word `w2`,
  which does not accept it; an accepted payload is part of the instruction it extends. -/
  | ext (p : BitVec 24) (w2 : BitVec 32)
  /-- `WORD_NOT_AN_INSTRUCTION` (R76). A group executes a word with an unassigned major opcode or a reserved selector or non-zero zero field that no encoding admits, and it raises an illegal fault. -/
  | wordNotAnInstruction (w : BitVec 32)
  /-- `INSTRUCTION_FETCH_FAULT` (R136). Fetching the next code word faults and the fault is reported for the instruction at that word. -/
  | instructionFetchFault (cls : BitVec 4) (code : BitVec 8) (addr : BitVec 64) (info : BitVec 64)
  /-- `ISYNC` (R143). Waits for own stores, refreshes all windows and moves preparation points. -/
  | isync
  /-- `LEXIT` (R147). Clears LIVE and EXEC of the active lanes. -/
  | lexit
  /-- `EXIT` (R148). Ends the group after its outstanding work drains. -/
  | exit
  /-- `NOP` (R150). Has no effect. -/
  | nop
  /-- `YIELD` (R150). Lowers issue priority and marks the team for the next swap. -/
  | yield
  /-- `FREEZE` (R249). Makes a stem from the group and ends the group. -/
  | freeze
  /-- `REGISTER_COPY_REEXECUTE` (R365). After the swap frame is written the faulting instruction is re-executed.
  Operands: `key` the faulting group. -/
  | registerCopyReexecute
  /-- `MAILBOX_POST` (R277). Device posts a record into the core mailbox when the slot is free.
  Operands: `key` the core. -/
  | mailboxPost
  /-- `DIE_RESET` (R51). Die reset: boot ROM, firmware copy and supervisor group starts.
  Operands: `key` the die, `flag` the signature verifies, `num` the version, `data` the image. -/
  | dieReset
  /-- `GROUP_END` (R148). After drains complete, an exiting group ends and frees its slot.
  Operands: `key` the group. -/
  | groupEnd
  /-- `TEAM_DISPATCH` (R353). The die places the next team or bin group on a core when room allows.
  Operands: `key` the die, `sub` the core chosen. -/
  | teamDispatch
  /-- `GRID_PROLOGUE_DISPATCH` (R359). The grid prologue group is dispatched before the die's share.
  Operands: `key` the die, `sub` the core chosen. -/
  | gridPrologueDispatch
  /-- `BIN_TIMER_EXPIRY` (R360). A bin's timer reaches its period and the bin launches.
  Operands: `key` the die, `sub` the position of the bin among the bins in use. -/
  | binTimerExpiry
  /-- `QUANTUM_SWAP` (R364). A team resident for a quantum is chosen and swapped out.
  Operands: `key` the core. -/
  | quantumSwap
  /-- `GROUP_FRAME_WRITE` (R52). After awaited work completes, a group frame is written.
  Operands: `key` the group. -/
  | groupFrameWrite
  /-- `TEAM_RESTORE` (R54). A swapped team frame is restored on a core of its die.
  Operands: `key` the team, `sub` the core chosen. -/
  | teamRestore
  /-- `GROUP_FRAME_RESTORE` (R367). A group saved on a page fault is restored into a free slot.
  Operands: `key` the group. -/
  | groupFrameRestore
  /-- `ENERGY_WINDOW` (R368). A new energy window starts and charges reset.
  Operands: `key` the die. -/
  | energyWindow
  /-- `CLOCK_THROTTLE` (R453). Energy cap or power rating reached lowers the arithmetic clock.
  Operands: `key` the die. -/
  | clockThrottle
  /-- `LAUNCH_COMPLETION` (R369). Home die drains the launch and writes record and signal.
  Operands: `key` the home die, `num` the launch identity. -/
  | launchCompletion
  /-- `LAUNCH_FAILURE_REPORT` (R370). A failure report reaches the home die and fixes the record.
  Operands: `key` the home die, `sub` the position of the report among those under way. -/
  | launchFailureReport
  /-- `LAUNCH_END_NOTICE` (R370). A named die ends a failed launch's teams, bins and stems.
  Operands: `key` the die, `num` the launch identity. -/
  | launchEndNotice
  /-- `MATRIX_OP_COMPLETE` (R214). A matrix operation writes all destinations in one step or faults.
  Operands: `key` the group. -/
  | matrixOpComplete
  /-- `COPY_REQUEST_START` (R386). A copy request holds ownership of all destination lines and starts.
  Operands: `key` the team, `sub` the queue. -/
  | copyRequestStart
  /-- `COPY_REQUEST_COMPLETE` (R236). A copy request completes and its queue count advances.
  Operands: `key` the team, `sub` the queue. -/
  | copyRequestComplete
  /-- `PAGE_REQUEST_POST` (R339). A not-present fault posts a record to the page request ring when room exists.
  Operands: `key` the die. -/
  | pageRequestPost
  /-- `PRQ_DONE` (R340). Supervisor write restores groups and resumes engines waiting on a request.
  Operands: `key` the die, `val` the request number written. -/
  | prqDone
  /-- `ATS_COMPLETION` (R343). An ATS Translation completion is cached, refused or starts PRI.
  Operands: `key` the package, `sub` the page (PASID × 2^44 + virtual page number; 2^64 more where the request asks for write access), `num` 0 granted, 1 granted read only, 2 no access, 3 Unsupported Request or Completer Abort, `val` the host page number. -/
  | atsCompletion
  /-- `PRG_RESPONSE` (R343). A PRG Response restores waiting groups or faults them.
  Operands: `key` the package, `sub` the page as for ATS_COMPLETION, `num` 0 Success, 1 Response Failure, 2 Invalid Request. -/
  | prgResponse
  /-- `ATS_INVALIDATION` (R344). Endpoint drops translations and completes after using accesses finish.
  Operands: `key` the package, `val` the PASID, `sub` the first page, `num` the count of pages. -/
  | atsInvalidation
  /-- `HOST_READ` (R438). A host read to BAR0 is performed coherently at sys scope.
  Operands: `key` the package, `sub` the BAR0 offset, `num` the length, `flag` the T bit, `val` No Snoop [0] and the IDE stream [11:8]. -/
  | hostRead
  /-- `HOST_WRITE` (R438). A host write to BAR0 is checked by the firewall and performed.
  Operands: `key` the package, `sub` the BAR0 offset, `data` the bytes, `flag` the T bit, `num` the attributes: No Snoop [0], Relaxed Ordering [1], the IDE stream [11:8]. -/
  | hostWrite
  /-- `HOST_ATOMICOP` (R438). A host AtomicOp is performed at the line's home.
  Operands: `key` the package, `sub` the BAR0 offset, `num` 0 FetchAdd, 1 Swap, 2 CAS, `data` the operand bytes (for CAS the compare bytes, then the new ones), `flag` the T bit, `val` the IDE stream [11:8]. -/
  | hostAtomicop
  /-- `TDISP_MESSAGE` (R441). A TDISP message moves the TDI between its states.
  Operands: `key` the package, `sub` the stream that the interface is bound to, `num` 0 LOCK_INTERFACE, 1 START_INTERFACE, 2 a condition in which TDISP moves a locked or running interface to ERROR. -/
  | tdispMessage
  /-- `STOP_INTERFACE` (R441). STOP_INTERFACE returns the TDI to CONFIG_UNLOCKED.
  Operands: `key` the package. -/
  | stopInterface
  /-- `IDE_KM` (R441). An IDE_KM message configures IDE stream keys.
  Operands: `key` the package, `sub` the stream, `data` the key. -/
  | ideKm
  /-- `SPDM_MEASUREMENTS` (R444). An attestation request returns signed measurements, burning a leaf index.
  Operands: `key` the package. -/
  | spdmMeasurements
  /-- `STORAGE_REQUEST` (R436). The storage service performs a posted ring record and writes STATUS.
  Operands: `key` the package, `val` the STATUS the service ends with, `data` the file bytes of a read. -/
  | storageRequest
  /-- `MIG_GO` (R345). MIG.CTL GO write checks and starts a page migration.
  Operands: `key` the die, `val` the value written to MIG.CTL. -/
  | migGo
  /-- `MIGRATION_RECALL` (R345). Every cached copy of the page is written back and dropped.
  Operands: `key` the die. -/
  | migrationRecall
  /-- `MIGRATION_COPY` (R345). Every line with tags and P state is written to the destination.
  Operands: `key` the die. -/
  | migrationCopy
  /-- `MIGRATION_REMAP` (R345). The leaf is updated by compare-and-swap to the new frame.
  Operands: `key` the die. -/
  | migrationRemap
  /-- `MIGRATION_FORWARD` (R345). The source forwards queued arrivals and translations are dropped.
  Operands: `key` the die. -/
  | migrationForward
  /-- `MIGRATION_RELEASE` (R345). The destination performs held arrivals and the migration ends.
  Operands: `key` the die. -/
  | migrationRelease
  /-- `REBALANCE_PERIOD` (R322). At a period end the busiest bucket may be moved.
  Operands: `key` the die. -/
  | rebalancePeriod
  /-- `BUCKET_WRITE` (R323). A BUCKET write requests a move or is refused setting BADW.
  Operands: `key` the die, `sub` the bucket, `val` the value written. -/
  | bucketWrite
  /-- `BUCKET_DRAIN` (R322). Once in-flight requests end the slice writes back and drops the bucket.
  Operands: `key` the die. -/
  | bucketDrain
  /-- `HOME_GETS` (R410). Home serves a GetS request.
  Operands: `key` the transaction. -/
  | homeGets
  /-- `HOME_GETM` (R410). Home serves a GetM request.
  Operands: `key` the transaction. -/
  | homeGetm
  /-- `HOME_UPGRADE` (R410). Home serves an Upgrade request.
  Operands: `key` the transaction. -/
  | homeUpgrade
  /-- `WRITE_NOTICE` (R409). Home records an E line as M and acknowledges.
  Operands: `key` the sending package, `sub` the line (gallery address / 128). -/
  | writeNotice
  /-- `PUTM` (R410). Home writes returned dirty data to memory.
  Operands: `key` the sending package, `sub` the line. -/
  | putm
  /-- `PUTE` (R410). Home records the clean exclusive copy as dropped.
  Operands: `key` the sending package, `sub` the line. -/
  | pute
  /-- `HOME_ATOMIC` (R201). Home invalidates holders and performs an atomic.
  Operands: `key` the transaction. -/
  | homeAtomic
  /-- `UNCACHED_READ` (R410). Home serves an uncached read.
  Operands: `key` the transaction. -/
  | uncachedRead
  /-- `UNCACHED_WRITE` (R410). Home invalidates holders and performs an uncached write.
  Operands: `key` the transaction. -/
  | uncachedWrite
  /-- `RECALL` (R411). A holder returns its data and acknowledges a recall.
  Operands: `key` the holding package, `sub` the line. -/
  | recall
  /-- `INVALIDATE` (R411). A holder drops its copies and acknowledges.
  Operands: `key` the holding package, `sub` the line. -/
  | invalidate
  /-- `CACHE_EVICT` (R408). A package drops a remote copy, sending PutE or PutM when needed.
  Operands: `key` the holding package, `sub` the line. -/
  | cacheEvict
  /-- `RESPONSE_DATA` (R410). Data response arrives at the requester.
  Operands: `key` the transaction. -/
  | responseData
  /-- `RESPONSE_GRANT` (R410). Grant response arrives at the requester.
  Operands: `key` the transaction. -/
  | responseGrant
  /-- `RESPONSE_ACKNOWLEDGE` (R411). An acknowledgement arrives at the home or requester.
  Operands: `key` the transaction. -/
  | responseAcknowledge
  /-- `RESPONSE_REFUSED` (R415). A refused response faults the requester.
  Operands: `key` the transaction. -/
  | responseRefused
  /-- `RESPONSE_POISONED` (R428). A poisoned response makes the requester fault with a lost line.
  Operands: `key` the transaction. -/
  | responsePoisoned
  /-- `BULK_PACKET` (R418). A bulk copy, message or collective packet arrives from the fabric.
  Operands: `key` the die, `hdr` the 32 header bytes, `data` the data bytes. -/
  | bulkPacket
  /-- `KEY_COPY_PACKET` (R241). A key-copy packet reaches the target package.
  Operands: `key` the team, `sub` the queue. -/
  | keyCopyPacket
  /-- `TRANSACTION_TIMEOUT` (R420). A transaction's limit expires and its issuer faults.
  Operands: `num` 0 `key` the transaction, 1 `key` the team and `sub` the queue of an engine request, 2 `key` the collective instance, 3 `key` the die and `sub` the handle of the run, 4 `key` the package and `sub` the page of an address request, 5 `key` the message, 6 `key` the group of a table walk. -/
  | transactionTimeout
  /-- `DIE_EDGE_FLIT` (R383). A die-edge flit is accepted in order or discarded for replay.
  Operands: `key` the die, `sub` the edge, `num` the station, `val` the first eight bytes of the flit, `data` its payload, `flag` the
  CRC is correct. -/
  | dieEdgeFlit
  /-- `DIE_EDGE_RETRAIN` (R384). An edge retrains after errors or a lane failure, or goes down.
  Operands: `key` the die, `sub` the edge, `num` 0 the retrain ends and `flag` it succeeds, 1 a lane fails. -/
  | dieEdgeRetrain
  /-- `D2D_RETRAIN` (R384). Supervisor write of D2D.CTL RETRAIN starts an edge retrain.
  Operands: `key` the die, `sub` the edge, `val` the value written to D2D.CTL. -/
  | d2dRetrain
  /-- `FABRIC_PORT_RETRAIN` (R418). A fabric port retrains, or goes down after three failures.
  Operands: `key` the die, `sub` the port, `flag` the retrain succeeds. -/
  | fabricPortRetrain
  /-- `FAB_RETRAIN` (R418). Supervisor write of FAB.CTL RETRAIN starts a port retrain.
  Operands: `key` the die, `val` the value written to FAB.CTL. -/
  | fabRetrain
  /-- `MESSAGE_ANNOUNCEMENT` (R391). Receiver decides an announcement: bind, overflow or refuse.
  Operands: `key` the message. -/
  | messageAnnouncement
  /-- `ANNOUNCEMENT_REPLY` (R390). Sender receives accept and sends data, or refuse and schedules a repeat.
  Operands: `key` the message. -/
  | announcementReply
  /-- `MESSAGE_RETRY` (R392). The retry gap expires and the announcement is repeated or finally refused.
  Operands: `key` the message. -/
  | messageRetry
  /-- `MESSAGE_DATA_PACKET` (R393). A message data packet is placed by offset and counted.
  Operands: `key` the message, `sub` the packet number. -/
  | messageDataPacket
  /-- `COLLECTIVE_PACKET` (R399). A collective chunk arrives and is combined or placed.
  Operands: `key` the instance, `sub` the place of the chunk among those still to be written. -/
  | collectivePacket
  /-- `COLLECTIVE_DRAIN_REPORT` (R398). A member's drain report reaches rank 0.
  Operands: `key` the instance, `sub` the reporting rank. -/
  | collectiveDrainReport
  /-- `COLLECTIVE_DRAINED_NOTICE` (R398). Rank 0's notice lets the member's next instance begin.
  Operands: `key` the instance, `sub` the rank noticed. -/
  | collectiveDrainedNotice
  /-- `CLAUSE_LAUNCH` (R373). Parser launch clause takes the die's share and ends at the signal.
  Operands: `key` the die, `sub` the handle of the run. -/
  | clauseLaunch
  /-- `CLAUSE_COPY` (R373). Parser copy clause performs a pointer copy.
  Operands: `key` the die, `sub` the handle of the run. -/
  | clauseCopy
  /-- `CLAUSE_COLLECTIVE` (R373). Parser collective clause issues as a member.
  Operands: `key` the die, `sub` the handle of the run. -/
  | clauseCollective
  /-- `CLAUSE_CONDITIONAL` (R373). Parser conditional clause compares a word, branches or waits.
  Operands: `key` the die, `sub` the handle of the run. -/
  | clauseConditional
  /-- `CLAUSE_WHILE` (R373). Parser while clause enters its body or proceeds to NEXT.
  Operands: `key` the die, `sub` the handle of the run. -/
  | clauseWhile
  /-- `GAL_ID_WRITE` (R402). Write of GAL.ID with V set locks the package and cell identity.
  Operands: `key` the die, `val` the value written. -/
  | galIdWrite
  /-- `REC_DECLARE` (R423). Supervisor declares a cell dead and queues it for recovery.
  Operands: `key` the die, `val` the value written. -/
  | recDeclare
  /-- `RECOVERY_FENCE` (R424). The die discards the dead cell's packets and faults its transactions.
  Operands: `key` the die. -/
  | recoveryFence
  /-- `RECOVERY_RESOLVE` (R425). Transactions waiting on the dead cell are completed.
  Operands: `key` the die. -/
  | recoveryResolve
  /-- `RECOVERY_SWEEP` (R426). Remote-directory entries involving the dead cell are resolved.
  Operands: `key` the die. -/
  | recoverySweep
  /-- `RECOVERY_REPORT` (R425). Lost lines are counted and a record posted to the lowest good core.
  Operands: `key` the die. -/
  | recoveryReport
  /-- `REC_READMIT` (R431). Supervisor readmits a dead cell on a die.
  Operands: `key` the die, `val` the value written. -/
  | recReadmit
  /-- `FIREWALL_WRITE` (R416). Firewall register write recalls write ownership it removes.
  Operands: `key` the die, `sub` the register offset, `val` the value written. -/
  | firewallWrite
  /-- `RDIR_QUERY` (R433). RDIR.Q write snapshots a line's home state.
  Operands: `key` the die, `val` the value written. -/
  | rdirQuery
  /-- `REGISTER_WRITE` (R347). Write to a device or system register that has no row of its own.
  Operands: `key` the die, `sub` the register offset, `val` the value written. -/
  | registerWrite
  /-- `DBG_STOP` (R460). Debug operation 1 requests a team stop.
  Operands: `key` the die, `val` the value written to DBG.CTL. -/
  | dbgStop
  /-- `TEAM_STOP_EFFECT` (R461). The team stops at one moment, the dump is written and a record posted.
  Operands: `key` the die. -/
  | teamStopEffect
  /-- `DBG_ATTACH` (R460). Debug operation 2 cancels the hold limit.
  Operands: `key` the die, `val` the value written to DBG.CTL. -/
  | dbgAttach
  /-- `DBG_STEP` (R460). Debug operation 3 steps each non-waiting held group once.
  Operands: `key` the die, `val` the value written to DBG.CTL. -/
  | dbgStep
  /-- `DBG_RESUME` (R460). Debug operation 4 resumes the held team.
  Operands: `key` the die, `val` the value written to DBG.CTL. -/
  | dbgResume
  /-- `DBG_TERMINATE` (R460). Debug operation 5 terminates the held team and fails its launch.
  Operands: `key` the die, `val` the value written to DBG.CTL. -/
  | dbgTerminate
  /-- `HOLD_LIMIT_EXPIRY` (R460). The hold limit passes in the held state and the team resumes.
  Operands: `key` the die. -/
  | holdLimitExpiry
  /-- `SAMPLE_TICK` (R456). At each sampling period each partition writes a sample record.
  Operands: `key` the core. -/
  | sampleTick
  /-- `TRACE_ENABLE` (R462). A 0-to-1 write of TRACE.CTL.EN starts tracing with SYNC packets.
  Operands: `key` the core, `val` the value written to TRACE.CTL. -/
  | traceEnable
  /-- `MARG_VOLT` (R449). A MARG.VOLT write applies clamped voltage offsets die-wide.
  Operands: `key` the die, `val` the value written. -/
  | margVolt
  /-- `MARG_LRUN` (R449). A MARG.LRUN GO write starts a link margin run.
  Operands: `key` the die, `val` the value written. -/
  | margLrun
  /-- `MARGIN_RUN_DONE` (R449). After 2^20 flits the margin run ends and reports its errors.
  Operands: `key` the die, `val` the errors counted. -/
  | marginRunDone
  /-- `LANE_SPARE_STEER` (R446). Once the core drains, a failing lane is steered to the spare.
  Operands: `key` the core, `sub` the partition. -/
  | laneSpareSteer
  /-- `BIST_TEST_COMPLETE` (R283). A running self-test ends, its unit returns to service and the status pair is written to D.
  Operands: `key` the group, `val` the count of failing elements. -/
  | bistTestComplete
  /-- `CELL_FAILURE` (R430). The packages of a cell lose power or fail, stop their accesses and stop answering the gallery.
  Operands: `sub` the cell. -/
  | cellFailure
  /-- `FABRIC_LINK_TRAINING` (R418). A fabric port completes data-link training with a newly joined partner and its UP bit becomes 1.
  Operands: `key` the die, `sub` the port. -/
  | fabricLinkTraining
deriving DecidableEq, Repr

end Sys2Proof
end

