-- ==== Sys2Proof/WellFormed.lean ====
section
/-! DEFINITION. Which terms of `Instr` stand for a step: an `ext` payload only where Table 2-3 accepts its KIND, an `ext`
term only for a pair that is not accepted (R64), and `wordNotAnInstruction` only for a word that no row of the opcode table
matches (R76). -/

namespace Sys2Proof

/-- Set and OP of an instruction word, bits [31:24] (R55). -/
def major (w : BitVec 32) : Nat := (w.extractLsb' 24 8).toNat

/-- The zero and selector bits a word of this major must hold: alternatives (mask, value) over bits [23:0] (R59, Tables 2-4
to 2-7, and each entry's zero fields). A major without an alternative is unassigned. -/
def rowsAt (maj : Nat) : List (BitVec 24 × BitVec 24) :=
  match maj with
  | 0x00 | 0x01 | 0x02 | 0x03 | 0x04 | 0x05 | 0x06 | 0x07 | 0x08 | 0x0B | 0x0C | 0x0D | 0x0E | 0x0F | 0x20 
  | 0x21 | 0x22 | 0x23 | 0x27 | 0x28 | 0x29 | 0x2A | 0x2B | 0x30 | 0x31 | 0x32 | 0x33 | 0x36 | 0x38 | 0x39 
  | 0x3A | 0x3B | 0x3E | 0x40 | 0x41 | 0x42 | 0x43 | 0x44 | 0x45 | 0x46 | 0x47 | 0x48 | 0x49 | 0x4A | 0x4B 
  | 0x4C | 0x4D | 0x4E | 0x51 | 0x53 | 0x54 | 0x55 | 0x5E | 0x5F | 0x60 | 0x61 | 0x62 | 0x63 | 0x64 | 0x65 
  | 0x66 | 0x67 | 0x68 | 0x69 | 0x6A | 0x6B | 0x6C | 0x6D | 0x6E | 0x80 | 0x81 | 0x82 | 0x84 | 0x85 | 0x86 
  | 0x87 | 0x88 | 0x8B | 0x8C | 0x8D | 0x8E | 0x8F | 0xA0 | 0xA1 | 0xA2 | 0xA8 | 0xA9 | 0xAA | 0xAB | 0xAC 
  | 0xAE | 0xB0 | 0xD5 | 0xDB => [(0x000000#24, 0x000000#24)]
  | 0x09 | 0x0A => [(0x00007F#24, 0x000000#24)]
  | 0x10 | 0x11 | 0x12 | 0x13 | 0x14 | 0x15 | 0x16 | 0x17 | 0x18 | 0x1E | 0x1F | 0x2C | 0x34 | 0x35 | 0x3C 
  | 0x3D | 0x90 | 0x91 | 0x92 | 0x93 | 0x94 | 0x95 | 0x96 | 0x9F | 0xC2 | 0xC3 | 0xC4 | 0xCF | 0xE0 | 0xE1 
  | 0xE2 | 0xE3 | 0xEA | 0xF0 | 0xF1 | 0xF2 | 0xF4 | 0xF5 | 0xF6 => [(0xE00000#24, 0x000000#24)]
  | 0x19 | 0x1A | 0x1B | 0x1C | 0x99 | 0x9A | 0x9B | 0xC7 | 0xC8 | 0xED | 0xEE | 0xF3 | 0xF8 | 0xFA => [(0xE0007F#24, 0x000000#24)]
  | 0x1D | 0x9D | 0xD0 | 0xD1 | 0xD2 | 0xD3 | 0xD4 | 0xD6 | 0xD7 | 0xD8 | 0xD9 | 0xDA => [(0xC00000#24, 0x000000#24)]
  | 0x24 | 0x25 | 0x26 | 0xA4 | 0xA5 | 0xA6 => [(0x0003E0#24, 0x000000#24)]
  | 0x37 => [(0xE0007F#24, 0x000000#24), (0xE0007F#24, 0x200000#24), (0xE0007F#24, 0x400000#24), (0xE0007F#24, 0x600000#24), (0xE0007F#24, 0x800000#24), (0xE0007F#24, 0xA00000#24)]
  | 0x50 | 0x52 | 0xAD => [(0x000004#24, 0x000000#24)]
  | 0x56 | 0x59 => [(0xFFF000#24, 0x000000#24)]
  | 0x57 | 0x58 | 0x7F => [(0xF80000#24, 0x000000#24)]
  | 0x5A | 0x5B | 0x5C | 0x5D => [(0xC7F000#24, 0x000000#24)]
  | 0x70 | 0x71 | 0x72 | 0x73 | 0x74 | 0x75 | 0x76 | 0x77 | 0x78 | 0x79 | 0x7A | 0x7B | 0x7C | 0x7D | 0x7E => [(0x380000#24, 0x000000#24)]
  | 0xB1 | 0xB3 | 0xB4 | 0xB8 | 0xBB | 0xE6 | 0xE7 => [(0x1C07FF#24, 0x000000#24)]
  | 0xB2 | 0xB5 | 0xB6 | 0xB9 => [(0x1FFFFF#24, 0x000000#24)]
  | 0xB7 | 0xBA => [(0x03FFFF#24, 0x000000#24)]
  | 0xBC | 0xBD | 0xBE | 0xBF | 0xC9 => [(0xFFFFFF#24, 0x000000#24)]
  | 0xC0 | 0xC6 | 0xDD => [(0xE03FFF#24, 0x000000#24)]
  | 0xC1 | 0xC5 | 0xCC | 0xDC | 0xDE | 0xE5 | 0xE8 | 0xEC | 0xEF | 0xF7 => [(0xFFC07F#24, 0x000000#24)]
  | 0xCA | 0xCB => [(0xFFFC00#24, 0x000000#24)]
  | 0xCD | 0xCE => [(0x01F000#24, 0x000000#24)]
  | 0xDF => [(0xE03F80#24, 0x000000#24)]
  | 0xE4 => [(0xFFFFFF#24, 0x000000#24), (0xE03FFF#24, 0x000001#24)]
  | 0xE9 | 0xEB | 0xF9 | 0xFB => [(0xFFC000#24, 0x000000#24)]
  | 0xFC => [(0xFFFFE0#24, 0x000000#24)]
  | _ => []

/-- The word is an instruction of its own: some row of the opcode table other than `ext` matches it. -/
def rowWord (w : BitVec 32) : Bool :=
  (rowsAt (major w)).any fun r => w.extractLsb' 0 24 &&& r.1 == r.2

/-- The instruction with this major accepts an `ext` of KIND `k` (Table 2-3). -/
def acceptsKind (maj : Nat) (k : BitVec 2) : Bool :=
  match maj with
  | 0x1F | 0x28 | 0x2C | 0x9F | 0xD5 | 0xDB | 0xE1 | 0xE3 => k == 1#2
  | 0x20 | 0x21 | 0x22 | 0x23 | 0x27 | 0xA0 | 0xA1 | 0xA2 | 0xA8 | 0xB0 => k == 0#2
  | 0x56 | 0x57 | 0x58 | 0x59 | 0x5A | 0x5B | 0x5C | 0x5D | 0x5E | 0x5F | 0x60 | 0x61 | 0x62 | 0x63 | 0x64 
  | 0x65 | 0x66 | 0x68 | 0x69 | 0x6A | 0x6B | 0x6C | 0x70 | 0x71 | 0x72 | 0x73 | 0x74 | 0x75 | 0x76 | 0x77 
  | 0x78 | 0x79 | 0x7A | 0x7B | 0x7C | 0x7D | 0x7E | 0x7F => k == 0#2 || k == 2#2
  | 0x67 | 0x6D | 0x6E => k == 2#2
  | _ => false

/-- No prefix, or one whose KIND the major accepts. -/
def prefixOk (maj : Nat) (x : Option (BitVec 24)) : Bool :=
  match x with
  | none => true
  | some p => acceptsKind maj (p.extractLsb' 22 2)

/-- The word with this prefix decodes to a row of the opcode table that is not `ext`. -/
def accepted (w : BitVec 32) (x : Option (BitVec 24)) : Bool :=
  rowWord w && prefixOk (major w) x

/-- The term stands for a step of the machine. -/
def Instr.wf (i : Instr) : Bool :=
  match i with
  | .ext p w2 => !accepted w2 (some p)
  | .wordNotAnInstruction w => !rowWord w && major w != 0xFF
  | .sel _ _ _ x => prefixOk 0x1F x
  | .addi _ _ _ x => prefixOk 0x20 x
  | .andi _ _ _ x => prefixOk 0x21 x
  | .ori _ _ _ x => prefixOk 0x22 x
  | .xori _ _ _ x => prefixOk 0x23 x
  | .muli _ _ _ x => prefixOk 0x27 x
  | .shfl _ _ _ _ x => prefixOk 0x28 x
  | .perm _ _ _ x => prefixOk 0x2C x
  | .clre _ _ x => prefixOk 0x56 x
  | .tagld _ _ _ x => prefixOk 0x57 x
  | .tagst _ _ _ x => prefixOk 0x58 x
  | .pclr _ _ x => prefixOk 0x59 x
  | .cwb _ _ _ x => prefixOk 0x5A x
  | .cinv _ _ _ x => prefixOk 0x5B x
  | .cflush _ _ _ x => prefixOk 0x5C x
  | .pref _ _ _ x => prefixOk 0x5D x
  | .ldf _ _ _ _ _ x => prefixOk 0x5E x
  | .stf _ _ _ _ _ x => prefixOk 0x5F x
  | .ldS8 _ _ _ _ _ x => prefixOk 0x60 x
  | .ldN8 _ _ _ _ _ x => prefixOk 0x61 x
  | .ldS16 _ _ _ _ _ x => prefixOk 0x62 x
  | .ldN16 _ _ _ _ _ x => prefixOk 0x63 x
  | .ld32 _ _ _ _ _ x => prefixOk 0x64 x
  | .ld64 _ _ _ _ _ x => prefixOk 0x65 x
  | .ld128 _ _ _ _ _ x => prefixOk 0x66 x
  | .atom32 _ _ _ _ _ x => prefixOk 0x67 x
  | .st8 _ _ _ _ _ x => prefixOk 0x68 x
  | .st16 _ _ _ _ _ x => prefixOk 0x69 x
  | .st32 _ _ _ _ _ x => prefixOk 0x6A x
  | .st64 _ _ _ _ _ x => prefixOk 0x6B x
  | .st128 _ _ _ _ _ x => prefixOk 0x6C x
  | .atom64 _ _ _ _ _ x => prefixOk 0x6D x
  | .atom128 _ _ _ _ _ x => prefixOk 0x6E x
  | .ldc32 _ _ _ _ x => prefixOk 0x70 x
  | .ldc64 _ _ _ _ x => prefixOk 0x71 x
  | .ldc128 _ _ _ _ x => prefixOk 0x72 x
  | .ldcWK32 _ _ _ _ x => prefixOk 0x73 x
  | .ldcWK64 _ _ _ _ x => prefixOk 0x74 x
  | .ldcWK128 _ _ _ _ x => prefixOk 0x75 x
  | .ldcWC32 _ _ _ _ x => prefixOk 0x76 x
  | .ldcWC64 _ _ _ _ x => prefixOk 0x77 x
  | .ldcWC128 _ _ _ _ x => prefixOk 0x78 x
  | .stc32 _ _ _ _ x => prefixOk 0x79 x
  | .stc64 _ _ _ _ x => prefixOk 0x7A x
  | .stc128 _ _ _ _ x => prefixOk 0x7B x
  | .stcF32 _ _ _ _ x => prefixOk 0x7C x
  | .stcF64 _ _ _ _ x => prefixOk 0x7D x
  | .stcF128 _ _ _ _ x => prefixOk 0x7E x
  | .stcT128 _ _ _ x => prefixOk 0x7F x
  | .usel _ _ _ x => prefixOk 0x9F x
  | .uaddi _ _ _ x => prefixOk 0xA0 x
  | .uandi _ _ _ x => prefixOk 0xA1 x
  | .uori _ _ _ x => prefixOk 0xA2 x
  | .li _ _ x => prefixOk 0xA8 x
  | .prep _ _ x => prefixOk 0xB0 x
  | .mmas _ _ _ _ _ x => prefixOk 0xD5 x
  | .mmaqs _ _ _ _ _ x => prefixOk 0xDB x
  | .cpy2d _ _ _ x => prefixOk 0xE1 x
  | .cpyk _ _ _ x => prefixOk 0xE3 x
  | _ => true

end Sys2Proof
end

