-- ==== Sys2Proof/Decode.lean ====
section
/-! DEFINITION. Decoding of instruction words and `ext` pairs (Tables 2-1 to 2-7, R63, R64), total on any bytes, and the
encoder, written from the same tables. A word that no row matches decodes to `wordNotAnInstruction` (R76), and a pair whose
second word does not accept the prefix to `ext` (R64); too few bytes are rejected by name. -/

namespace Sys2Proof

/-- Majors 0x00 to 0x0F, by the low four bits of the major. -/
def decodeMajor0 (low : Nat) (w : BitVec 32) : Instr :=
  match low with
  | 0 => .add (w.extractLsb' 21 3) (w.extractLsb' 14 7) (w.extractLsb' 7 7) (w.extractLsb' 0 7)
  | 1 => .sub (w.extractLsb' 21 3) (w.extractLsb' 14 7) (w.extractLsb' 7 7) (w.extractLsb' 0 7)
  | 2 => .mul (w.extractLsb' 21 3) (w.extractLsb' 14 7) (w.extractLsb' 7 7) (w.extractLsb' 0 7)
  | 3 => .mulh (w.extractLsb' 21 3) (w.extractLsb' 14 7) (w.extractLsb' 7 7) (w.extractLsb' 0 7)
  | 4 => .mad (w.extractLsb' 21 3) (w.extractLsb' 14 7) (w.extractLsb' 7 7) (w.extractLsb' 0 7)
  | 5 => .div (w.extractLsb' 21 3) (w.extractLsb' 14 7) (w.extractLsb' 7 7) (w.extractLsb' 0 7)
  | 6 => .rem (w.extractLsb' 21 3) (w.extractLsb' 14 7) (w.extractLsb' 7 7) (w.extractLsb' 0 7)
  | 7 => .min (w.extractLsb' 21 3) (w.extractLsb' 14 7) (w.extractLsb' 7 7) (w.extractLsb' 0 7)
  | 8 => .max (w.extractLsb' 21 3) (w.extractLsb' 14 7) (w.extractLsb' 7 7) (w.extractLsb' 0 7)
  | 9 => .abs (w.extractLsb' 21 3) (w.extractLsb' 14 7) (w.extractLsb' 7 7)
  | 10 => .neg (w.extractLsb' 21 3) (w.extractLsb' 14 7) (w.extractLsb' 7 7)
  | 11 => .cmp (w.extractLsb' 21 3) (w.extractLsb' 14 7) (w.extractLsb' 7 7) (w.extractLsb' 0 7)
  | 12 => .add64 (w.extractLsb' 21 3) (w.extractLsb' 14 7) (w.extractLsb' 7 7) (w.extractLsb' 0 7)
  | 13 => .sub64 (w.extractLsb' 21 3) (w.extractLsb' 14 7) (w.extractLsb' 7 7) (w.extractLsb' 0 7)
  | 14 => .cmp64 (w.extractLsb' 21 3) (w.extractLsb' 14 7) (w.extractLsb' 7 7) (w.extractLsb' 0 7)
  | 15 => .lea (w.extractLsb' 21 3) (w.extractLsb' 14 7) (w.extractLsb' 7 7) (w.extractLsb' 0 7)
  | _ => .wordNotAnInstruction w

/-- Majors 0x10 to 0x1F, by the low four bits of the major. -/
def decodeMajor1 (low : Nat) (w : BitVec 32) (x : Option (BitVec 24)) : Instr :=
  match low with
  | 0 => .and (w.extractLsb' 14 7) (w.extractLsb' 7 7) (w.extractLsb' 0 7)
  | 1 => .or (w.extractLsb' 14 7) (w.extractLsb' 7 7) (w.extractLsb' 0 7)
  | 2 => .xor (w.extractLsb' 14 7) (w.extractLsb' 7 7) (w.extractLsb' 0 7)
  | 3 => .andn (w.extractLsb' 14 7) (w.extractLsb' 7 7) (w.extractLsb' 0 7)
  | 4 => .shl (w.extractLsb' 14 7) (w.extractLsb' 7 7) (w.extractLsb' 0 7)
  | 5 => .shr (w.extractLsb' 14 7) (w.extractLsb' 7 7) (w.extractLsb' 0 7)
  | 6 => .sar (w.extractLsb' 14 7) (w.extractLsb' 7 7) (w.extractLsb' 0 7)
  | 7 => .rol (w.extractLsb' 14 7) (w.extractLsb' 7 7) (w.extractLsb' 0 7)
  | 8 => .ror (w.extractLsb' 14 7) (w.extractLsb' 7 7) (w.extractLsb' 0 7)
  | 9 => .popc (w.extractLsb' 14 7) (w.extractLsb' 7 7)
  | 10 => .clz (w.extractLsb' 14 7) (w.extractLsb' 7 7)
  | 11 => .ctz (w.extractLsb' 14 7) (w.extractLsb' 7 7)
  | 12 => .brev (w.extractLsb' 14 7) (w.extractLsb' 7 7)
  | 13 => .bfx (w.extractLsb' 21 1) (w.extractLsb' 14 7) (w.extractLsb' 7 7) (w.extractLsb' 0 7)
  | 14 => .bfi (w.extractLsb' 14 7) (w.extractLsb' 7 7) (w.extractLsb' 0 7)
  | 15 => .sel (w.extractLsb' 14 7) (w.extractLsb' 7 7) (w.extractLsb' 0 7) x
  | _ => .wordNotAnInstruction w

/-- Majors 0x20 to 0x2F, by the low four bits of the major. -/
def decodeMajor2 (low : Nat) (w : BitVec 32) (x : Option (BitVec 24)) : Instr :=
  match low with
  | 0 => .addi (w.extractLsb' 17 7) (w.extractLsb' 10 7) (w.extractLsb' 0 10) x
  | 1 => .andi (w.extractLsb' 17 7) (w.extractLsb' 10 7) (w.extractLsb' 0 10) x
  | 2 => .ori (w.extractLsb' 17 7) (w.extractLsb' 10 7) (w.extractLsb' 0 10) x
  | 3 => .xori (w.extractLsb' 17 7) (w.extractLsb' 10 7) (w.extractLsb' 0 10) x
  | 4 => .shli (w.extractLsb' 17 7) (w.extractLsb' 10 7) (w.extractLsb' 0 5)
  | 5 => .shri (w.extractLsb' 17 7) (w.extractLsb' 10 7) (w.extractLsb' 0 5)
  | 6 => .sari (w.extractLsb' 17 7) (w.extractLsb' 10 7) (w.extractLsb' 0 5)
  | 7 => .muli (w.extractLsb' 17 7) (w.extractLsb' 10 7) (w.extractLsb' 0 10) x
  | 8 => .shfl (w.extractLsb' 21 3) (w.extractLsb' 14 7) (w.extractLsb' 7 7) (w.extractLsb' 0 7) x
  | 9 => .vote (w.extractLsb' 21 3) (w.extractLsb' 14 7) (w.extractLsb' 7 7) (w.extractLsb' 0 7)
  | 10 => .red (w.extractLsb' 21 3) (w.extractLsb' 14 7) (w.extractLsb' 7 7) (w.extractLsb' 0 7)
  | 11 => .scan (w.extractLsb' 21 3) (w.extractLsb' 14 7) (w.extractLsb' 7 7) (w.extractLsb' 0 7)
  | 12 => .perm (w.extractLsb' 14 7) (w.extractLsb' 7 7) (w.extractLsb' 0 7) x
  | _ => .wordNotAnInstruction w

/-- Majors 0x30 to 0x3F, by the low four bits of the major. -/
def decodeMajor3 (low : Nat) (w : BitVec 32) : Instr :=
  match low with
  | 0 => .faddF32 (w.extractLsb' 21 3) (w.extractLsb' 14 7) (w.extractLsb' 7 7) (w.extractLsb' 0 7)
  | 1 => .fsubF32 (w.extractLsb' 21 3) (w.extractLsb' 14 7) (w.extractLsb' 7 7) (w.extractLsb' 0 7)
  | 2 => .fmulF32 (w.extractLsb' 21 3) (w.extractLsb' 14 7) (w.extractLsb' 7 7) (w.extractLsb' 0 7)
  | 3 => .fmacF32 (w.extractLsb' 21 3) (w.extractLsb' 14 7) (w.extractLsb' 7 7) (w.extractLsb' 0 7)
  | 4 => .fminF32 (w.extractLsb' 14 7) (w.extractLsb' 7 7) (w.extractLsb' 0 7)
  | 5 => .fmaxF32 (w.extractLsb' 14 7) (w.extractLsb' 7 7) (w.extractLsb' 0 7)
  | 6 => .cmpF32 (w.extractLsb' 21 3) (w.extractLsb' 14 7) (w.extractLsb' 7 7) (w.extractLsb' 0 7)
  | 7 => match (w.extractLsb' 21 3).toNat with
    | 0 => .rcpF32 (w.extractLsb' 14 7) (w.extractLsb' 7 7)
    | 1 => .rsqF32 (w.extractLsb' 14 7) (w.extractLsb' 7 7)
    | 2 => .sqrtF32 (w.extractLsb' 14 7) (w.extractLsb' 7 7)
    | 3 => .exp2F32 (w.extractLsb' 14 7) (w.extractLsb' 7 7)
    | 4 => .log2F32 (w.extractLsb' 14 7) (w.extractLsb' 7 7)
    | _ => .tanhF32 (w.extractLsb' 14 7) (w.extractLsb' 7 7)
  | 8 => .faddF64 (w.extractLsb' 21 3) (w.extractLsb' 14 7) (w.extractLsb' 7 7) (w.extractLsb' 0 7)
  | 9 => .fsubF64 (w.extractLsb' 21 3) (w.extractLsb' 14 7) (w.extractLsb' 7 7) (w.extractLsb' 0 7)
  | 10 => .fmulF64 (w.extractLsb' 21 3) (w.extractLsb' 14 7) (w.extractLsb' 7 7) (w.extractLsb' 0 7)
  | 11 => .fmacF64 (w.extractLsb' 21 3) (w.extractLsb' 14 7) (w.extractLsb' 7 7) (w.extractLsb' 0 7)
  | 12 => .fminF64 (w.extractLsb' 14 7) (w.extractLsb' 7 7) (w.extractLsb' 0 7)
  | 13 => .fmaxF64 (w.extractLsb' 14 7) (w.extractLsb' 7 7) (w.extractLsb' 0 7)
  | 14 => .cmpF64 (w.extractLsb' 21 3) (w.extractLsb' 14 7) (w.extractLsb' 7 7) (w.extractLsb' 0 7)
  | _ => .wordNotAnInstruction w

/-- Majors 0x40 to 0x4F, by the low four bits of the major. -/
def decodeMajor4 (low : Nat) (w : BitVec 32) : Instr :=
  match low with
  | 0 => .faddF16 (w.extractLsb' 21 3) (w.extractLsb' 14 7) (w.extractLsb' 7 7) (w.extractLsb' 0 7)
  | 1 => .fmulF16 (w.extractLsb' 21 3) (w.extractLsb' 14 7) (w.extractLsb' 7 7) (w.extractLsb' 0 7)
  | 2 => .fmacF16 (w.extractLsb' 21 3) (w.extractLsb' 14 7) (w.extractLsb' 7 7) (w.extractLsb' 0 7)
  | 3 => .faddBf16 (w.extractLsb' 21 3) (w.extractLsb' 14 7) (w.extractLsb' 7 7) (w.extractLsb' 0 7)
  | 4 => .fmulBf16 (w.extractLsb' 21 3) (w.extractLsb' 14 7) (w.extractLsb' 7 7) (w.extractLsb' 0 7)
  | 5 => .fmacBf16 (w.extractLsb' 21 3) (w.extractLsb' 14 7) (w.extractLsb' 7 7) (w.extractLsb' 0 7)
  | 6 => .faddF16x2 (w.extractLsb' 21 3) (w.extractLsb' 14 7) (w.extractLsb' 7 7) (w.extractLsb' 0 7)
  | 7 => .fmulF16x2 (w.extractLsb' 21 3) (w.extractLsb' 14 7) (w.extractLsb' 7 7) (w.extractLsb' 0 7)
  | 8 => .fmacF16x2 (w.extractLsb' 21 3) (w.extractLsb' 14 7) (w.extractLsb' 7 7) (w.extractLsb' 0 7)
  | 9 => .faddBf16x2 (w.extractLsb' 21 3) (w.extractLsb' 14 7) (w.extractLsb' 7 7) (w.extractLsb' 0 7)
  | 10 => .fmulBf16x2 (w.extractLsb' 21 3) (w.extractLsb' 14 7) (w.extractLsb' 7 7) (w.extractLsb' 0 7)
  | 11 => .fmacBf16x2 (w.extractLsb' 21 3) (w.extractLsb' 14 7) (w.extractLsb' 7 7) (w.extractLsb' 0 7)
  | 12 => .fminFmaxHalf (w.extractLsb' 22 2) (w.extractLsb' 21 1) (w.extractLsb' 14 7) (w.extractLsb' 7 7) (w.extractLsb' 0 7)
  | 13 => .cmpF16 (w.extractLsb' 21 3) (w.extractLsb' 14 7) (w.extractLsb' 7 7) (w.extractLsb' 0 7)
  | 14 => .cmpBf16 (w.extractLsb' 21 3) (w.extractLsb' 14 7) (w.extractLsb' 7 7) (w.extractLsb' 0 7)
  | _ => .wordNotAnInstruction w

/-- Majors 0x50 to 0x5F, by the low four bits of the major. -/
def decodeMajor5 (low : Nat) (w : BitVec 32) (x : Option (BitVec 24)) : Instr :=
  match low with
  | 0 => .cvtToFloat (w.extractLsb' 21 3) (w.extractLsb' 14 7) (w.extractLsb' 7 7) (w.extractLsb' 3 4) (w.extractLsb' 0 2)
  | 1 => .cvtToInteger (w.extractLsb' 21 3) (w.extractLsb' 14 7) (w.extractLsb' 7 7) (w.extractLsb' 3 4) (w.extractLsb' 0 3)
  | 2 => .cvtToNarrow (w.extractLsb' 21 3) (w.extractLsb' 14 7) (w.extractLsb' 7 7) (w.extractLsb' 3 4) (w.extractLsb' 0 2)
  | 3 => .cvtBf16x2F32 (w.extractLsb' 21 3) (w.extractLsb' 14 7) (w.extractLsb' 7 7) (w.extractLsb' 0 7)
  | 4 => .cvtF16x2F32 (w.extractLsb' 21 3) (w.extractLsb' 14 7) (w.extractLsb' 7 7) (w.extractLsb' 0 7)
  | 5 => .atomc (w.extractLsb' 21 3) (w.extractLsb' 14 7) (w.extractLsb' 7 7) (w.extractLsb' 0 7)
  | 6 => .clre (w.extractLsb' 5 7) (w.extractLsb' 0 5) x
  | 7 => .tagld (w.extractLsb' 12 7) (w.extractLsb' 5 7) (w.extractLsb' 0 5) x
  | 8 => .tagst (w.extractLsb' 12 7) (w.extractLsb' 5 7) (w.extractLsb' 0 5) x
  | 9 => .pclr (w.extractLsb' 5 7) (w.extractLsb' 0 5) x
  | 10 => .cwb (w.extractLsb' 19 3) (w.extractLsb' 5 7) (w.extractLsb' 0 5) x
  | 11 => .cinv (w.extractLsb' 19 3) (w.extractLsb' 5 7) (w.extractLsb' 0 5) x
  | 12 => .cflush (w.extractLsb' 19 3) (w.extractLsb' 5 7) (w.extractLsb' 0 5) x
  | 13 => .pref (w.extractLsb' 19 3) (w.extractLsb' 5 7) (w.extractLsb' 0 5) x
  | 14 => .ldf (w.extractLsb' 22 2) (w.extractLsb' 19 3) (w.extractLsb' 12 7) (w.extractLsb' 5 7) (w.extractLsb' 0 5) x
  | 15 => .stf (w.extractLsb' 22 2) (w.extractLsb' 19 3) (w.extractLsb' 12 7) (w.extractLsb' 5 7) (w.extractLsb' 0 5) x
  | _ => .wordNotAnInstruction w

/-- Majors 0x60 to 0x6F, by the low four bits of the major. -/
def decodeMajor6 (low : Nat) (w : BitVec 32) (x : Option (BitVec 24)) : Instr :=
  match low with
  | 0 => .ldS8 (w.extractLsb' 22 2) (w.extractLsb' 19 3) (w.extractLsb' 12 7) (w.extractLsb' 5 7) (w.extractLsb' 0 5) x
  | 1 => .ldN8 (w.extractLsb' 22 2) (w.extractLsb' 19 3) (w.extractLsb' 12 7) (w.extractLsb' 5 7) (w.extractLsb' 0 5) x
  | 2 => .ldS16 (w.extractLsb' 22 2) (w.extractLsb' 19 3) (w.extractLsb' 12 7) (w.extractLsb' 5 7) (w.extractLsb' 0 5) x
  | 3 => .ldN16 (w.extractLsb' 22 2) (w.extractLsb' 19 3) (w.extractLsb' 12 7) (w.extractLsb' 5 7) (w.extractLsb' 0 5) x
  | 4 => .ld32 (w.extractLsb' 22 2) (w.extractLsb' 19 3) (w.extractLsb' 12 7) (w.extractLsb' 5 7) (w.extractLsb' 0 5) x
  | 5 => .ld64 (w.extractLsb' 22 2) (w.extractLsb' 19 3) (w.extractLsb' 12 7) (w.extractLsb' 5 7) (w.extractLsb' 0 5) x
  | 6 => .ld128 (w.extractLsb' 22 2) (w.extractLsb' 19 3) (w.extractLsb' 12 7) (w.extractLsb' 5 7) (w.extractLsb' 0 5) x
  | 7 => .atom32 (w.extractLsb' 22 2) (w.extractLsb' 19 3) (w.extractLsb' 12 7) (w.extractLsb' 5 7) (w.extractLsb' 0 5) x
  | 8 => .st8 (w.extractLsb' 22 2) (w.extractLsb' 19 3) (w.extractLsb' 12 7) (w.extractLsb' 5 7) (w.extractLsb' 0 5) x
  | 9 => .st16 (w.extractLsb' 22 2) (w.extractLsb' 19 3) (w.extractLsb' 12 7) (w.extractLsb' 5 7) (w.extractLsb' 0 5) x
  | 10 => .st32 (w.extractLsb' 22 2) (w.extractLsb' 19 3) (w.extractLsb' 12 7) (w.extractLsb' 5 7) (w.extractLsb' 0 5) x
  | 11 => .st64 (w.extractLsb' 22 2) (w.extractLsb' 19 3) (w.extractLsb' 12 7) (w.extractLsb' 5 7) (w.extractLsb' 0 5) x
  | 12 => .st128 (w.extractLsb' 22 2) (w.extractLsb' 19 3) (w.extractLsb' 12 7) (w.extractLsb' 5 7) (w.extractLsb' 0 5) x
  | 13 => .atom64 (w.extractLsb' 22 2) (w.extractLsb' 19 3) (w.extractLsb' 12 7) (w.extractLsb' 5 7) (w.extractLsb' 0 5) x
  | 14 => .atom128 (w.extractLsb' 22 2) (w.extractLsb' 19 3) (w.extractLsb' 12 7) (w.extractLsb' 5 7) (w.extractLsb' 0 5) x
  | _ => .wordNotAnInstruction w

/-- Majors 0x70 to 0x7F, by the low four bits of the major. -/
def decodeMajor7 (low : Nat) (w : BitVec 32) (x : Option (BitVec 24)) : Instr :=
  match low with
  | 0 => .ldc32 (w.extractLsb' 22 2) (w.extractLsb' 12 7) (w.extractLsb' 5 7) (w.extractLsb' 0 5) x
  | 1 => .ldc64 (w.extractLsb' 22 2) (w.extractLsb' 12 7) (w.extractLsb' 5 7) (w.extractLsb' 0 5) x
  | 2 => .ldc128 (w.extractLsb' 22 2) (w.extractLsb' 12 7) (w.extractLsb' 5 7) (w.extractLsb' 0 5) x
  | 3 => .ldcWK32 (w.extractLsb' 22 2) (w.extractLsb' 12 7) (w.extractLsb' 5 7) (w.extractLsb' 0 5) x
  | 4 => .ldcWK64 (w.extractLsb' 22 2) (w.extractLsb' 12 7) (w.extractLsb' 5 7) (w.extractLsb' 0 5) x
  | 5 => .ldcWK128 (w.extractLsb' 22 2) (w.extractLsb' 12 7) (w.extractLsb' 5 7) (w.extractLsb' 0 5) x
  | 6 => .ldcWC32 (w.extractLsb' 22 2) (w.extractLsb' 12 7) (w.extractLsb' 5 7) (w.extractLsb' 0 5) x
  | 7 => .ldcWC64 (w.extractLsb' 22 2) (w.extractLsb' 12 7) (w.extractLsb' 5 7) (w.extractLsb' 0 5) x
  | 8 => .ldcWC128 (w.extractLsb' 22 2) (w.extractLsb' 12 7) (w.extractLsb' 5 7) (w.extractLsb' 0 5) x
  | 9 => .stc32 (w.extractLsb' 22 2) (w.extractLsb' 12 7) (w.extractLsb' 5 7) (w.extractLsb' 0 5) x
  | 10 => .stc64 (w.extractLsb' 22 2) (w.extractLsb' 12 7) (w.extractLsb' 5 7) (w.extractLsb' 0 5) x
  | 11 => .stc128 (w.extractLsb' 22 2) (w.extractLsb' 12 7) (w.extractLsb' 5 7) (w.extractLsb' 0 5) x
  | 12 => .stcF32 (w.extractLsb' 22 2) (w.extractLsb' 12 7) (w.extractLsb' 5 7) (w.extractLsb' 0 5) x
  | 13 => .stcF64 (w.extractLsb' 22 2) (w.extractLsb' 12 7) (w.extractLsb' 5 7) (w.extractLsb' 0 5) x
  | 14 => .stcF128 (w.extractLsb' 22 2) (w.extractLsb' 12 7) (w.extractLsb' 5 7) (w.extractLsb' 0 5) x
  | 15 => .stcT128 (w.extractLsb' 12 7) (w.extractLsb' 5 7) (w.extractLsb' 0 5) x
  | _ => .wordNotAnInstruction w

/-- Majors 0x80 to 0x8F, by the low four bits of the major. -/
def decodeMajor8 (low : Nat) (w : BitVec 32) : Instr :=
  match low with
  | 0 => .uadd (w.extractLsb' 21 3) (w.extractLsb' 14 7) (w.extractLsb' 7 7) (w.extractLsb' 0 7)
  | 1 => .usub (w.extractLsb' 21 3) (w.extractLsb' 14 7) (w.extractLsb' 7 7) (w.extractLsb' 0 7)
  | 2 => .umul (w.extractLsb' 21 3) (w.extractLsb' 14 7) (w.extractLsb' 7 7) (w.extractLsb' 0 7)
  | 4 => .umad (w.extractLsb' 21 3) (w.extractLsb' 14 7) (w.extractLsb' 7 7) (w.extractLsb' 0 7)
  | 5 => .udiv (w.extractLsb' 21 3) (w.extractLsb' 14 7) (w.extractLsb' 7 7) (w.extractLsb' 0 7)
  | 6 => .urem (w.extractLsb' 21 3) (w.extractLsb' 14 7) (w.extractLsb' 7 7) (w.extractLsb' 0 7)
  | 7 => .umin (w.extractLsb' 21 3) (w.extractLsb' 14 7) (w.extractLsb' 7 7) (w.extractLsb' 0 7)
  | 8 => .umax (w.extractLsb' 21 3) (w.extractLsb' 14 7) (w.extractLsb' 7 7) (w.extractLsb' 0 7)
  | 11 => .ucmp (w.extractLsb' 21 3) (w.extractLsb' 14 7) (w.extractLsb' 7 7) (w.extractLsb' 0 7)
  | 12 => .uadd64 (w.extractLsb' 21 3) (w.extractLsb' 14 7) (w.extractLsb' 7 7) (w.extractLsb' 0 7)
  | 13 => .usub64 (w.extractLsb' 21 3) (w.extractLsb' 14 7) (w.extractLsb' 7 7) (w.extractLsb' 0 7)
  | 14 => .ucmp64 (w.extractLsb' 21 3) (w.extractLsb' 14 7) (w.extractLsb' 7 7) (w.extractLsb' 0 7)
  | 15 => .ulea (w.extractLsb' 21 3) (w.extractLsb' 14 7) (w.extractLsb' 7 7) (w.extractLsb' 0 7)
  | _ => .wordNotAnInstruction w

/-- Majors 0x90 to 0x9F, by the low four bits of the major. -/
def decodeMajor9 (low : Nat) (w : BitVec 32) (x : Option (BitVec 24)) : Instr :=
  match low with
  | 0 => .uand (w.extractLsb' 14 7) (w.extractLsb' 7 7) (w.extractLsb' 0 7)
  | 1 => .uor (w.extractLsb' 14 7) (w.extractLsb' 7 7) (w.extractLsb' 0 7)
  | 2 => .uxor (w.extractLsb' 14 7) (w.extractLsb' 7 7) (w.extractLsb' 0 7)
  | 3 => .uandn (w.extractLsb' 14 7) (w.extractLsb' 7 7) (w.extractLsb' 0 7)
  | 4 => .ushl (w.extractLsb' 14 7) (w.extractLsb' 7 7) (w.extractLsb' 0 7)
  | 5 => .ushr (w.extractLsb' 14 7) (w.extractLsb' 7 7) (w.extractLsb' 0 7)
  | 6 => .usar (w.extractLsb' 14 7) (w.extractLsb' 7 7) (w.extractLsb' 0 7)
  | 9 => .upopc (w.extractLsb' 14 7) (w.extractLsb' 7 7)
  | 10 => .uclz (w.extractLsb' 14 7) (w.extractLsb' 7 7)
  | 11 => .uctz (w.extractLsb' 14 7) (w.extractLsb' 7 7)
  | 13 => .ubfx (w.extractLsb' 21 1) (w.extractLsb' 14 7) (w.extractLsb' 7 7) (w.extractLsb' 0 7)
  | 15 => .usel (w.extractLsb' 14 7) (w.extractLsb' 7 7) (w.extractLsb' 0 7) x
  | _ => .wordNotAnInstruction w

/-- Majors 0xA0 to 0xAF, by the low four bits of the major. -/
def decodeMajorA (low : Nat) (w : BitVec 32) (x : Option (BitVec 24)) : Instr :=
  match low with
  | 0 => .uaddi (w.extractLsb' 17 7) (w.extractLsb' 10 7) (w.extractLsb' 0 10) x
  | 1 => .uandi (w.extractLsb' 17 7) (w.extractLsb' 10 7) (w.extractLsb' 0 10) x
  | 2 => .uori (w.extractLsb' 17 7) (w.extractLsb' 10 7) (w.extractLsb' 0 10) x
  | 4 => .ushli (w.extractLsb' 17 7) (w.extractLsb' 10 7) (w.extractLsb' 0 5)
  | 5 => .ushri (w.extractLsb' 17 7) (w.extractLsb' 10 7) (w.extractLsb' 0 5)
  | 6 => .usari (w.extractLsb' 17 7) (w.extractLsb' 10 7) (w.extractLsb' 0 5)
  | 8 => .li (w.extractLsb' 17 7) (w.extractLsb' 0 17) x
  | 9 => .ufaddF32 (w.extractLsb' 21 3) (w.extractLsb' 14 7) (w.extractLsb' 7 7) (w.extractLsb' 0 7)
  | 10 => .ufmulF32 (w.extractLsb' 21 3) (w.extractLsb' 14 7) (w.extractLsb' 7 7) (w.extractLsb' 0 7)
  | 11 => .ufmacF32 (w.extractLsb' 21 3) (w.extractLsb' 14 7) (w.extractLsb' 7 7) (w.extractLsb' 0 7)
  | 12 => .ucmpF32 (w.extractLsb' 21 3) (w.extractLsb' 14 7) (w.extractLsb' 7 7) (w.extractLsb' 0 7)
  | 13 => .ucvtToFloat (w.extractLsb' 21 3) (w.extractLsb' 14 7) (w.extractLsb' 7 7) (w.extractLsb' 3 4) (w.extractLsb' 0 2)
  | 14 => .ucvtToInteger (w.extractLsb' 21 3) (w.extractLsb' 14 7) (w.extractLsb' 7 7) (w.extractLsb' 3 4) (w.extractLsb' 0 3)
  | _ => .wordNotAnInstruction w

/-- Majors 0xB0 to 0xBF, by the low four bits of the major. -/
def decodeMajorB (low : Nat) (w : BitVec 32) (x : Option (BitVec 24)) : Instr :=
  match low with
  | 0 => .prep (w.extractLsb' 21 3) (w.extractLsb' 0 21) x
  | 1 => .prepv (w.extractLsb' 21 3) (w.extractLsb' 11 7)
  | 2 => .br (w.extractLsb' 21 3)
  | 3 => .brt (w.extractLsb' 21 3) (w.extractLsb' 11 7)
  | 4 => .brf (w.extractLsb' 21 3) (w.extractLsb' 11 7)
  | 5 => .brnone (w.extractLsb' 21 3)
  | 6 => .brany (w.extractLsb' 21 3)
  | 7 => .call (w.extractLsb' 21 3) (w.extractLsb' 18 3)
  | 8 => .bloop (w.extractLsb' 21 3) (w.extractLsb' 11 7)
  | 9 => .binv (w.extractLsb' 21 3)
  | 10 => .bmov (w.extractLsb' 21 3) (w.extractLsb' 18 3)
  | 11 => .brd (w.extractLsb' 21 3) (w.extractLsb' 11 7)
  | 12 => .isync
  | 13 => .lexit
  | 14 => .exit
  | 15 => .nop
  | _ => .wordNotAnInstruction w

/-- Majors 0xC0 to 0xCF, by the low four bits of the major. -/
def decodeMajorC (low : Nat) (w : BitVec 32) : Instr :=
  match low with
  | 0 => .msave (w.extractLsb' 14 7)
  | 1 => .mload (w.extractLsb' 7 7)
  | 2 => .mand (w.extractLsb' 14 7) (w.extractLsb' 7 7) (w.extractLsb' 0 7)
  | 3 => .mandn (w.extractLsb' 14 7) (w.extractLsb' 7 7) (w.extractLsb' 0 7)
  | 4 => .mor (w.extractLsb' 14 7) (w.extractLsb' 7 7) (w.extractLsb' 0 7)
  | 5 => .mrestore (w.extractLsb' 7 7)
  | 6 => .mall (w.extractLsb' 14 7)
  | 7 => .mcount (w.extractLsb' 14 7) (w.extractLsb' 7 7)
  | 8 => .mfirst (w.extractLsb' 14 7) (w.extractLsb' 7 7)
  | 9 => .yield
  | 10 => .brk (w.extractLsb' 0 10)
  | 11 => .svc (w.extractLsb' 0 10)
  | 12 => .rett (w.extractLsb' 7 7)
  | 13 => .sysr (w.extractLsb' 17 7) (w.extractLsb' 0 12)
  | 14 => .sysw (w.extractLsb' 17 7) (w.extractLsb' 0 12)
  | 15 => .wline (w.extractLsb' 14 7) (w.extractLsb' 7 7) (w.extractLsb' 0 7)
  | _ => .wordNotAnInstruction w

/-- Majors 0xD0 to 0xDF, by the low four bits of the major. -/
def decodeMajorD (low : Nat) (w : BitVec 32) (x : Option (BitVec 24)) : Instr :=
  match low with
  | 0 => .mmaBf16 (w.extractLsb' 21 1) (w.extractLsb' 14 7) (w.extractLsb' 7 7) (w.extractLsb' 0 7)
  | 1 => .mmaF16 (w.extractLsb' 21 1) (w.extractLsb' 14 7) (w.extractLsb' 7 7) (w.extractLsb' 0 7)
  | 2 => .mmaT8 (w.extractLsb' 21 1) (w.extractLsb' 14 7) (w.extractLsb' 7 7) (w.extractLsb' 0 7)
  | 3 => .mmaT6 (w.extractLsb' 21 1) (w.extractLsb' 14 7) (w.extractLsb' 7 7) (w.extractLsb' 0 7)
  | 4 => .mmaI4 (w.extractLsb' 21 1) (w.extractLsb' 14 7) (w.extractLsb' 7 7) (w.extractLsb' 0 7)
  | 5 => .mmas (w.extractLsb' 22 2) (w.extractLsb' 21 1) (w.extractLsb' 14 7) (w.extractLsb' 7 7) (w.extractLsb' 0 7) x
  | 6 => .mmaqBf16 (w.extractLsb' 21 1) (w.extractLsb' 14 7) (w.extractLsb' 7 7) (w.extractLsb' 0 7)
  | 7 => .mmaqF16 (w.extractLsb' 21 1) (w.extractLsb' 14 7) (w.extractLsb' 7 7) (w.extractLsb' 0 7)
  | 8 => .mmaqT8 (w.extractLsb' 21 1) (w.extractLsb' 14 7) (w.extractLsb' 7 7) (w.extractLsb' 0 7)
  | 9 => .mmaqT6 (w.extractLsb' 21 1) (w.extractLsb' 14 7) (w.extractLsb' 7 7) (w.extractLsb' 0 7)
  | 10 => .mmaqI4 (w.extractLsb' 21 1) (w.extractLsb' 14 7) (w.extractLsb' 7 7) (w.extractLsb' 0 7)
  | 11 => .mmaqs (w.extractLsb' 22 2) (w.extractLsb' 21 1) (w.extractLsb' 14 7) (w.extractLsb' 7 7) (w.extractLsb' 0 7) x
  | 12 => .mscl (w.extractLsb' 7 7)
  | 13 => .mfence (w.extractLsb' 14 7)
  | 14 => .mwait (w.extractLsb' 7 7)
  | 15 => .mstat (w.extractLsb' 14 7) (w.extractLsb' 0 7)
  | _ => .wordNotAnInstruction w

/-- Majors 0xE0 to 0xEF, by the low four bits of the major. -/
def decodeMajorE (low : Nat) (w : BitVec 32) (x : Option (BitVec 24)) : Instr :=
  match low with
  | 0 => .cpy (w.extractLsb' 14 7) (w.extractLsb' 7 7) (w.extractLsb' 0 7)
  | 1 => .cpy2d (w.extractLsb' 14 7) (w.extractLsb' 7 7) (w.extractLsb' 0 7) x
  | 2 => .cpyx (w.extractLsb' 14 7) (w.extractLsb' 7 7) (w.extractLsb' 0 7)
  | 3 => .cpyk (w.extractLsb' 14 7) (w.extractLsb' 7 7) (w.extractLsb' 0 7) x
  | 4 => if w.extractLsb' 0 7 == 0#7 then .freeze else .freezeKeep (w.extractLsb' 14 7)
  | 5 => .stemend (w.extractLsb' 7 7)
  | 6 => .spawn (w.extractLsb' 21 3) (w.extractLsb' 11 7)
  | 7 => .spawnf (w.extractLsb' 21 3) (w.extractLsb' 11 7)
  | 8 => .launch (w.extractLsb' 7 7)
  | 9 => .bar (w.extractLsb' 7 7) (w.extractLsb' 0 7)
  | 10 => .arrive (w.extractLsb' 14 7) (w.extractLsb' 7 7) (w.extractLsb' 0 7)
  | 11 => .waitb (w.extractLsb' 7 7) (w.extractLsb' 0 7)
  | 12 => .quota (w.extractLsb' 7 7)
  | 13 => .energy (w.extractLsb' 14 7) (w.extractLsb' 7 7)
  | 14 => .bist (w.extractLsb' 14 7) (w.extractLsb' 7 7)
  | 15 => .trc (w.extractLsb' 7 7)
  | _ => .wordNotAnInstruction w

/-- Majors 0xF0 to 0xFF, by the low four bits of the major. -/
def decodeMajorF (low : Nat) (w : BitVec 32) : Instr :=
  match low with
  | 0 => .send (w.extractLsb' 14 7) (w.extractLsb' 7 7) (w.extractLsb' 0 7)
  | 1 => .recv (w.extractLsb' 14 7) (w.extractLsb' 7 7) (w.extractLsb' 0 7)
  | 2 => .probe (w.extractLsb' 14 7) (w.extractLsb' 7 7) (w.extractLsb' 0 7)
  | 3 => .rwait (w.extractLsb' 14 7) (w.extractLsb' 7 7)
  | 4 => .collRed (w.extractLsb' 14 7) (w.extractLsb' 7 7) (w.extractLsb' 0 7)
  | 5 => .collBcast (w.extractLsb' 14 7) (w.extractLsb' 7 7) (w.extractLsb' 0 7)
  | 6 => .collGath (w.extractLsb' 14 7) (w.extractLsb' 7 7) (w.extractLsb' 0 7)
  | 7 => .cwait (w.extractLsb' 7 7)
  | 8 => .grun (w.extractLsb' 14 7) (w.extractLsb' 7 7)
  | 9 => .gset (w.extractLsb' 7 7) (w.extractLsb' 0 7)
  | 10 => .gwait (w.extractLsb' 14 7) (w.extractLsb' 7 7)
  | 11 => .tlbinv (w.extractLsb' 7 7) (w.extractLsb' 0 7)
  | 12 => .fence (w.extractLsb' 3 2) (w.extractLsb' 0 3)
  | _ => .wordNotAnInstruction w

/-- The instruction of an accepted word: its fields taken from the places of Table 2-1. -/
def decodeFields (w : BitVec 32) (x : Option (BitVec 24)) : Instr :=
  match major w / 16 with
  | 0 => decodeMajor0 (major w % 16) w
  | 1 => decodeMajor1 (major w % 16) w x
  | 2 => decodeMajor2 (major w % 16) w x
  | 3 => decodeMajor3 (major w % 16) w
  | 4 => decodeMajor4 (major w % 16) w
  | 5 => decodeMajor5 (major w % 16) w x
  | 6 => decodeMajor6 (major w % 16) w x
  | 7 => decodeMajor7 (major w % 16) w x
  | 8 => decodeMajor8 (major w % 16) w
  | 9 => decodeMajor9 (major w % 16) w x
  | 10 => decodeMajorA (major w % 16) w x
  | 11 => decodeMajorB (major w % 16) w x
  | 12 => decodeMajorC (major w % 16) w
  | 13 => decodeMajorD (major w % 16) w x
  | 14 => decodeMajorE (major w % 16) w x
  | 15 => decodeMajorF (major w % 16) w
  | _ => .wordNotAnInstruction w

/-- The instruction that one word stands for, after the prefix `x`. -/
def decodeOne (w : BitVec 32) (x : Option (BitVec 24)) : Instr :=
  if accepted w x then decodeFields w x
  else match x with
    | none => .wordNotAnInstruction w
    | some p => .ext p w

/-- Why bytes are not an instruction. -/
inductive DecodeError where
  /-- Fewer than the four bytes of a word (R55). -/
  | truncatedWord
  /-- An `ext` word with fewer than four bytes after it (R63). -/
  | truncatedPair
deriving DecidableEq, Repr

/-- A word is stored little-endian (R55). -/
def wordOfBytes (b0 b1 b2 b3 : Byte) : BitVec 32 := b3 ++ b2 ++ b1 ++ b0

/-- The instruction at the front of the bytes, and the bytes after it. -/
def decode (bs : List Byte) : Except DecodeError (Instr × List Byte) :=
  match bs with
  | b0 :: b1 :: b2 :: b3 :: r =>
    let w := wordOfBytes b0 b1 b2 b3
    if major w = 0xFF then
      match r with
      | c0 :: c1 :: c2 :: c3 :: r' => .ok (decodeOne (wordOfBytes c0 c1 c2 c3) (some (w.extractLsb' 0 24)), r')
      | _ => .error .truncatedPair
    else .ok (decodeOne w none, r)
  | _ => .error .truncatedWord

/-- The instruction word of a step that has one; zero for a step without an encoding. -/
def Instr.word (i : Instr) : BitVec 32 :=
  match i with
  | .add m d a b => 0#8 ++ m ++ d ++ a ++ b
  | .sub m d a b => 1#8 ++ m ++ d ++ a ++ b
  | .mul m d a b => 2#8 ++ m ++ d ++ a ++ b
  | .mulh m d a b => 3#8 ++ m ++ d ++ a ++ b
  | .mad m d a b => 4#8 ++ m ++ d ++ a ++ b
  | .div m d a b => 5#8 ++ m ++ d ++ a ++ b
  | .rem m d a b => 6#8 ++ m ++ d ++ a ++ b
  | .min m d a b => 7#8 ++ m ++ d ++ a ++ b
  | .max m d a b => 8#8 ++ m ++ d ++ a ++ b
  | .abs m d a => 9#8 ++ m ++ d ++ a ++ 0#7
  | .neg m d a => 10#8 ++ m ++ d ++ a ++ 0#7
  | .cmp m d a b => 11#8 ++ m ++ d ++ a ++ b
  | .add64 m d a b => 12#8 ++ m ++ d ++ a ++ b
  | .sub64 m d a b => 13#8 ++ m ++ d ++ a ++ b
  | .cmp64 m d a b => 14#8 ++ m ++ d ++ a ++ b
  | .lea h d a b => 15#8 ++ h ++ d ++ a ++ b
  | .and d a b => 128#11 ++ d ++ a ++ b
  | .or d a b => 136#11 ++ d ++ a ++ b
  | .xor d a b => 144#11 ++ d ++ a ++ b
  | .andn d a b => 152#11 ++ d ++ a ++ b
  | .shl d a b => 160#11 ++ d ++ a ++ b
  | .shr d a b => 168#11 ++ d ++ a ++ b
  | .sar d a b => 176#11 ++ d ++ a ++ b
  | .rol d a b => 184#11 ++ d ++ a ++ b
  | .ror d a b => 192#11 ++ d ++ a ++ b
  | .popc d a => 200#11 ++ d ++ a ++ 0#7
  | .clz d a => 208#11 ++ d ++ a ++ 0#7
  | .ctz d a => 216#11 ++ d ++ a ++ 0#7
  | .brev d a => 224#11 ++ d ++ a ++ 0#7
  | .bfx s d a b => 116#10 ++ s ++ d ++ a ++ b
  | .bfi d a b => 240#11 ++ d ++ a ++ b
  | .sel d a b _ => 248#11 ++ d ++ a ++ b
  | .addi d a i _ => 32#8 ++ d ++ a ++ i
  | .andi d a i _ => 33#8 ++ d ++ a ++ i
  | .ori d a i _ => 34#8 ++ d ++ a ++ i
  | .xori d a i _ => 35#8 ++ d ++ a ++ i
  | .shli d a i => 36#8 ++ d ++ a ++ 0#5 ++ i
  | .shri d a i => 37#8 ++ d ++ a ++ 0#5 ++ i
  | .sari d a i => 38#8 ++ d ++ a ++ 0#5 ++ i
  | .muli d a i _ => 39#8 ++ d ++ a ++ i
  | .shfl m d a b _ => 40#8 ++ m ++ d ++ a ++ b
  | .vote m d a b => 41#8 ++ m ++ d ++ a ++ b
  | .red m d a b => 42#8 ++ m ++ d ++ a ++ b
  | .scan m d a b => 43#8 ++ m ++ d ++ a ++ b
  | .perm d a b _ => 352#11 ++ d ++ a ++ b
  | .faddF32 m d a b => 48#8 ++ m ++ d ++ a ++ b
  | .fsubF32 m d a b => 49#8 ++ m ++ d ++ a ++ b
  | .fmulF32 m d a b => 50#8 ++ m ++ d ++ a ++ b
  | .fmacF32 m d a b => 51#8 ++ m ++ d ++ a ++ b
  | .fminF32 d a b => 416#11 ++ d ++ a ++ b
  | .fmaxF32 d a b => 424#11 ++ d ++ a ++ b
  | .cmpF32 m d a b => 54#8 ++ m ++ d ++ a ++ b
  | .rcpF32 d a => 440#11 ++ d ++ a ++ 0#7
  | .rsqF32 d a => 441#11 ++ d ++ a ++ 0#7
  | .sqrtF32 d a => 442#11 ++ d ++ a ++ 0#7
  | .exp2F32 d a => 443#11 ++ d ++ a ++ 0#7
  | .log2F32 d a => 444#11 ++ d ++ a ++ 0#7
  | .tanhF32 d a => 445#11 ++ d ++ a ++ 0#7
  | .faddF64 m d a b => 56#8 ++ m ++ d ++ a ++ b
  | .fsubF64 m d a b => 57#8 ++ m ++ d ++ a ++ b
  | .fmulF64 m d a b => 58#8 ++ m ++ d ++ a ++ b
  | .fmacF64 m d a b => 59#8 ++ m ++ d ++ a ++ b
  | .fminF64 d a b => 480#11 ++ d ++ a ++ b
  | .fmaxF64 d a b => 488#11 ++ d ++ a ++ b
  | .cmpF64 m d a b => 62#8 ++ m ++ d ++ a ++ b
  | .faddF16 m d a b => 64#8 ++ m ++ d ++ a ++ b
  | .fmulF16 m d a b => 65#8 ++ m ++ d ++ a ++ b
  | .fmacF16 m d a b => 66#8 ++ m ++ d ++ a ++ b
  | .faddBf16 m d a b => 67#8 ++ m ++ d ++ a ++ b
  | .fmulBf16 m d a b => 68#8 ++ m ++ d ++ a ++ b
  | .fmacBf16 m d a b => 69#8 ++ m ++ d ++ a ++ b
  | .faddF16x2 m d a b => 70#8 ++ m ++ d ++ a ++ b
  | .fmulF16x2 m d a b => 71#8 ++ m ++ d ++ a ++ b
  | .fmacF16x2 m d a b => 72#8 ++ m ++ d ++ a ++ b
  | .faddBf16x2 m d a b => 73#8 ++ m ++ d ++ a ++ b
  | .fmulBf16x2 m d a b => 74#8 ++ m ++ d ++ a ++ b
  | .fmacBf16x2 m d a b => 75#8 ++ m ++ d ++ a ++ b
  | .fminFmaxHalf t x d a b => 76#8 ++ t ++ x ++ d ++ a ++ b
  | .cmpF16 m d a b => 77#8 ++ m ++ d ++ a ++ b
  | .cmpBf16 m d a b => 78#8 ++ m ++ d ++ a ++ b
  | .cvtToFloat m d a s t => 80#8 ++ m ++ d ++ a ++ s ++ 0#1 ++ t
  | .cvtToInteger m d a s t => 81#8 ++ m ++ d ++ a ++ s ++ t
  | .cvtToNarrow m d a s t => 82#8 ++ m ++ d ++ a ++ s ++ 0#1 ++ t
  | .cvtBf16x2F32 m d a b => 83#8 ++ m ++ d ++ a ++ b
  | .cvtF16x2F32 m d a b => 84#8 ++ m ++ d ++ a ++ b
  | .atomc m d a b => 85#8 ++ m ++ d ++ a ++ b
  | .clre a k _ => 352256#20 ++ a ++ k
  | .tagld d a k _ => 2784#13 ++ d ++ a ++ k
  | .tagst d a k _ => 2816#13 ++ d ++ a ++ k
  | .pclr a k _ => 364544#20 ++ a ++ k
  | .cwb s a k _ => 360#10 ++ s ++ 0#7 ++ a ++ k
  | .cinv s a k _ => 364#10 ++ s ++ 0#7 ++ a ++ k
  | .cflush s a k _ => 368#10 ++ s ++ 0#7 ++ a ++ k
  | .pref s a k _ => 372#10 ++ s ++ 0#7 ++ a ++ k
  | .ldf o s d a k _ => 94#8 ++ o ++ s ++ d ++ a ++ k
  | .stf o s d a k _ => 95#8 ++ o ++ s ++ d ++ a ++ k
  | .ldS8 o s d a k _ => 96#8 ++ o ++ s ++ d ++ a ++ k
  | .ldN8 o s d a k _ => 97#8 ++ o ++ s ++ d ++ a ++ k
  | .ldS16 o s d a k _ => 98#8 ++ o ++ s ++ d ++ a ++ k
  | .ldN16 o s d a k _ => 99#8 ++ o ++ s ++ d ++ a ++ k
  | .ld32 o s d a k _ => 100#8 ++ o ++ s ++ d ++ a ++ k
  | .ld64 o s d a k _ => 101#8 ++ o ++ s ++ d ++ a ++ k
  | .ld128 o s d a k _ => 102#8 ++ o ++ s ++ d ++ a ++ k
  | .atom32 o s d a k _ => 103#8 ++ o ++ s ++ d ++ a ++ k
  | .st8 o s d a k _ => 104#8 ++ o ++ s ++ d ++ a ++ k
  | .st16 o s d a k _ => 105#8 ++ o ++ s ++ d ++ a ++ k
  | .st32 o s d a k _ => 106#8 ++ o ++ s ++ d ++ a ++ k
  | .st64 o s d a k _ => 107#8 ++ o ++ s ++ d ++ a ++ k
  | .st128 o s d a k _ => 108#8 ++ o ++ s ++ d ++ a ++ k
  | .atom64 o s d a k _ => 109#8 ++ o ++ s ++ d ++ a ++ k
  | .atom128 o s d a k _ => 110#8 ++ o ++ s ++ d ++ a ++ k
  | .ldc32 o d a k _ => 112#8 ++ o ++ 0#3 ++ d ++ a ++ k
  | .ldc64 o d a k _ => 113#8 ++ o ++ 0#3 ++ d ++ a ++ k
  | .ldc128 o d a k _ => 114#8 ++ o ++ 0#3 ++ d ++ a ++ k
  | .ldcWK32 o d a k _ => 115#8 ++ o ++ 0#3 ++ d ++ a ++ k
  | .ldcWK64 o d a k _ => 116#8 ++ o ++ 0#3 ++ d ++ a ++ k
  | .ldcWK128 o d a k _ => 117#8 ++ o ++ 0#3 ++ d ++ a ++ k
  | .ldcWC32 o d a k _ => 118#8 ++ o ++ 0#3 ++ d ++ a ++ k
  | .ldcWC64 o d a k _ => 119#8 ++ o ++ 0#3 ++ d ++ a ++ k
  | .ldcWC128 o d a k _ => 120#8 ++ o ++ 0#3 ++ d ++ a ++ k
  | .stc32 o d a k _ => 121#8 ++ o ++ 0#3 ++ d ++ a ++ k
  | .stc64 o d a k _ => 122#8 ++ o ++ 0#3 ++ d ++ a ++ k
  | .stc128 o d a k _ => 123#8 ++ o ++ 0#3 ++ d ++ a ++ k
  | .stcF32 o d a k _ => 124#8 ++ o ++ 0#3 ++ d ++ a ++ k
  | .stcF64 o d a k _ => 125#8 ++ o ++ 0#3 ++ d ++ a ++ k
  | .stcF128 o d a k _ => 126#8 ++ o ++ 0#3 ++ d ++ a ++ k
  | .stcT128 d a k _ => 4064#13 ++ d ++ a ++ k
  | .uadd m d a b => 128#8 ++ m ++ d ++ a ++ b
  | .usub m d a b => 129#8 ++ m ++ d ++ a ++ b
  | .umul m d a b => 130#8 ++ m ++ d ++ a ++ b
  | .umad m d a b => 132#8 ++ m ++ d ++ a ++ b
  | .udiv m d a b => 133#8 ++ m ++ d ++ a ++ b
  | .urem m d a b => 134#8 ++ m ++ d ++ a ++ b
  | .umin m d a b => 135#8 ++ m ++ d ++ a ++ b
  | .umax m d a b => 136#8 ++ m ++ d ++ a ++ b
  | .ucmp m d a b => 139#8 ++ m ++ d ++ a ++ b
  | .uadd64 m d a b => 140#8 ++ m ++ d ++ a ++ b
  | .usub64 m d a b => 141#8 ++ m ++ d ++ a ++ b
  | .ucmp64 m d a b => 142#8 ++ m ++ d ++ a ++ b
  | .ulea h d a b => 143#8 ++ h ++ d ++ a ++ b
  | .uand d a b => 1152#11 ++ d ++ a ++ b
  | .uor d a b => 1160#11 ++ d ++ a ++ b
  | .uxor d a b => 1168#11 ++ d ++ a ++ b
  | .uandn d a b => 1176#11 ++ d ++ a ++ b
  | .ushl d a b => 1184#11 ++ d ++ a ++ b
  | .ushr d a b => 1192#11 ++ d ++ a ++ b
  | .usar d a b => 1200#11 ++ d ++ a ++ b
  | .upopc d a => 1224#11 ++ d ++ a ++ 0#7
  | .uclz d a => 1232#11 ++ d ++ a ++ 0#7
  | .uctz d a => 1240#11 ++ d ++ a ++ 0#7
  | .ubfx s d a b => 628#10 ++ s ++ d ++ a ++ b
  | .usel d a b _ => 1272#11 ++ d ++ a ++ b
  | .uaddi d a i _ => 160#8 ++ d ++ a ++ i
  | .uandi d a i _ => 161#8 ++ d ++ a ++ i
  | .uori d a i _ => 162#8 ++ d ++ a ++ i
  | .ushli d a i => 164#8 ++ d ++ a ++ 0#5 ++ i
  | .ushri d a i => 165#8 ++ d ++ a ++ 0#5 ++ i
  | .usari d a i => 166#8 ++ d ++ a ++ 0#5 ++ i
  | .li d i _ => 168#8 ++ d ++ i
  | .ufaddF32 m d a b => 169#8 ++ m ++ d ++ a ++ b
  | .ufmulF32 m d a b => 170#8 ++ m ++ d ++ a ++ b
  | .ufmacF32 m d a b => 171#8 ++ m ++ d ++ a ++ b
  | .ucmpF32 m d a b => 172#8 ++ m ++ d ++ a ++ b
  | .ucvtToFloat m d a s t => 173#8 ++ m ++ d ++ a ++ s ++ 0#1 ++ t
  | .ucvtToInteger m d a s t => 174#8 ++ m ++ d ++ a ++ s ++ t
  | .prep n o _ => 176#8 ++ n ++ o
  | .prepv n c => 177#8 ++ n ++ 0#3 ++ c ++ 0#11
  | .br n => 178#8 ++ n ++ 0#21
  | .brt n c => 179#8 ++ n ++ 0#3 ++ c ++ 0#11
  | .brf n c => 180#8 ++ n ++ 0#3 ++ c ++ 0#11
  | .brnone n => 181#8 ++ n ++ 0#21
  | .brany n => 182#8 ++ n ++ 0#21
  | .call n m => 183#8 ++ n ++ m ++ 0#18
  | .bloop n c => 184#8 ++ n ++ 0#3 ++ c ++ 0#11
  | .binv n => 185#8 ++ n ++ 0#21
  | .bmov n m => 186#8 ++ n ++ m ++ 0#18
  | .brd n c => 187#8 ++ n ++ 0#3 ++ c ++ 0#11
  | .isync => 3154116608#32
  | .lexit => 3170893824#32
  | .exit => 3187671040#32
  | .nop => 3204448256#32
  | .msave d => 1536#11 ++ d ++ 0#14
  | .mload a => 197632#18 ++ a ++ 0#7
  | .mand d a b => 1552#11 ++ d ++ a ++ b
  | .mandn d a b => 1560#11 ++ d ++ a ++ b
  | .mor d a b => 1568#11 ++ d ++ a ++ b
  | .mrestore a => 201728#18 ++ a ++ 0#7
  | .mall d => 1584#11 ++ d ++ 0#14
  | .mcount d a => 1592#11 ++ d ++ a ++ 0#7
  | .mfirst d a => 1600#11 ++ d ++ a ++ 0#7
  | .yield => 3372220416#32
  | .brk i => 3309568#22 ++ i
  | .svc i => 3325952#22 ++ i
  | .rett a => 208896#18 ++ a ++ 0#7
  | .sysr d n => 205#8 ++ d ++ 0#5 ++ n
  | .sysw d n => 206#8 ++ d ++ 0#5 ++ n
  | .wline d a b => 1656#11 ++ d ++ a ++ b
  | .mmaBf16 z d a b => 832#10 ++ z ++ d ++ a ++ b
  | .mmaF16 z d a b => 836#10 ++ z ++ d ++ a ++ b
  | .mmaT8 z d a b => 840#10 ++ z ++ d ++ a ++ b
  | .mmaT6 z d a b => 844#10 ++ z ++ d ++ a ++ b
  | .mmaI4 z d a b => 848#10 ++ z ++ d ++ a ++ b
  | .mmas n z d a b _ => 213#8 ++ n ++ z ++ d ++ a ++ b
  | .mmaqBf16 z d a b => 856#10 ++ z ++ d ++ a ++ b
  | .mmaqF16 z d a b => 860#10 ++ z ++ d ++ a ++ b
  | .mmaqT8 z d a b => 864#10 ++ z ++ d ++ a ++ b
  | .mmaqT6 z d a b => 868#10 ++ z ++ d ++ a ++ b
  | .mmaqI4 z d a b => 872#10 ++ z ++ d ++ a ++ b
  | .mmaqs n z d a b _ => 219#8 ++ n ++ z ++ d ++ a ++ b
  | .mscl a => 225280#18 ++ a ++ 0#7
  | .mfence d => 1768#11 ++ d ++ 0#14
  | .mwait a => 227328#18 ++ a ++ 0#7
  | .mstat d s => 1784#11 ++ d ++ 0#7 ++ s
  | .cpy d a b => 1792#11 ++ d ++ a ++ b
  | .cpy2d d a b _ => 1800#11 ++ d ++ a ++ b
  | .cpyx d a b => 1808#11 ++ d ++ a ++ b
  | .cpyk d a b _ => 1816#11 ++ d ++ a ++ b
  | .freeze => 3825205248#32
  | .freezeKeep d => 1824#11 ++ d ++ 1#14
  | .stemend a => 234496#18 ++ a ++ 0#7
  | .spawn n c => 230#8 ++ n ++ 0#3 ++ c ++ 0#11
  | .spawnf n c => 231#8 ++ n ++ 0#3 ++ c ++ 0#11
  | .launch a => 237568#18 ++ a ++ 0#7
  | .bar a b => 238592#18 ++ a ++ b
  | .arrive d a b => 1872#11 ++ d ++ a ++ b
  | .waitb a b => 240640#18 ++ a ++ b
  | .quota a => 241664#18 ++ a ++ 0#7
  | .energy d a => 1896#11 ++ d ++ a ++ 0#7
  | .bist d a => 1904#11 ++ d ++ a ++ 0#7
  | .trc a => 244736#18 ++ a ++ 0#7
  | .send d a b => 1920#11 ++ d ++ a ++ b
  | .recv d a b => 1928#11 ++ d ++ a ++ b
  | .probe d a b => 1936#11 ++ d ++ a ++ b
  | .rwait d a => 1944#11 ++ d ++ a ++ 0#7
  | .collRed d a b => 1952#11 ++ d ++ a ++ b
  | .collBcast d a b => 1960#11 ++ d ++ a ++ b
  | .collGath d a b => 1968#11 ++ d ++ a ++ b
  | .cwait a => 252928#18 ++ a ++ 0#7
  | .grun d a => 1984#11 ++ d ++ a ++ 0#7
  | .gset a b => 254976#18 ++ a ++ b
  | .gwait d a => 2000#11 ++ d ++ a ++ 0#7
  | .tlbinv a b => 257024#18 ++ a ++ b
  | .fence k s => 132120576#27 ++ k ++ s
  | .ext _ w2 => w2
  | .wordNotAnInstruction w => w
  | _ => 0#32

/-- The `ext` payload in front of the word, if there is one. -/
def Instr.extOf (i : Instr) : Option (BitVec 24) :=
  match i with
  | .ext p _ => some p
  | .sel _ _ _ x => x
  | .addi _ _ _ x => x
  | .andi _ _ _ x => x
  | .ori _ _ _ x => x
  | .xori _ _ _ x => x
  | .muli _ _ _ x => x
  | .shfl _ _ _ _ x => x
  | .perm _ _ _ x => x
  | .clre _ _ x => x
  | .tagld _ _ _ x => x
  | .tagst _ _ _ x => x
  | .pclr _ _ x => x
  | .cwb _ _ _ x => x
  | .cinv _ _ _ x => x
  | .cflush _ _ _ x => x
  | .pref _ _ _ x => x
  | .ldf _ _ _ _ _ x => x
  | .stf _ _ _ _ _ x => x
  | .ldS8 _ _ _ _ _ x => x
  | .ldN8 _ _ _ _ _ x => x
  | .ldS16 _ _ _ _ _ x => x
  | .ldN16 _ _ _ _ _ x => x
  | .ld32 _ _ _ _ _ x => x
  | .ld64 _ _ _ _ _ x => x
  | .ld128 _ _ _ _ _ x => x
  | .atom32 _ _ _ _ _ x => x
  | .st8 _ _ _ _ _ x => x
  | .st16 _ _ _ _ _ x => x
  | .st32 _ _ _ _ _ x => x
  | .st64 _ _ _ _ _ x => x
  | .st128 _ _ _ _ _ x => x
  | .atom64 _ _ _ _ _ x => x
  | .atom128 _ _ _ _ _ x => x
  | .ldc32 _ _ _ _ x => x
  | .ldc64 _ _ _ _ x => x
  | .ldc128 _ _ _ _ x => x
  | .ldcWK32 _ _ _ _ x => x
  | .ldcWK64 _ _ _ _ x => x
  | .ldcWK128 _ _ _ _ x => x
  | .ldcWC32 _ _ _ _ x => x
  | .ldcWC64 _ _ _ _ x => x
  | .ldcWC128 _ _ _ _ x => x
  | .stc32 _ _ _ _ x => x
  | .stc64 _ _ _ _ x => x
  | .stc128 _ _ _ _ x => x
  | .stcF32 _ _ _ _ x => x
  | .stcF64 _ _ _ _ x => x
  | .stcF128 _ _ _ _ x => x
  | .stcT128 _ _ _ x => x
  | .usel _ _ _ x => x
  | .uaddi _ _ _ x => x
  | .uandi _ _ _ x => x
  | .uori _ _ _ x => x
  | .li _ _ x => x
  | .prep _ _ x => x
  | .mmas _ _ _ _ _ x => x
  | .mmaqs _ _ _ _ _ x => x
  | .cpy2d _ _ _ x => x
  | .cpyk _ _ _ x => x
  | _ => none

/-- The `ext` word of the instruction, or zero (Table 1-10, TRAP.INFO of class 1). -/
def Instr.extWord (i : Instr) : BitVec 32 :=
  match i.extOf with
  | none => 0#32
  | some p => 0xFF#8 ++ p

/-- The four bytes of a word, lowest address first (R55). -/
def bytesOfWord (w : BitVec 32) : List Byte :=
  [w.extractLsb' 0 8, w.extractLsb' 8 8, w.extractLsb' 16 8, w.extractLsb' 24 8]

/-- The words of an instruction, in the order of their addresses. -/
def encode (i : Instr) : List (BitVec 32) :=
  match i.extOf with
  | none => [i.word]
  | some _ => [i.extWord, i.word]

/-- The bytes of an instruction. -/
def encodeBytes (i : Instr) : List Byte := (encode i).flatMap bytesOfWord

/-- The step has an encoding: it is an instruction or a word that is none. -/
def Instr.encodable (i : Instr) : Bool :=
  match i with
  | .registerCopyReexecute => false
  | .mailboxPost => false
  | .dieReset => false
  | .groupEnd => false
  | .teamDispatch => false
  | .gridPrologueDispatch => false
  | .binTimerExpiry => false
  | .quantumSwap => false
  | .groupFrameWrite => false
  | .teamRestore => false
  | .groupFrameRestore => false
  | .energyWindow => false
  | .clockThrottle => false
  | .launchCompletion => false
  | .launchFailureReport => false
  | .launchEndNotice => false
  | .matrixOpComplete => false
  | .copyRequestStart => false
  | .copyRequestComplete => false
  | .pageRequestPost => false
  | .prqDone => false
  | .atsCompletion => false
  | .prgResponse => false
  | .atsInvalidation => false
  | .hostRead => false
  | .hostWrite => false
  | .hostAtomicop => false
  | .tdispMessage => false
  | .stopInterface => false
  | .ideKm => false
  | .spdmMeasurements => false
  | .storageRequest => false
  | .migGo => false
  | .migrationRecall => false
  | .migrationCopy => false
  | .migrationRemap => false
  | .migrationForward => false
  | .migrationRelease => false
  | .rebalancePeriod => false
  | .bucketWrite => false
  | .bucketDrain => false
  | .homeGets => false
  | .homeGetm => false
  | .homeUpgrade => false
  | .writeNotice => false
  | .putm => false
  | .pute => false
  | .homeAtomic => false
  | .uncachedRead => false
  | .uncachedWrite => false
  | .recall => false
  | .invalidate => false
  | .cacheEvict => false
  | .responseData => false
  | .responseGrant => false
  | .responseAcknowledge => false
  | .responseRefused => false
  | .responsePoisoned => false
  | .bulkPacket => false
  | .keyCopyPacket => false
  | .transactionTimeout => false
  | .dieEdgeFlit => false
  | .dieEdgeRetrain => false
  | .d2dRetrain => false
  | .fabricPortRetrain => false
  | .fabRetrain => false
  | .messageAnnouncement => false
  | .announcementReply => false
  | .messageRetry => false
  | .messageDataPacket => false
  | .collectivePacket => false
  | .collectiveDrainReport => false
  | .collectiveDrainedNotice => false
  | .clauseLaunch => false
  | .clauseCopy => false
  | .clauseCollective => false
  | .clauseConditional => false
  | .clauseWhile => false
  | .galIdWrite => false
  | .recDeclare => false
  | .recoveryFence => false
  | .recoveryResolve => false
  | .recoverySweep => false
  | .recoveryReport => false
  | .recReadmit => false
  | .firewallWrite => false
  | .rdirQuery => false
  | .registerWrite => false
  | .dbgStop => false
  | .teamStopEffect => false
  | .dbgAttach => false
  | .dbgStep => false
  | .dbgResume => false
  | .dbgTerminate => false
  | .holdLimitExpiry => false
  | .sampleTick => false
  | .traceEnable => false
  | .margVolt => false
  | .margLrun => false
  | .marginRunDone => false
  | .laneSpareSteer => false
  | .instructionFetchFault _ _ _ _ => false
  | .bistTestComplete => false
  | .cellFailure => false
  | .fabricLinkTraining => false
  | _ => true

/-- What this decoder reads from an instruction whose bits are `w`, numbered from bit 0 of the first word; bits above
`nbits` are zero. -/
def decodeTableWord (nbits w : Nat) : Option Instr :=
  let v := w % 2 ^ nbits
  let lo := BitVec.ofNat 32 v
  let hi := BitVec.ofNat 32 (v >>> 32)
  match decode (bytesOfWord lo ++ bytesOfWord hi) with
  | .ok (i, _) => some i
  | .error _ => none

end Sys2Proof
end

