-- ==== Sys2Proof/Machine/Store.lean ====
section
/-! DEFINITION. Sparse data by key: a list of (key, value) pairs in one canonical form, strictly rising keys and no entry
that equals what an unlisted key reads as. Memory, the tag, full/empty and poison bits, the device registers, the groups, the
teams and the dies are all held so. -/

namespace Sys2Proof.Machine

/-- What `m` holds at `k`; an unlisted key reads as `d k`. -/
def Store.get {α : Type} (d : Nat → α) : List (Nat × α) → Nat → α
  | [], k => d k
  | (j, v) :: t, k => bif Nat.beq k j then v else Store.get d t k

/-- The list without any entry at `k`. -/
def Store.erase {α : Type} (k : Nat) : List (Nat × α) → List (Nat × α)
  | [] => []
  | (j, v) :: t => bif Nat.beq k j then Store.erase k t else (j, v) :: Store.erase k t

/-- `(k, v)` put before the first entry with a greater key. -/
def Store.place {α : Type} (k : Nat) (v : α) : List (Nat × α) → List (Nat × α)
  | [] => [(k, v)]
  | (j, w) :: t => bif Nat.blt k j then (k, v) :: (j, w) :: t else (j, w) :: Store.place k v t

/-- `m` with `v` at `k`, whatever the value. -/
def Store.ins {α : Type} (k : Nat) (v : α) (m : List (Nat × α)) : List (Nat × α) :=
  Store.place k v (Store.erase k m)

/-- `m` with `v` at `k`; the value that an unlisted key reads as is not listed. -/
def Store.put {α : Type} [DecidableEq α] (d : Nat → α) (k : Nat) (v : α) (m : List (Nat × α)) : List (Nat × α) :=
  if v = d k then Store.erase k m else Store.place k v (Store.erase k m)

/-- What is listed at `k`. -/
def Store.find {α : Type} (k : Nat) : List (Nat × α) → Option α
  | [] => none
  | (j, v) :: t => bif Nat.beq k j then some v else Store.find k t

/-- The canonical form: keys strictly rising from `lo` on, and every entry differs from the default. -/
def Store.wfFrom {α : Type} [DecidableEq α] (d : Nat → α) : Nat → List (Nat × α) → Bool
  | _, [] => true
  | lo, (j, v) :: t => Nat.ble lo j && !decide (v = d j) && Store.wfFrom d (j + 1) t

/-- The canonical form of a sparse map. -/
def Store.wf {α : Type} [DecidableEq α] (d : Nat → α) (m : List (Nat × α)) : Bool := Store.wfFrom d 0 m

end Sys2Proof.Machine
end

