-- ==== Sys2Proof/Machine/State.lean ====
section
/-! DEFINITION. The state of the machine as plain data: the gallery's memory with its tags, full/empty bits and poison
(R33, R320, R428), every group, team, core, die and package with the registers the spec gives them, the queues of work in
progress, and the model's own scheduling data (whose turn it is next). Reset is the state right after die reset (R51). -/

namespace Sys2Proof.Machine

/-- Why the machine stops. -/
inductive Fault where
  /-- Raised by `step` when the die whose group is in hand has refused its firmware image and so stays in reset (R443): the
  spec describes nothing more of such a die. Safe: nothing is claimed of what follows. -/
  | heldInReset
  deriving DecidableEq, Repr

/-- Why an instruction is rejected. -/
inductive Refusal where
  /-- Raised by an arm of `exec` whose meaning is not written. Safe: nothing is claimed of what follows. -/
  | notModelled (mnemonic : String)
  deriving DecidableEq, Repr

/-! ### Groups -/

/-- The TRAP registers (Table 1-10). -/
structure TrapRegs where
  pc : DWord
  cause : Word
  addr : DWord
  info : DWord
  deriving DecidableEq, Repr

/-- The HEAP registers (Table 10-3). -/
structure Heap where
  base : DWord
  limit : DWord
  offset : DWord
  attr : DWord
  deriving DecidableEq, Repr

/-- One physical register row in use (R19): its width class (Table 1-2: 1 uniform, 2 8-bit, 3 16-bit, 4 full) and the
registers whose slots it holds. -/
structure Row where
  cls : Nat
  regs : List Nat
  deriving DecidableEq, Repr

/-- A target register (R24) and the granules its prefetch buffer holds (R25), keyed by virtual address / 16. -/
structure Target where
  addr : BitVec 54
  v : Bool
  buf : List (Nat × List Byte)
  deriving DecidableEq, Repr

/-- What a group stands waiting for, before the instruction at its pc (Table 15-3 gives the stall codes). -/
inductive Wait where
  | none
  /-- A source or destination awaits a matrix result (R214). -/
  | matrix
  /-- After an arrival, until the phase `ph` of barrier `b` has completed (R262, R264). -/
  | bar (b : BitVec 4) (ph : BitVec 16)
  /-- At the team's quota rendezvous (R265). -/
  | quota
  /-- In `ldc.w` (R193). -/
  | ldcw
  /-- In `mwait` (R230), `cwait`, `rwait`, `gwait`. -/
  | mwait
  | cwait
  | rwait
  | gwait
  /-- In `wline` (R280). -/
  | wline
  /-- For room in `freeze`, `spawn` or `recv`: stems, frame pool, bins, receive table (R250, R257, R269). -/
  | room
  /-- For room in another instruction: request limit, copy queue, runs, launches, collective engine. -/
  | busy
  /-- Drain of `exit` or `lexit` (R148). -/
  | drain
  /-- Drain of `freeze` (R249). -/
  | freezing
  /-- For a physical row (R21, R365). -/
  | row
  /-- For a page (R339), or for the host's answer about the page with this key (R343). -/
  | page (key : Nat)
  /-- In `bist`: the destination, the test and its unit (R283). -/
  | bist (d test unit : Nat)
  /-- For the answer to a transaction that left the die (R421). -/
  | txn
  /-- For a line that a copy engine owns (R187) or that lies under a migration block (R345). -/
  | owned
  /-- After a write of a firewall register of the die, until the write has completed (R416). -/
  | firewall (dk : Nat)
  deriving DecidableEq, Repr

/-- Where a group stands in its life. -/
inductive Status where
  /-- Resident and running or waiting. -/
  | live
  /-- Suspended in a trap; its record is posted (R49). -/
  | trapped
  /-- Suspended in a trap whose record waits for its mailbox slot (R277). -/
  | posting
  /-- Faulted for want of a row; the scheduler re-executes the instruction (R21). -/
  | rowWait
  /-- Faulted not present at a virtual address, with the access kind of Table 6-2: its group frame is still to be written, and
  only then its page is requested (R339). -/
  | saving (va kind : Nat)
  /-- Waits for a page of the host with this request; its group frame is still to be written (R343). -/
  | paging (req : Nat)
  /-- Saved to a group frame until its page request completes (R339). -/
  | paged (req : Nat)
  /-- In a group frame whose page has been supplied: takes the next free slot of its partition (R367). -/
  | returning
  /-- Member of a team whose prologue group has not frozen yet (R254). -/
  | notStarted
  /-- Executed its last instruction; GROUP_END frees its slot (R148). -/
  | ending
  /-- No group. -/
  | ended
  deriving DecidableEq, Repr

/-- An agent as scopes see it (Table 9-1): its key, its team, its die (key 4 × package + die); the processor chiplet of a package
stands on none of its dies (Table 0-4). -/
structure Agent where
  key : Nat
  tid : Nat
  dk : Nat
  chiplet : Bool
  deriving DecidableEq, Repr

/-- A release (Table 9-3): its agent, its scope, and the agent's accesses that it covers: those numbered below `upto`. `whole`:
its row of the table gives the scope of the pair, whatever the acquire names (a mailbox record). -/
structure Rel where
  agent : Agent
  sc : Nat
  upto : Nat
  whole : Bool
  deriving DecidableEq, Repr

/-- A part of the work of a batch: its batch number (none while pending), its place in the batch and its issue address. -/
structure Tag where
  num : Option Word
  index : Nat
  pc : DWord
  /-- Accesses of the group numbered below come before the issue, as its release of them says (Table 9-3). -/
  ord : Nat
  deriving DecidableEq, Repr

/-- A matrix operation issued and not complete (R214), with every source value taken at issue. -/
structure MatOp where
  tag : Tag
  /-- Major opcode 0x50 to 0x5B, M field, SEL. -/
  op : Nat
  m : BitVec 3
  sel : BitVec 3
  /-- First destination register. -/
  d : Nat
  a : List Lanes
  b : List Lanes
  e : List Lanes
  c : List Lanes
  /-- Scale state at issue and the scale registers it names (R222). -/
  mscl : DWord
  sa : List Lanes
  sb : List Lanes
  /-- Number of the quad step, for `mmaq` and `mmaqs` (R225). -/
  step : Nat
  deriving DecidableEq, Repr

/-- An asynchronous fault that no wait has reported yet (R232, Table 7-5). -/
structure EngFault where
  num : Option Word
  index : Nat
  cls : Nat
  code : Nat
  lane : Option Nat
  queue : Nat
  sub : Nat
  addr : DWord
  /-- The fault voids its copy queue until it is reported (R245). -/
  voids : Bool
  deriving DecidableEq, Repr

/-- A collective that the group has issued (R273, R274): GID, instance and, once it ended, its fault. -/
structure CollIssue where
  gid : Nat
  ci : Nat
  done : Bool
  fault : Option EngFault
  deriving DecidableEq, Repr

/-- A piece of a store that the group has executed and that is not performed yet (R288, R304): the number of its instruction in
the group, its lane, its first byte and its bytes within one 16-byte granule; whether it is a within-die access (R303) and sets
the full bit of its granule (R308); the numbers of the orders that the group had met before it, toward later reads and toward
later writes (Table 9-2); its release tags; `code`: every later access of the group, its code fetch among them, follows it in local
order (R138); `back`: its own lane has read it since. -/
structure Pend where
  id : Nat
  lane : Nat
  ga : Nat
  bytes : List Byte
  within : Bool
  full : Bool
  epoch : Nat
  wepoch : Nat
  tags : List Rel
  code : Bool
  back : Bool
  deriving DecidableEq, Repr

/-- One piece of a held access (R288): its lane, its place, whether it is a within-die access (R303); the bytes it has taken. -/
structure HeldPiece where
  lane : Fin 128
  ga : Nat
  len : Nat
  within : Bool
  got : Option (List Byte)
  deriving DecidableEq, Repr

/-- What a held access does with the bytes: a load of `n` bytes, sign-extended or not; a typed load with the format of each lane's
page; an atomic with its selector (of `atomc` in core memory), its width, the operand and the compare value of each lane. -/
inductive HeldKind where
  | load (n : Nat) (sgn : Bool)
  | typed (fmts : List (Fin 128 × Nat))
  | atomic (core : Bool) (k : Nat) (n : Nat) (ops : List (Fin 128 × (Nat × Nat))) (tags : List Rel)
  deriving DecidableEq, Repr

/-- A relaxed load or atomic that is not performed whole (R287, R304, R305): its instruction, its first destination register and
their number, the orders met before it, whether an order puts it before every later write, and its pieces. -/
structure HeldLoad where
  id : Nat
  d : Nat
  cnt : Nat
  kind : HeldKind
  epoch : Nat
  wfirst : Bool
  ps : List HeldPiece
  deriving DecidableEq, Repr

/-- What a 16-byte granule held when a lane of the group saw it last, with the release tags of its bytes: between-die reads may
still return it (R305). `touched`: another access of the group has met the granule since. -/
structure Seen where
  lane : Nat
  g16 : Nat
  bytes : List Byte
  tags : List Rel
  touched : Bool
  deriving DecidableEq, Repr

/-- A group as an agent of the memory model (R286, R287). -/
structure MemOrder where
  /-- Number of its next instruction; orders met so far toward later reads and toward later writes. -/
  next : Nat
  epoch : Nat
  wepoch : Nat
  /-- Stores that are not performed, in program order; loads that are not performed; older values that its reads may return. -/
  pend : List Pend
  loads : List HeldLoad
  seen : List Seen
  /-- Release tags that its reads have returned, and its release fences, the last of each scope (Table 9-3). -/
  owed : List Rel
  rel : List Rel
  deriving DecidableEq, Repr

/-- A group (R8, R12): its registers, masks, control state and place. -/
structure Group where
  tid : Nat
  gidx : Nat
  /-- Die key 4 × package + die, core, partition and slot. -/
  dk : Nat
  core : Nat
  part : Nat
  slot : Nat
  role : Nat
  ridx : Nat
  status : Status
  wait : Wait
  priv : Bool
  pc : BitVec 56
  regs : Vector Lanes 128
  rows : List Row
  /-- Rows still shared with a stem (R36, R251), and that stem's number. -/
  shared : List Row
  share : Nat
  budget : Nat
  targets : Vector Target 8
  exec : Mask
  live : Mask
  mscl : DWord
  issued : Word
  done : Word
  /-- Operations of the pending set so far (INDEX of Table 7-5). -/
  index : Nat
  /-- Quad operations issued since the group's start (R225). -/
  quads : Nat
  mat : List MatOp
  faults : List EngFault
  colls : List CollIssue
  trap : TrapRegs
  heap : Heap
  asn : Nat
  /-- Stem that the group inflects, and its depth; depth 0 when it inflects none. -/
  stem : Nat
  depth : Nat
  /-- The template image under construction (R195): granule number and its 16 bytes. -/
  image : List (Nat × List Byte)
  /-- Suspension token (Table 8-9), 0 when not suspended. -/
  token : Word
  /-- Code granules fetched since the last transfer (R135), keyed by virtual address / 16. -/
  run : List (Nat × List Byte)
  /-- The group ended through `exit` or `lexit` (not by termination). -/
  exited : Bool
  /-- The host refused the page with this key, with this class 12 code, to the access that waited on it (R343); code 0: no
  group frame could be had to wait in, so the access faults as not present (R367). -/
  hostFail : Option (Nat × Nat)
  /-- Step from which the sources of its next instruction are ready (R357): their latency is the model's free choice. -/
  ready : Nat
  /-- A transaction of the table walk that its next access makes has expired (R421). -/
  late : Bool
  /-- After a `yield`, the groups of the partition that have not issued since (R150, R357). -/
  passed : List Nat
  /-- Its accesses as the memory model orders them (R297). -/
  mo : MemOrder
  deriving DecidableEq, Repr

/-! ### Teams -/

/-- A named barrier (R32): expected count, arrivals, phase, and which groups have arrived (Table 15-5); the releases of the arrivals
of the phase, and of those of the phases that have completed (R263). -/
structure Barrier where
  e : Nat
  n : Nat
  p : BitVec 16
  arrived : BitVec 16
  tags : List Rel
  past : List Rel
  deriving DecidableEq, Repr

/-- Kind of a copy request, and of the requests that behave like one. -/
inductive CopyKind where
  | cpy
  | cpy2d
  | cpyx
  | cpyk
  deriving DecidableEq, Repr

/-- An element of a `cpyx` side (R239): its home and first byte, its bit in that byte, its format (16 + XT when unformatted),
its scale entry's address and its width in bytes (0 none). -/
structure Elem where
  home : Nat
  ga : Nat
  bit : Nat
  fmt : Nat
  scale : Nat
  deriving DecidableEq, Repr

/-- What one granule of a destination receives: its bytes (home, gallery address, length), and the source places of them
(home, address, length) or the elements converted into it (source, destination). -/
structure CopyUnit where
  home : Nat
  ga : Nat
  len : Nat
  /-- Pointer, or window offset, of the first source byte, and of the first destination byte. -/
  ptr : Nat
  dptr : Nat
  src : List (Nat × Nat × Nat)
  els : List (Elem × Elem)
  deriving DecidableEq, Repr

/-- A copy request that has not completed (R235 to R245). -/
structure CopyReq where
  gk : Nat
  tag : Tag
  kind : CopyKind
  d : DWord
  a : DWord
  ctl : DWord
  e : DWord
  heap : Heap
  asn : Nat
  priv : Bool
  started : Bool
  /-- The key packet of a `cpyk` is on its way (R241); another's requests for its lines are (R422). -/
  sent : Bool
  /-- It completes without performing anything: its queue was voided before it started (R245). -/
  skip : Bool
  /-- Cycle at which its oldest transaction in flight left (R420). -/
  since : Nat
  /-- A transaction of the walks of its first stage has expired (R421, R422). -/
  late : Bool
  /-- A page request that the request waits for (R244), or the host page with key `n - 2^32` (R343). -/
  page : Option Nat
  /-- The host refused the page with this key (R343). -/
  hostFail : Option Nat
  /-- What is still to be copied since the start (R386), with the translations of its first stage (R388). -/
  units : List CopyUnit
  /-- Destination ranges of the whole request: gallery address and length. -/
  dst : List (Nat × Nat)
  /-- Source granules read and still needed, by home and address / 16: each is read once (R244), and those that the destination
  meets at the start (R238). -/
  taken : List ((Nat × Nat) × List Byte)
  /-- The segment that the port has in hand is of this request (R385). -/
  hand : Bool
  deriving DecidableEq, Repr

/-- A copy queue (R236): completion count, whether it is voided, and its requests, oldest first. -/
structure Queue where
  count : Word
  void : Bool
  reqs : List CopyReq
  deriving DecidableEq, Repr

/-- Where a team stands. -/
inductive TeamStatus where
  | resident
  | swapped
  | retired
  deriving DecidableEq, Repr

/-- What a team is: the supervisor team, a team of a share, a grid prologue (R253) or a bin-launched group (R259). -/
inductive TeamKind where
  | supervisor
  | grid
  | prologue
  | bin
  deriving DecidableEq, Repr

/-- A team (R8). -/
structure Team where
  kind : TeamKind
  status : TeamStatus
  dk : Nat
  core : Nat
  /-- Key of its launch's record on the die; 0 for the supervisor team. -/
  lk : Nat
  tidx : DWord
  gdim : DWord
  /-- Declared roles: group count and budget per group (R9). -/
  roles : List (Nat × Nat)
  /-- Groups of the team. -/
  size : Nat
  /-- Start and bytes of its core-memory allocation. -/
  base : Nat
  bytes : Nat
  barriers : Vector Barrier 16
  queues : Vector Queue 16
  /-- Values of the groups that have arrived at the quota rendezvous, by group index (R265). -/
  quota : List (Nat × Word)
  /-- A message or collective ties it to its core (R363). -/
  pinned : Bool
  /-- Marked by `yield` (R150). -/
  yielded : Bool
  /-- Cycle at which it became resident (R364, R365). -/
  since : Nat
  /-- Held by a team stop (R460). -/
  held : Bool
  /-- Waits for its prologue group to freeze (R254); the team-level stem once made. -/
  prologue : Bool
  tstem : Option Nat
  /-- The core-memory image and full bits of a swapped team (R54). -/
  frame : List (Nat × Byte)
  frameFull : List Nat
  /-- Granules of the image that hold uncorrectable data (R211). -/
  frameBad : List Nat
  /-- Ended by termination. -/
  killed : Bool
  /-- Its last group to end ended through `exit` or `lexit` (Table 11-5). -/
  exited : Bool
  /-- Chosen to be swapped: nothing of it issues while the work that its frame waits for completes (R52, R364, R365). -/
  leaving : Bool
  /-- Groups whose register copy fault chose it: they re-execute once its frame is written (R365). -/
  lfor : List Nat
  /-- The stem whose template image it started from, and the 256-byte blocks of its core memory that are still those of the
  core's resident copy of that image (R36, R358). -/
  img : Option Nat
  blocks : List Nat
  deriving DecidableEq, Repr

/-! ### Stems, bins, launches -/

/-- A stem (R34). -/
structure Stem where
  /-- Still open (R248). -/
  isOpen : Bool
  depth : Nat
  regs : Vector Lanes 128
  rows : List Row
  targets : Vector Target 8
  exec : Mask
  live : Mask
  mscl : DWord
  image : List (Nat × List Byte)
  pc : BitVec 56
  budget : Nat
  bytes : Nat
  lk : Nat
  deriving DecidableEq, Repr

/-- A spawn bin (R258): its key, its items, the cycle of the first, and the releases of the spawns (R260). -/
structure Bin where
  stem : Nat
  target : BitVec 54
  items : List Word
  since : Nat
  tags : List Rel
  deriving DecidableEq, Repr

/-- A bin launch that waits for dispatch (R259). -/
structure BinLaunch where
  stem : Nat
  target : BitVec 54
  items : List Word
  seq : Word
  /-- The releases of the spawns that gave the items (R260). -/
  tags : List Rel
  deriving DecidableEq, Repr

/-- A launch's share on one die (R351 to R361). -/
structure Launch where
  dk : Nat
  lid : Word
  home : Nat
  packet : List Byte
  /-- Descriptor: ENTRY, flags, COREMEM, roles, rectangle. -/
  entry : BitVec 56
  gridStem : Bool
  teamStem : Bool
  bytes : Nat
  roles : List (Nat × Nat)
  rect : Nat × Nat
  /-- Index of the next team of the share not yet dispatched. -/
  next : Nat
  /-- Grid prologue: 0 none or done, 1 to be dispatched, 2 running. -/
  pro : Nat
  stem : Option Nat
  binq : List BinLaunch
  swapq : List Nat
  /-- The swap queue is served next when both are non-empty (R354). -/
  swapTurn : Bool
  /-- The home die's notice to end has arrived (R370). -/
  ended : Bool
  /-- Quiescence has been reported (R361). -/
  quiet : Bool
  /-- Energy charged in the current window and since the start, in microjoules (R452). -/
  charge : Nat
  total : Nat
  deriving DecidableEq, Repr

/-- What fixes the content of a failed completion record (R370). -/
structure Failure where
  kind : Nat
  reason : Nat
  cls : Nat
  code : Nat
  unit : Word
  addr : DWord
  deriving DecidableEq, Repr

/-- A report on its way to a home die (R352, R370): quiescence of a die, or a failure. -/
structure Report where
  home : Nat
  lid : Word
  die : Nat
  fail : Option Failure
  deriving DecidableEq, Repr

/-- The home die's account of a launch (R369). -/
structure Home where
  dk : Nat
  lid : Word
  packet : List Byte
  /-- Core whose supervisor executed `launch` on the home die (R371). -/
  core : Nat
  /-- The home die has taken its share: reports are held until it has. -/
  taken : Bool
  retired : Nat
  exited : Nat
  quiet : List Nat
  fail : Option Failure
  /-- The dies that still have to be told to end the launch. -/
  notices : List Nat
  deriving DecidableEq, Repr

/-- A run of the parser (R372). -/
structure Run where
  handle : Word
  asn : Nat
  clauses : DWord
  count : Nat
  cur : Nat
  last : Word
  /-- 0 ready for its next clause, 1 waits for a launch, 2 a copy, 3 a collective, 4 a `gset`, 5 a page, 6 ended. -/
  phase : Nat
  /-- Launch identity, instance, word address or request that the run waits for. -/
  on : Nat
  status : Word
  /-- The host refused the page with this key, with this class 12 code, to the run (R343). -/
  fail : Option (Nat × Nat)
  /-- Core of the supervisor that started the run. -/
  core : Nat
  /-- Cycle at which the run came to its clause (R420). -/
  since : Nat
  /-- What the run waited for has ended: whether with a failure, and that failure's class and code. -/
  ended : Option (Bool × Nat × Nat)
  /-- The descriptor has been read; until then CLAUSES holds its address and ASN the group's address space. -/
  loaded : Bool
  /-- The release of its `grun` (R275); the request of a copy clause that has started. -/
  rel : List Rel
  copy : List CopyReq
  deriving DecidableEq, Repr

/-! ### Messages and collectives -/

/-- Where a message stands (R390 to R393). -/
inductive MsgState where
  /-- Its announcement is on its way. -/
  | announce
  /-- The refusal is on its way back. -/
  | refused
  /-- It waits for the gap between repeats. -/
  | retry
  /-- Accepted for the receive with this handle. -/
  | toRecv (h : Word)
  /-- Accepted into an overflow entry. -/
  | toOverflow
  deriving DecidableEq, Repr

/-- A message (R390). -/
structure Msg where
  gk : Nat
  tag : Tag
  dk : Nat
  lk : Nat
  src : Nat
  dst : Nat
  mtag : BitVec 16
  len : Nat
  scm : Bool
  ptr : DWord
  heap : Heap
  asn : Nat
  priv : Bool
  /-- Repeats so far. -/
  tries : Nat
  state : MsgState
  /-- The sender knows that it is accepted: its data packets are on their way. -/
  go : Bool
  /-- The receiving unit has accepted every byte (R268). -/
  sent : Bool
  /-- Where the source bytes stand, once translated: home, address, length. -/
  places : Option (List (Nat × Nat × Nat))
  /-- The page request, or the page of the host, that the source waits for; a page that the host refused. -/
  page : Option Nat
  hostFail : Option Nat
  /-- Cycle of the last refusal, or of the last packet (R392, R420). -/
  since : Nat
  /-- Packets that the receiving unit has, and the bytes of those held in its overflow entry. -/
  got : List Nat
  held : List (Nat × List Byte)
  deriving DecidableEq, Repr

/-- A posted receive (R269). -/
structure Recv where
  handle : Word
  gk : Nat
  dk : Nat
  core : Nat
  lk : Nat
  src : Word
  matchw : Word
  buf : DWord
  cap : Nat
  heap : Heap
  asn : Nat
  priv : Bool
  /-- The message bound to it. -/
  msg : Option Nat
  /-- Packets placed. -/
  placed : List Nat
  page : Option Nat
  hostFail : Option Nat
  /-- A placement fault to be reported at the `rwait` (R270); the rest of the message is discarded. -/
  fault : Option EngFault
  failed : Bool
  complete : Bool
  /-- Tag, source place word and length of the message. -/
  mtag : BitVec 16
  from_ : Word
  len : Nat
  deriving DecidableEq, Repr

/-- What one member has issued for an instance of a collective (R271, R273). -/
structure Member where
  rank : Nat
  dk : Nat
  core : Nat
  /-- The issuing group, with the place of its issue among the group's collectives; none for a parser clause. -/
  gk : Option Nat
  /-- Record key of the issuing team's launch; 0 for a parser clause. -/
  lk : Nat
  /-- 0 `coll.red`, 1 `coll.bcast`, 2 `coll.gath`. -/
  oper : Nat
  ctl : DWord
  d : DWord
  a : DWord
  heap : Heap
  asn : Nat
  priv : Bool
  /-- The issue as a fault record names it. -/
  tag : Tag
  page : Option Nat
  hostFail : Option Nat
  drained : Bool
  noticed : Bool
  deriving DecidableEq, Repr

/-- An instance of a collective group (R397). -/
structure Coll where
  gid : Nat
  tabtag : Word
  inst : Nat
  places : List Nat
  members : List Member
  /-- Its data have been moved, or it has ended with a fault; then the message code that ended it, which a member that
  issues it later receives too (0 none). -/
  performed : Bool
  code : Nat
  /-- Chunks formed at the nodes of the tree: level, node and offset, with the chunk's bytes (R399). -/
  nodes : List ((Nat × Nat × Nat) × List Byte)
  /-- The chunks still to be written: rank of the member and offset; none before every member has issued the instance. -/
  todo : Option (List (Nat × Nat))
  /-- Cycle of the last issue or chunk (R420). -/
  since : Nat
  deriving DecidableEq, Repr

/-! ### Gallery coherence -/

/-- Home directory entry of a line held outside its home package (R407): state code of Table 13-1, owner, cells. -/
structure Dir where
  state : Nat
  owner : Nat
  cells : BitVec 64
  deriving DecidableEq, Repr

/-- A transaction toward another package, or one that finds no route (R420). -/
structure Txn where
  gk : Nat
  /-- 1 GetS, 2 GetM, 3 Upgrade, 4 write notice, 7 atomic, 8 uncached read, 9 uncached write (Table 13-3); 10 the eviction of a
  directory entry by its home (R407). -/
  op : Nat
  ga : Nat
  src : Nat
  /-- 0 sent, 1 served, 2 refused by the firewall, 3 poisoned, 4 expired with nothing performed, 5 unreachable, 6 answered, 7
  expired after its home had performed it, 8 discarded (R418). -/
  phase : Nat
  /-- State granted (Table 13-1 code; 5 poisoned), 7 for a refusal by the firewall, 9 where the home has discarded it. -/
  grant : Nat
  /-- Cycle at which the request left its die (R420). -/
  since : Nat
  /-- Its place in the order of arrival at its home (R410); the packages whose acknowledgements its home still awaits, once its
  turn has come (R411), one whose acknowledgement is discarded as that number + 1024. -/
  seq : Option Nat
  ask : Option (List Nat)
  deriving DecidableEq, Repr

/-- Address translation cache entry, TLB entry: the page, its base gallery (or host) address and its attributes. -/
structure Leaf where
  dk : Nat
  asn : Nat
  /-- First virtual address and size of the page. -/
  va : Nat
  bytes : Nat
  /-- Leaf entry, both doublewords. -/
  lo : DWord
  hi : DWord
  deriving DecidableEq, Repr

/-- An address-space or page-table entry of KIND 0 that a walker cache of a die holds (R336): the range of virtual addresses whose
walks pass through it, its gallery address and its value. -/
structure WalkEntry where
  dk : Nat
  asn : Nat
  va : Nat
  bytes : Nat
  entry : Nat
  lo : DWord
  deriving DecidableEq, Repr

/-- A migration in progress (Table 10-11). -/
structure Migration where
  /-- 1 recall, 2 copy, 3 remap, 4 forward, 5 release. -/
  phase : Nat
  src : Nat
  dst : Nat
  pte : Nat
  bytes : Nat
  old : DWord
  /-- Cycle at which the page was blocked. -/
  since : Nat
  deriving DecidableEq, Repr

/-- A recovery in progress (Table 13-4): phase 0 idle, 1 fence, 2 resolve, 3 sweep, 4 report. -/
structure Recovery where
  phase : Nat
  cell : Nat
  queue : List Nat
  lost : Nat
  deriving DecidableEq, Repr

/-- One of the eight stations of a die's side of an edge (R381), with the flits of Table 12-2. -/
structure Station where
  /-- The next SEQ expected, and one still to be reported: a flit has been accepted or discarded since the last ACK (R383). -/
  seq : BitVec 12
  owes : Bool
  /-- Bytes of whole packets that wait at the station, packed end to end (R382). -/
  wait : List Byte
  /-- SEQ of the next new flit; the flits that no ACK covers, oldest first; the next of them to be sent again (R383). -/
  sent : BitVec 12
  kept : List (BitVec 12 × List Byte)
  again : Nat
  /-- Accepted bytes of a packet that is not yet whole, and the whole packets delivered to the die, in order (R382). -/
  part : List Byte
  got : List (List Byte)
  deriving DecidableEq, Repr

/-- One end of a fabric port or a die edge: up, a retrain in progress, retrains, failed retrains in succession, replays, the stations
of an edge. -/
structure Link where
  up : Bool
  training : Bool
  retrains : Nat
  failed : Nat
  replays : Nat
  stations : Vector Station 8
  /-- Flits received, and the numbers of those whose CRC was wrong among the last 2^20 (R384). -/
  flits : Nat
  errors : List Nat
  deriving DecidableEq, Repr

/-- An outstanding page request of a die (R339). -/
structure PageReq where
  req : Nat
  va : Nat
  asn : Nat
  kind : Nat
  src : Nat
  core : Nat
  posted : Bool
  deriving DecidableEq, Repr

/-! ### Cores, dies, packages -/

/-- What a core holds beside its memory: mailbox sequence, SAMP and TRACE registers (Table 15-1), its message unit. -/
structure Core where
  /-- Posting sequence number of the next mailbox record (R277). -/
  seq : Word
  /-- Records that wait for their slot, oldest first, 64 bytes each. -/
  posts : List (List Byte)
  /-- Stopped by a supervisor fault (R50). -/
  stopped : Bool
  /-- SAMP and TRACE registers by number. -/
  sys : List (Nat × DWord)
  /-- Keys of the traced groups that have emitted the SYNC of R462. -/
  synced : List Nat
  /-- Slot last sampled in each partition, and the cycle up to which samples have been taken (R456). -/
  sampled : Vector Nat 4
  ticked : Nat
  /-- Posted receives, oldest first, and the next handle (R269). -/
  recvs : List Recv
  handle : Word
  /-- Messages held in the overflow queue, oldest first (R391). -/
  overflow : List Nat
  /-- Count of issues of each GID, with the TABTAG it counts under (R397). -/
  counts : List (Nat × (Word × Nat))
  /-- Physical lanes marked as failing, the lane steered in each partition, and dispatch withheld (R446). -/
  failing : List (Nat × Nat)
  steered : List (Nat × Nat)
  withheld : Bool
  withdrawn : Bool
  /-- Resident template images in the team area: stem number to start and bytes (R358). -/
  images : List (Nat × (Nat × Nat))
  /-- Slot last selected on each pipe, at 4 × partition + pipe (R357). -/
  last : Vector Nat 16
  /-- The queue that the copy-engine port serves, as 16 × team + queue, and the bytes left of its segment (R385). -/
  portAt : Nat
  portLeft : Nat
  deriving DecidableEq, Repr

/-- What a die holds: its device registers (region 0xF), its system registers and its units. -/
structure Die where
  /-- Still held in reset: the firmware image was refused (R443). -/
  inReset : Bool
  /-- Cycle at which the die left reset. -/
  epoch : Nat
  /-- Digest of its firmware image (R444). -/
  digest : List Byte
  /-- Device registers by offset, system registers 0x500 to 0x7FF by number. -/
  regs : List (Nat × DWord)
  sys : List (Nat × DWord)
  /-- Live stems and the generation of each stem number (R247). -/
  stems : List (Nat × Stem)
  gens : List (Nat × BitVec 14)
  bins : List Bin
  binSeq : Word
  /-- Launches in the order in which they became active, by key. -/
  launches : List Nat
  runs : List Run
  nextRun : Word
  /-- Page requests and the number of the next (R339). -/
  pages : List PageReq
  nextReq : Nat
  mig : Option Migration
  /-- Requested moves of buckets to slices, oldest first; accesses served in the rebalancer's period by bucket, and the cycle at
  which it began (R322). -/
  reb : List (Nat × Nat)
  served : List (Nat × Nat)
  period : Nat
  recov : Recovery
  edges : Vector Link 2
  ports : Vector Link 6
  /-- Team and group stopped through the debug registers (R460): the team key, cycle of the hold. -/
  dbgTeam : Nat
  dbgFull : Bool
  dbgSince : Nat
  /-- A step is under way: the groups that have still to execute their instruction (R460). -/
  dbgStep : Option (List Nat)
  /-- Number of the energy window that is counted (R368). -/
  window : Nat
  /-- Slices and other units a `bist` marked bad. -/
  badUnits : List Nat
  /-- Next suspension token (Table 8-9): one count for the die, since a suspended group can be restored on another core (R54,
  R277). -/
  token : Word
  /-- Frames in the frame pool: key to offset in the pool and bytes (R362). -/
  frames : List (Nat × (Nat × Nat))
  /-- Notices to end a launch whose share the die has not taken (R370): identity and home die. -/
  notices : List (Word × Nat)
  /-- Bin launches of stems that no launch made, oldest first (R259). -/
  strays : List BinLaunch
  /-- Swapped teams of such stems, in the order in which they were swapped (R354). -/
  strayq : List Nat
  /-- Work of launches in the current window by record key (R452): issue cycles, request bytes, L2 requests. -/
  work : List (Nat × (Nat × Nat × Nat))
  /-- Writes of firewall registers that have not completed, oldest first: offset and value (R416). -/
  fwPend : List (Nat × Nat)
  deriving DecidableEq, Repr

/-- A posted write of the host: BAR0 offset, bytes, the IDE stream that carries it (none of them: 9), the T bit, the attributes No Snoop and Relaxed Ordering (R307, R439). -/
structure Posted where
  off : Nat
  bytes : List Byte
  stream : Nat
  tbit : Bool
  noSnoop : Bool
  relaxed : Bool
  deriving DecidableEq, Repr

/-- What a package holds at its endpoint (R437 to R444). -/
structure Package where
  /-- TDI state: 0 CONFIG_UNLOCKED, 1 CONFIG_LOCKED, 2 RUN, 3 ERROR (Table 14-2). -/
  tdi : Nat
  /-- IDE streams and their keys; the stream that the locked interface is bound to (R441). -/
  ide : List (Nat × List Byte)
  bound : Nat
  /-- Address translation cache: (PASID × 2^44 + page) to host page and write permission (R343). -/
  atc : List (Nat × (Nat × Bool))
  /-- Pages with a Page Request Group outstanding, and those with a translation request outstanding, with the cycle at which it
  left (R343). -/
  pri : List (Nat × Nat)
  ats : List (Nat × Nat)
  /-- Next one-time-signature leaf (R444) and the fused rollback counter (R443). -/
  leaf : Nat
  rollback : Nat
  /-- Uncorrectable Internal Errors reported through AER (R438). -/
  aer : Nat
  /-- ATS Invalidation Requests whose completion waits for the accesses that used their translations (R344). -/
  invs : Nat
  /-- Posted writes of the host that are not performed yet, in the order of their arrival (R307). -/
  posted : List Posted
  /-- Completions delivered to the host, newest first (R438, R444). -/
  out : List (Nat × List Byte)
  /-- The package has lost power or failed (R430): it makes no access and answers nothing. -/
  dead : Bool
  deriving DecidableEq, Repr

/-! ### The machine -/

/-- The operands of a step without an encoding (Table of events); each constructor of `Instr` says what it reads. -/
structure Arg where
  key : Nat
  sub : Nat
  num : Nat
  val : DWord
  flag : Bool
  data : List Byte
  hdr : List Byte
  deriving DecidableEq, Repr

/-- What moves next, where the spec leaves the order open. -/
inductive Turn where
  /-- The group with this key runs its next instruction. -/
  | run (key : Nat)
  /-- A step that has no encoding. -/
  | event (e : Instr) (arg : Arg)
  /-- Code granule `k` after its target is fetched into the buffer of target register `n` (8: ahead of the pc) (R25). -/
  | prefetch (key n k : Nat)
  /-- The checkers disagree at the next instruction of the group; `ok` when the retry agrees (R445). -/
  | checker (key code lane : Nat) (ok : Bool)
  /-- An error in the line or granule at a gallery address, corrected or not (R447). -/
  | ecc (ga : Nat) (corrected : Bool)
  /-- Register `r` of the group moves to a narrower slot (R20). -/
  | narrow (key r : Nat)
  /-- The page of `va` is placed in the TLBs of the group's die (R336). -/
  | tlb (key : Nat) (va : Nat)
  /-- The copy engine copies one unit of the started request at the head of a team's queue (R386). -/
  | piece (tid q n : Nat)
  /-- The sources of the group's next instruction are not ready for `n` more steps (R357). -/
  | latency (key n : Nat)
  /-- The energy of the work on a die is charged to its launches (R368, R452). -/
  | energy (dk : Nat)
  /-- The transaction that fetches the next code of the group expires (R421). -/
  | fetchExpire (key : Nat)
  /-- The other of the two values of a granule written with No Snoop becomes the one that reads return (R439). -/
  | snoop (g : Nat)
  /-- A core-memory granule whose bytes a copy or a message has written becomes full (R308). -/
  | fill (g : Nat)
  /-- The walker cache of the group's die takes the entries that a walk of `va` reads (R336). -/
  | walk (key va : Nat)
  /-- A packet enters its station of a die's edge `e`; station `i` sends its next flit, whose CRC arrives correct or not (R382). -/
  | station (dk e : Nat) (bs : List Byte)
  | flit (dk e i : Nat) (ok : Bool)
  /-- The accesses that used dropped translations of the host are performed: the Invalidation Completion (R344). -/
  | invalidated (pkg : Nat)
  /-- The `n`-th posted write of the host that waits at a package's endpoint is performed where its order lets it (R307). -/
  | posted (pkg n : Nat)
  /-- An L2 slice of a die serves an access to a line of a bucket (R322), a request of the launch with record key `lk` or of none
  (R452): which accesses reach the L2 is the hardware's. -/
  | slice (dk b lk : Nat)
  /-- The `j`-th store of the group that is not performed is performed; the `i`-th piece of its `j`-th held access is; a lane of it
  keeps what a granule holds now (R305). -/
  | perform (key j : Nat)
  | land (key j i : Nat)
  | see (key lane g16 : Nat)
  /-- The writes of firewall registers of a die that can complete do so (R416). -/
  | firewall (dk : Nat)
  /-- A cache takes a clean copy of a line, passes its copy of one to the L2 of its die, or writes it back and drops it (R406). -/
  | cacheFill (unit line : Nat)
  | cacheSpill (unit line : Nat)
  | cacheDrop (unit line : Nat)
  deriving DecidableEq, Repr

/-- The whole machine. -/
structure State where
  /-- Bytes of DRAM (region 0x0) and core memory (region 0x1) by gallery address; an unlisted byte reads as zero. -/
  mem : List Host.Cell
  /-- Tags of the 32-byte granules, by gallery address / 32 (R320). -/
  tags : List (Nat × BitVec 4)
  /-- Full core-memory granules, by gallery address / 16 (R33). -/
  full : List (Nat × Bool)
  /-- Poisoned lines, by gallery address / 128 (R428), and core-memory granules with uncorrectable data, by
  gallery address / 16 (R211). -/
  poison : List (Nat × Bool)
  bad : List (Nat × Bool)
  /-- Core-memory granules, by gallery address / 16, that a copy or receive with FULL has written and has still to set full
  (R308). -/
  fills : List Nat
  /-- Host memory, by package × 2^64 + host physical address. -/
  host : List Host.Cell
  /-- The other value of a granule written with No Snoop, by gallery address / 16 (R439), and whether the bytes held
  here are those of DRAM. -/
  snoop : List (Nat × (Bool × List Byte))
  /-- The group in hand, and the others by key 16 × team + group index. -/
  g : Group
  groups : List (Nat × Group)
  teams : List (Nat × Team)
  cores : List (Nat × Core)
  dies : List (Nat × Die)
  pkgs : List (Nat × Package)
  launches : List (Nat × Launch)
  homes : List (Nat × Home)
  reports : List Report
  msgs : List (Nat × Msg)
  colls : List (Nat × Coll)
  txns : List (Nat × Txn)
  /-- Home directory by line (R407), and what each package holds: line × 1024 + package to state (R408, R409). -/
  dir : List (Nat × Dir)
  held : List (Nat × Nat)
  /-- The last service of each line of the directory (R407). -/
  dirUse : List (Nat × Nat)
  /-- Copies inside packages, by line × 2^20 + cache: the L1 of a core, or 2^19 + the die of an L2; their states (R406). -/
  inner : List (Nat × Nat)
  /-- DRAM's bytes of the granules that caches hold dirty, by gallery address / 16 (R206, R439). -/
  lag : List (Nat × List Byte)
  /-- Release tags of bytes by gallery address: the releases that cover the last write (Table 9-3). -/
  rels : List (Nat × List Rel)
  /-- Registrations of collectives with a member that an instance has found unreachable: GID, TABTAG, place words (R400). -/
  lostRegs : List (Nat × (Word × List Nat))
  /-- The `fence.sc` events, in their one order, the last of each group and scope (R301). -/
  scs : List Rel
  tlb : List Leaf
  /-- What the walker caches hold (R336). -/
  walker : List WalkEntry
  /-- Next key of a team, launch, home account, message, instance or transaction. -/
  fresh : Nat
  /-- Cycles passed and steps made. -/
  cycle : Nat
  steps : Nat
  /-- Turns taken before the default order applies, oldest first; whether the group in hand has had its turn. -/
  agenda : List Turn
  beat : Bool
  /-- Order of the pieces of coming lane stores and atomics (R181, R199); none left: ascending lanes. -/
  order : List (List Nat)
  /-- Pieces of coming relaxed stores that are not performed at once, and coming relaxed loads that take their values later (a
  non-empty entry); none left: at once (R304, R305). -/
  defer : List (List Nat)
  /-- Operands of the step without an encoding that runs next. -/
  arg : Arg
  deriving DecidableEq, Repr

/-! ### Reset -/

/-- The supervisor team of core `c` of die `dk` has the team key 96 × dk + c; other teams are keyed from here on. -/
def firstTeam : Nat := 393216

/-- The address of the firmware image under the boot mapping: the die number × 2^36 (R51). -/
def imageAddr (dk : Nat) : DWord := BitVec.ofNat 64 ((dk % 4) * 2 ^ 36)

def Target.none : Target := ⟨0, false, []⟩
def TrapRegs.zero : TrapRegs := ⟨0, 0, 0, 0⟩
def Heap.zero : Heap := ⟨0, 0, 0, 0⟩

def MemOrder.none : MemOrder := ⟨0, 0, 0, [], [], [], [], []⟩

/-- The register whose lane i holds i. -/
def laneNumbers : Lanes := Lanes.tab fun i => BitVec.ofNat 32 i.val

/-- The v registers of a supervisor group at reset: v1 the lane number, v2:v3 the image address (R51). -/
def supervisorRegs (dk : Nat) : Vector Lanes 128 :=
  ((Vector.replicate 128 (Lanes.uni 0#32)).set 1 laneNumbers).set 3 (Lanes.uni ((imageAddr dk).extractLsb' 32 32))

/-- The supervisor group of a core right after die reset (R51), started at `entry`; it holds no row until a write needs one
(R22). -/
def supervisorGroup (dk core : Nat) (entry : DWord) : Group where
  tid := 96 * dk + core
  gidx := 0
  dk := dk
  core := core
  part := 0
  slot := 0
  role := 0
  ridx := 0
  status := .live
  wait := .none
  priv := true
  pc := (imageAddr dk + entry).extractLsb' 0 56
  regs := supervisorRegs dk
  rows := []
  shared := []
  share := 0
  budget := 128
  targets := Vector.replicate 8 Target.none
  exec := BitVec.allOnes 128
  live := BitVec.allOnes 128
  mscl := 0
  issued := 0
  done := 0
  index := 0
  quads := 0
  mat := []
  faults := []
  colls := []
  trap := TrapRegs.zero
  heap := Heap.zero
  asn := 0
  stem := 0
  depth := 0
  image := []
  token := 0
  run := []
  exited := false
  hostFail := none
  ready := 0
  late := false
  passed := []
  mo := MemOrder.none

def Barrier.zero : Barrier := ⟨0, 0, 0, 0, [], []⟩
def Queue.zero : Queue := ⟨0, false, []⟩

/-- The supervisor team of a core: one group, its core memory the first 4096 × SUP bytes (R51). DEDUCED: log entry 58. -/
def supervisorTeam (dk core : Nat) : Team where
  kind := .supervisor
  status := .resident
  dk := dk
  core := core
  lk := 0
  tidx := 0
  gdim := 0
  roles := [(1, 128)]
  size := 1
  base := 0
  bytes := 4096
  barriers := Vector.replicate 16 Barrier.zero
  queues := Vector.replicate 16 Queue.zero
  quota := []
  pinned := false
  yielded := false
  since := 0
  held := false
  prologue := false
  tstem := none
  frame := []
  frameFull := []
  frameBad := []
  killed := false
  exited := false
  leaving := false
  lfor := []
  img := none
  blocks := []

/-- A core at reset. DESIGN CHOICE: log entry 56. -/
def Core.reset : Core where
  seq := 0
  posts := []
  stopped := false
  sys := []
  synced := []
  sampled := Vector.replicate 4 15
  ticked := 0
  recvs := []
  handle := 1
  overflow := []
  counts := []
  failing := []
  steered := []
  withheld := false
  withdrawn := false
  images := []
  last := Vector.replicate 16 15
  portAt := 0
  portLeft := 0

def Station.reset : Station := ⟨0, false, [], 0, [], 0, [], []⟩
def Link.reset (up : Bool) : Link := ⟨up, false, 0, 0, 0, Vector.replicate 8 Station.reset, 0, []⟩

/-- A die right after its reset; the die edges are up (D2D.STAT resets to 1) and the fabric ports have not trained.
DESIGN CHOICE: log entry 54. -/
def Die.reset : Die where
  inReset := false
  epoch := 0
  digest := []
  regs := []
  sys := []
  stems := []
  gens := []
  bins := []
  binSeq := 0
  launches := []
  runs := []
  nextRun := 1
  pages := []
  nextReq := 0
  mig := none
  reb := []
  served := []
  period := 0
  recov := ⟨0, 0, [], 0⟩
  edges := Vector.replicate 2 (Link.reset true)
  ports := Vector.replicate 6 (Link.reset false)
  dbgTeam := 0
  dbgFull := false
  dbgSince := 0
  dbgStep := none
  window := 0
  badUnits := []
  token := 1
  frames := []
  notices := []
  strays := []
  strayq := []
  work := []
  fwPend := []

/-- A package's endpoint at reset. -/
def Package.reset : Package where
  tdi := 0
  ide := []
  bound := 0
  atc := []
  pri := []
  ats := []
  leaf := 0
  rollback := 0
  aer := 0
  invs := 0
  posted := []
  out := []
  dead := false

def Arg.zero : Arg := ⟨0, 0, 0, 0, false, [], []⟩

/-- What a byte of memory that nothing has written reads as: zero. Core memory is zero at reset (R33, R51); of DRAM the spec
gives no reset contents. DESIGN CHOICE: log entry 1. -/
def memDefault (_ : Nat) : Byte := 0

/-- What a byte of host memory that nothing has written reads as: zero. DESIGN CHOICE: log entry 1. -/
def hostDefault (_ : Nat) : Byte := 0

/-- The canonical form of the memory: addresses strictly rising, no entry equal to what an unlisted byte reads as. -/
def Memory.wf (m : List Host.Cell) : Bool := Store.wf memDefault m

/-- The machine right after reset (R51): the group in hand is the supervisor group of core 0 of die 0 of package 0, every
other supervisor group is as `supervisorGroup` gives, memory lists nothing. DESIGN CHOICE: log entry 56. -/
def State.reset : State where
  mem := []
  tags := []
  full := []
  poison := []
  bad := []
  fills := []
  host := []
  snoop := []
  g := supervisorGroup 0 0 0
  groups := []
  teams := []
  cores := []
  dies := []
  pkgs := []
  launches := []
  homes := []
  reports := []
  msgs := []
  colls := []
  txns := []
  dir := []
  held := []
  dirUse := []
  inner := []
  lag := []
  rels := []
  lostRegs := []
  scs := []
  tlb := []
  walker := []
  fresh := firstTeam
  cycle := 0
  steps := 0
  agenda := []
  beat := false
  order := []
  defer := []
  arg := Arg.zero

end Sys2Proof.Machine
end

