-- ==== Sys2Proof/Machine/Flags.lean ====
section
/-! DEFINITION. Masks and predicates: the machine has no flags (R96, R100); a condition is bit 0 of a register (R124), a mask
is held one bit per lane in bit 0 (R28), and the two masks EXEC and LIVE select lanes (R26, R27). -/

namespace Sys2Proof.Machine

/-- The mask whose bit i, below `n`, is `f i`. -/
def maskFrom (f : Nat → Bool) : Nat → Mask
  | 0 => 0
  | n + 1 => if f n then maskFrom f n ||| BitVec.twoPow 128 n else maskFrom f n

/-- Bit 0 of lane `i`; no lane has it from 128 on. -/
def laneBit (v : Lanes) (i : Nat) : Bool := ((v[i]?).getD 0#32).getLsbD 0

/-- mask(v): bit i is bit 0 of lane i (R28, R144). -/
def maskOf (v : Lanes) : Mask := maskFrom (laneBit v) 128

/-- A mask written to a register: bit i in bit 0 of lane i, the other bits zero (R28). -/
def lanesOfMask (m : Mask) : Lanes := Lanes.tab fun i => if m.getLsbD i.val then 1#32 else 0#32

/-- The lowest set bit below 128 counted from `i`, `n` bits left to look at. -/
def lowestFrom (m : Mask) (i : Nat) : Nat → Option Nat
  | 0 => none
  | n + 1 => if m.getLsbD i then some i else lowestFrom m (i + 1) n

/-- The lowest set bit of a mask. -/
def lowestBit (m : Mask) : Option Nat := lowestFrom m 0 128

/-- The lanes of a mask in ascending order. -/
def lanesIn (m : Mask) : List (Fin 128) := allLanes.filter fun i => m.getLsbD i.val

/-- The number of bits set in a mask. -/
def maskCount (m : Mask) : Nat := (lanesIn m).length

/-- A predicate as a word: 1 if it holds (R71). -/
def predWord (b : Bool) : Word := if b then 1#32 else 0#32

/-- EXEC written: the value ANDed with LIVE (R27). -/
def Group.setExec (g : Group) (m : Mask) : Group := { g with exec := m &&& g.live }

/-- Width class of a register value (Table 1-2): 0 zero, 1 uniform, 2 8-bit, 3 16-bit, 4 full. -/
def classify (v : Lanes) : Nat :=
  let l := v.toList
  let x := v[0]
  if l.all (· == x) then (if x = 0#32 then 0 else 1)
  else if l.all fun w => w.ult 256#32 then 2
  else if l.all fun w => w.ult 65536#32 then 3
  else 4

end Sys2Proof.Machine
end

