-- ==== Sys2Proof/Machine/Ops.lean ====
section
/-! DEFINITION. The named operations over the state: lookups, bytes of memory, registers and their physical rows, and the
taking of a trap with the resumption beside it. -/

namespace Sys2Proof.Machine

/-- The outcome of a step. -/
abbrev Out := Host.Outcome State Fault Refusal

/-! ### Bits and bytes -/

/-- The little-endian bytes of `x`, `n` of them. -/
def bytesLE (x : Nat) : Nat → List Byte
  | 0 => []
  | n + 1 => BitVec.ofNat 8 x :: bytesLE (x / 256) n

/-- The value of little-endian bytes. -/
def natLE : List Byte → Nat
  | [] => 0
  | b :: t => b.toNat + 256 * natLE t

/-- Bits [hi:lo] of `x`. -/
def bits (x : Nat) (hi lo : Nat) : Nat := x / 2 ^ lo % 2 ^ (hi + 1 - lo)

/-- `k` bytes of a list from `i`. -/
def slice {α : Type} (l : List α) (i k : Nat) : List α := (l.drop i).take k

/-! ### Gallery addresses (R40) -/

/-- Address of byte `off` of the DRAM of a die. -/
def dramAddr (dk off : Nat) : Nat := dk / 4 * 2 ^ 44 + dk % 4 * 2 ^ 36 + off

/-- Address of byte `off` of the core memory of a core. -/
def coreAddr (dk core off : Nat) : Nat := dk / 4 * 2 ^ 44 + 2 ^ 40 + dk % 4 * 2 ^ 36 + core * 2 ^ 20 + off

/-- Package and region of a gallery address, and the key of the die it names. -/
def gaPkg (ga : Nat) : Nat := bits ga 53 44
def gaRegion (ga : Nat) : Nat := bits ga 43 40
def gaDie (ga : Nat) : Nat := 4 * gaPkg ga + bits ga 37 36

/-- The address lies in a populated part of its region (Table 1-7, R347). -/
def populated (ga : Nat) : Bool :=
  match gaRegion ga with
  | 0 => bits ga 39 38 == 0 && decide (bits ga 35 0 < 0xC00000000)
  | 1 => bits ga 39 38 == 0 && bits ga 35 27 == 0 && decide (bits ga 26 20 < 96)
  | 15 => bits ga 39 38 == 0 && bits ga 35 16 == 0
  | _ => false

/-! ### Lookups -/

def Group.key (g : Group) : Nat := 16 * g.tid + g.gidx

/-- The key of a core. -/
def coreKey (dk core : Nat) : Nat := 96 * dk + core

/-- A team that does not exist. -/
def deadTeam : Team := { supervisorTeam 0 0 with kind := .grid, status := .retired, size := 0, bytes := 0 }

/-- A group that does not exist. -/
def deadGroup : Group := { supervisorGroup 0 0 0 with tid := 0, status := .ended, priv := false, live := 0, exec := 0 }

/-- What an unlisted team key means: the supervisor team of a core, or no team. -/
def teamDefault (k : Nat) : Team := if k < firstTeam then supervisorTeam (k / 96) (k % 96) else deadTeam

/-- What an unlisted group key means: the supervisor group of a core, or no group. -/
def groupDefault (k : Nat) : Group :=
  if k % 16 = 0 ∧ k / 16 < firstTeam then supervisorGroup (k / 16 / 96) (k / 16 % 96) 0 else deadGroup

def State.team (s : State) (tid : Nat) : Team := Store.get teamDefault s.teams tid
def State.core (s : State) (ck : Nat) : Core := Store.get (fun _ => Core.reset) s.cores ck
def State.die (s : State) (dk : Nat) : Die := Store.get (fun _ => Die.reset) s.dies dk
def State.pkg (s : State) (p : Nat) : Package := Store.get (fun _ => Package.reset) s.pkgs p
def State.setTeam (s : State) (tid : Nat) (t : Team) : State := { s with teams := Store.ins tid t s.teams }
def State.setCore (s : State) (ck : Nat) (c : Core) : State := { s with cores := Store.ins ck c s.cores }
def State.setDie (s : State) (dk : Nat) (d : Die) : State := { s with dies := Store.ins dk d s.dies }
def State.setPkg (s : State) (p : Nat) (k : Package) : State := { s with pkgs := Store.ins p k s.pkgs }

/-- The group with this key: the one in hand, or one of the others. -/
def State.group (s : State) (k : Nat) : Group :=
  if k = s.g.key then s.g else Store.get groupDefault s.groups k

/-- The group with this key replaced. -/
def State.setGroup (s : State) (k : Nat) (g : Group) : State :=
  if k = s.g.key then { s with g := g } else { s with groups := Store.ins k g s.groups }

/-- The group with this key taken in hand. -/
def State.take (s : State) (k : Nat) : State :=
  if k = s.g.key then s
  else { s with g := Store.get groupDefault s.groups k,
                groups := Store.ins s.g.key s.g (Store.erase k s.groups) }

/-- Every group that is listed, the one in hand first. -/
def State.allGroups (s : State) : List Group := s.g :: s.groups.map (·.2)

/-- The team of the group in hand. -/
def State.myTeam (s : State) : Team := s.team s.g.tid

/-- The groups of a team that have not ended, by group index. -/
def State.teamGroups (s : State) (tid : Nat) : List Group :=
  ((List.range (s.team tid).size).map fun j => s.group (16 * tid + j)).filter fun g => g.status != .ended

/-- A fresh key. -/
def State.bump (s : State) : State := { s with fresh := s.fresh + 1 }

/-- Cycles since the die's reset (CTX.CYCLE, R43). -/
def State.cycleOf (s : State) (dk : Nat) : Nat := s.cycle - (s.die dk).epoch

/-! ### Fuses and registers of a die -/

/-- System registers of a die at reset (Table 14-6): the clock at 1500 MHz, the defect map's version and die number; every
other fuse clear. DESIGN CHOICE: log entry 5. -/
def sysReset (dk num : Nat) : DWord :=
  match num with
  | 0x503 => 1500
  | 0x700 => BitVec.ofNat 64 (1 + (dk % 4) * 2 ^ 56)
  | _ => 0

/-- System register 0x500 to 0x7FF of a die as held. -/
def State.sysReg (s : State) (dk num : Nat) : DWord := Store.get (sysReset dk) (s.die dk).sys num

def State.setSysReg (s : State) (dk num : Nat) (v : DWord) : State :=
  let d := s.die dk
  s.setDie dk { d with sys := Store.put (sysReset dk) num v d.sys }

/-- Device registers at reset (Tables 10-10, 11-8, 12-6, 13-6, 14-6, 15-4); the BUCKET registers apart. -/
def devReset (off : Nat) : DWord :=
  match off with
  | 0x0060 => 0x10081
  | 0x0310 => 0x100040
  | 0x0418 => 0x3E8
  | 0x041C => 1
  | 0x0828 => 0x16
  | 0x0830 => 0xFFFFFFFFFFFFFFFF
  | 0x0A20 => 0x3E8
  | _ => 0

/-- Device register of a die as held. -/
def State.dev (s : State) (dk off : Nat) : DWord := Store.get devReset (s.die dk).regs off

def State.setDev (s : State) (dk off : Nat) (v : DWord) : State :=
  let d := s.die dk
  s.setDie dk { d with regs := Store.put devReset off v d.regs }

/-- A core is bad by the defect map, or because its partition 0 is marked OFF (R51). -/
def State.coreBad (s : State) (dk core : Nat) : Bool :=
  (s.sysReg dk (0x701 + core / 64)).getLsbD (core % 64) ||
  (s.sysReg dk (0x710 + 4 * core / 8)).getLsbD (8 * (4 * core % 8) + 6)

/-- A partition of a core is marked OFF (R450). -/
def State.partOff (s : State) (dk core part : Nat) : Bool :=
  (s.sysReg dk (0x710 + (4 * core + part) / 8)).getLsbD (8 * ((4 * core + part) % 8) + 6)

/-- The fused defect map marks an L2 slice bad (R450). -/
def State.sliceFused (s : State) (dk sl : Nat) : Bool := (s.sysReg dk (0x703 + sl / 64)).getLsbD (sl % 64)

/-- An L2 slice is marked bad (R450), or a self-test withdrew it (R448). -/
def State.sliceBad (s : State) (dk sl : Nat) : Bool := s.sliceFused dk sl || (s.die dk).badUnits.contains (0x1000 + sl)

/-- The die's lowest-numbered good core (R425, R460). -/
def State.firstCore (s : State) (dk : Nat) : Nat :=
  ((List.range 96).find? fun c => !s.coreBad dk c).getD 0

/-- The package and cell that the die's identity register names; zero until V is 1 (R402). DESIGN CHOICE: log entry 44. -/
def State.galId (s : State) (dk : Nat) : Nat × Nat :=
  let v := (s.dev dk 0x0800).toNat
  if v / 2 ^ 31 % 2 = 1 then (bits v 9 0, bits v 21 16) else (0, 0)

/-! ### Memory bytes -/

/-- One byte of memory: DRAM or core memory. -/
def State.byte (s : State) (ga : Nat) : Byte := Store.get memDefault s.mem ga

def State.setByte (s : State) (ga : Nat) (b : Byte) : State := { s with mem := Store.put memDefault ga b s.mem }

/-- `n` bytes from `ga` upward. -/
def State.bytes (s : State) (ga : Nat) : Nat → List Byte
  | 0 => []
  | n + 1 => s.byte ga :: State.bytes s (ga + 1) n

/-- Bytes stored from `ga` upward. -/
def State.setBytes (s : State) (ga : Nat) : List Byte → State
  | [] => s
  | b :: t => (s.setByte ga b).setBytes (ga + 1) t

/-- A little-endian number of `n` bytes. -/
def State.rdN (s : State) (ga n : Nat) : Nat := natLE (s.bytes ga n)

def State.wrN (s : State) (ga n v : Nat) : State := s.setBytes ga (bytesLE v n)

/-- Full/empty bit of the core-memory granule at `ga / 16` (R33). -/
def State.isFull (s : State) (g16 : Nat) : Bool := Store.get (fun _ => false) s.full g16

def State.setFull (s : State) (g16 : Nat) (b : Bool) : State := { s with full := Store.put (fun _ => false) g16 b s.full }

/-- A granule that a copy or receive with FULL has written is still to be set full, in an event of its own (R308). -/
def State.addFill (s : State) (g16 : Nat) : State :=
  if s.fills.contains g16 then s else { s with fills := s.fills ++ [g16] }

/-- The written granules that satisfy `p` are set full (R308). -/
def State.flushFills (s : State) (p : Nat → Bool) : State :=
  (s.fills.filter p).foldl (fun s g => s.setFull g true) { s with fills := s.fills.filter fun g => !p g }

/-- Tag of the 32-byte granule at `ga / 32` (R320). -/
def State.tagAt (s : State) (g32 : Nat) : BitVec 4 := Store.get (fun _ => 0#4) s.tags g32

def State.setTag (s : State) (g32 : Nat) (t : BitVec 4) : State := { s with tags := Store.put (fun _ => 0#4) g32 t s.tags }

/-- The line at `ga / 128` is poisoned (R428). -/
def State.isPoison (s : State) (line : Nat) : Bool := Store.get (fun _ => false) s.poison line

def State.setPoison (s : State) (line : Nat) (b : Bool) : State :=
  { s with poison := Store.put (fun _ => false) line b s.poison }

/-- The core-memory granule at `ga / 16` holds uncorrectable data (R211). -/
def State.isBad (s : State) (g16 : Nat) : Bool := Store.get (fun _ => false) s.bad g16

def State.setBad (s : State) (g16 : Nat) (b : Bool) : State := { s with bad := Store.put (fun _ => false) g16 b s.bad }

/-- The resident team of a core whose allocation holds a gallery address of its core memory. -/
def State.teamHolding (s : State) (ga : Nat) : Option (Nat × Team) :=
  s.teams.find? fun p => p.2.status == .resident && gaRegion ga == 1 &&
    decide (coreAddr p.2.dk p.2.core p.2.base ≤ ga) && decide (ga < coreAddr p.2.dk p.2.core p.2.base + p.2.bytes)

/-- A byte of core memory is about to be written: its 256-byte block becomes the team's own (R36). -/
def State.ownBlock (s : State) (ga : Nat) : State :=
  if gaRegion ga ≠ 1 then s
  else
    match s.teamHolding ga with
    | some (tid, t) =>
      let b := (ga - coreAddr t.dk t.core t.base) / 256
      if t.blocks.contains b then s.setTeam tid { t with blocks := t.blocks.filter (· != b) } else s
    | none => s

/-- The first gallery address of the core memory of the team in hand. -/
def State.teamBase (_ : State) (t : Team) : Nat := coreAddr t.dk t.core t.base

/-- Bytes of core memory of a team; the supervisor team's follow SCHED.CMEM as it resets (R51). -/
def Team.cmem (t : Team) : Nat := t.bytes

/-! ### Registers (R13 to R21) -/

def zeroLanes : Lanes := Lanes.uni 0#32

/-- Register `r`; v0 reads as zero (R14). -/
def Group.rd (g : Group) (r : Nat) : Lanes := if r = 0 then zeroLanes else (g.regs[r]?).getD zeroLanes

/-- Register `r` written in all lanes; a write to v0 is discarded (R14). -/
def Group.wr (g : Group) (r : Nat) (v : Lanes) : Group :=
  if r = 0 then g else { g with regs := g.regs.setIfInBounds r v }

/-- The lane of a uniform read: the lowest lane with its EXEC bit set, else lane 0 (Table 0-5). -/
def Group.ulane (g : Group) : Fin 128 := (allLanes.find? fun i => g.exec.getLsbD i.val).getD 0

/-- U(v). -/
def Group.u (g : Group) (r : Nat) : Word := (g.rd r)[g.ulane]

/-- A 64-bit value of a pair in one lane: vN low, vN+1 high (R15). -/
def Group.rd64 (g : Group) (r : Nat) (i : Fin 128) : DWord := (g.rd (r + 1))[i] ++ (g.rd r)[i]

/-- U of a pair, both halves from the same lane (R155). -/
def Group.u64 (g : Group) (r : Nat) : DWord := g.rd64 r g.ulane

/-- Slots of a row of a width class (Table 1-2). -/
def slotsOf (cls : Nat) : Nat :=
  match cls with
  | 1 => 128
  | 2 => 4
  | 3 => 2
  | _ => 1

/-- Register `r` taken out of the rows; an empty row is free again. -/
def dropReg (r : Nat) (rows : List Row) : List Row :=
  (rows.map fun w => { w with regs := w.regs.filter (· != r) }).filter fun w => !w.regs.isEmpty

/-- Class of the slot that `r` holds, 0 for none. -/
def slotClass (r : Nat) (rows : List Row) : Nat :=
  match rows.find? fun w => w.regs.contains r with
  | some w => w.cls
  | none => 0

/-- `r` put into the first row of the class with a free slot. DESIGN CHOICE: log entry 80. -/
def joinRow (r cls : Nat) : List Row → Option (List Row)
  | [] => none
  | w :: t =>
    if w.cls = cls ∧ w.regs.length < slotsOf cls ∧ !w.regs.contains r then some ({ w with regs := w.regs ++ [r] } :: t)
    else (joinRow r cls t).map (w :: ·)

/-- `r` given a slot wide enough for a value of class `cls`, with `free` free rows in the partition (R20); `none` when no row
is free (R21). -/
def moveReg (rows : List Row) (free r cls : Nat) : Option (List Row × Nat) :=
  if cls ≤ slotClass r rows then some (rows, free)
  else
    let dropped := dropReg r rows
    let back := rows.length - dropped.length
    match joinRow r cls dropped with
    | some rows' => some (rows', free + back)
    | none => if free = 0 then none else some (⟨cls, [r]⟩ :: dropped, free + back - 1)

/-- A slot for a value of class `cls` in register `r`, with the copy of a row shared with a stem (R36). -/
def Group.slotFor (g : Group) (free r cls : Nat) : Option (Group × Nat) :=
  match g.shared.find? fun w => w.regs.contains r with
  | some w =>
    if cls = 0 then some ({ g with shared := dropReg r g.shared }, free)
    else if free = 0 then none
    else
      match moveReg (w :: g.rows) (free - 1) r cls with
      | some (rows, free') => some ({ g with shared := g.shared.erase w, rows := rows }, free')
      | none => none
  | none =>
    match moveReg g.rows free r cls with
    | some (rows, free') => some ({ g with rows := rows }, free')
    | none => none

/-- The write-back of one register: its class, its slot, then its value. -/
def Group.put (g : Group) (free : Nat) (r : Nat) (v : Lanes) : Option (Group × Nat) :=
  if r = 0 then some (g, free)
  else
    match g.slotFor free r (classify v) with
    | some (g', free') => some (g'.wr r v, free')
    | none => none

/-- Several registers written at once, lowest first; `none` when a row is missing. -/
def Group.putAll (g : Group) (free : Nat) : List (Nat × Lanes) → Option Group
  | [] => some g
  | (r, v) :: t =>
    match g.put free r v with
    | some (g', free') => g'.putAll free' t
    | none => none

/-- The group holds rows of its partition: it is resident (R54, R367). -/
def State.resident (s : State) (g : Group) : Bool :=
  (match g.status with
    | .ended => false
    | .paged _ => false
    | .returning => false
    | _ => true) && (s.team g.tid).status == .resident

/-- The groups of one partition. -/
def State.partGroups (s : State) (dk core part : Nat) : List Group :=
  s.allGroups.filter fun g => g.dk = dk && g.core = core && g.part = part && s.resident g

/-- Rows of the resident stems of a partition, one copy each (R36, R358). -/
def State.stemRows (s : State) (dk : Nat) (gs : List Group) : Nat :=
  ((((gs.filter fun g => !g.shared.isEmpty).map fun g => g.share).eraseDups.map fun n =>
    match Store.find n (s.die dk).stems with
    | some st => st.rows.length
    | none => 0)).foldl (· + ·) 0

/-- Rows in use in a partition: a group that is not listed holds none (R22). -/
def State.rowsUsed (s : State) (dk core part : Nat) : Nat :=
  let gs := s.partGroups dk core part
  (gs.foldl (fun n g => n + g.rows.length) 0) + s.stemRows dk gs

/-- Free rows of a partition (R19). -/
def State.rowsFree (s : State) (dk core part : Nat) : Nat := 1024 - s.rowsUsed dk core part

/-- No partition of the core holds more rows than it has (R19): what starts or returns there can be given its rows and the
residency of its stem (R353, R358). -/
def State.rowsOk (s : State) (dk core : Nat) : Bool := (List.range 4).all fun p => decide (s.rowsUsed dk core p ≤ 1024)

/-- Free rows of the partition of the group in hand (R19). -/
def State.freeRows (s : State) : Nat := s.rowsFree s.g.dk s.g.core s.g.part

/-- A full row reserved for each of `n` registers from `r` (R214). -/
def Group.reserve (g : Group) (free r : Nat) : Nat → Option Group
  | 0 => some g
  | n + 1 =>
    match g.slotFor free r 4 with
    | some (g', free') => g'.reserve free' (r + 1) n
    | none => none

/-- The registers written by the group in hand; `none` for the register copy fault (R21). -/
def State.putRegs (s : State) (ws : List (Nat × Lanes)) : Option State :=
  (s.g.putAll s.freeRows ws).map fun g => { s with g := g }

/-! ### Traps (R45 to R51) -/

/-- A fault as an instruction meets it. -/
structure Trap where
  cls : Nat
  code : Nat
  lane : Option Nat
  async : Bool
  addr : DWord
  info : DWord
  /-- Virtual address of the faulting byte, for a page request (Table 10-8); `hostVa` for a page that only the host supplies. -/
  va : Nat
  deriving DecidableEq, Repr

/-- In place of an address: the page is the host's, and no request for it is posted (R343). -/
def hostVa : Nat := 2 ^ 64

/-- A precise fault that concerns no lane and no address. DEDUCED: log entry 11. -/
def plainTrap (cls code : Nat) : Trap := ⟨cls, code, none, false, 0, 0, 0⟩

/-- TRAP.CAUSE (Table 1-10). -/
def Trap.cause (t : Trap) : Word :=
  BitVec.ofNat 32 (t.cls % 16 + t.code % 256 * 16 +
    (match t.lane with
      | some l => l % 128 * 2 ^ 12 + 2 ^ 19
      | none => 0) + (if t.async then 2 ^ 20 else 0))

/-- The group is in a quad: its role's group count has a whole quad at its place (R11). -/
def Group.quadOf (g : Group) (t : Team) : Option Nat :=
  match t.roles[g.role]? with
  | some (n, _) => if g.ridx / 4 < n / 4 then some (g.ridx / 4) else none
  | none => none

/-- CTX.GRP (Table 1-9). -/
def State.ctxGrp (s : State) (g : Group) : Word :=
  let t := s.team g.tid
  let q := g.quadOf t
  BitVec.ofNat 32 (g.gidx % 16 + g.role % 4 * 16 + g.ridx % 16 * 64 + q.getD 0 % 4 * 1024 +
    (if q.isSome then 2 ^ 12 else 0) + (t.size - 1) % 16 * 2 ^ 13)

/-- CTX.LOC of a place (Table 1-9); PKG reads zero until GAL.ID.V is 1 (R402). -/
def State.locWord (s : State) (dk core part slot : Nat) : Word :=
  BitVec.ofNat 32 (slot % 16 + part % 4 * 16 + core % 128 * 64 + dk % 4 * 2 ^ 13 + (s.galId dk).1 * 2 ^ 15)

/-- The 64 bytes of a mailbox record (Table 8-9), its sequence number apart. -/
def recordBytes (tr : TrapRegs) (token : Word) (tidx : DWord) (grp : Word) (seq : Word) : List Byte :=
  bytesLE tr.pc.toNat 8 ++ bytesLE tr.addr.toNat 8 ++ bytesLE tr.info.toNat 8 ++ bytesLE tr.cause.toNat 4 ++
  bytesLE token.toNat 4 ++ bytesLE tidx.toNat 8 ++ bytesLE grp.toNat 4 ++ bytesLE seq.toNat 4 ++
  bytesLE tr.pc.toNat 8 ++ bytesLE 0 8

/-- Granule of slot `k` of the core's mailbox. -/
def mailGranule (dk core k : Nat) : Nat := coreAddr dk core (64 * k) / 16

/-- The four granules of a mailbox slot marked (R277, R279). -/
def State.markSlot (s : State) (dk core k : Nat) (b : Bool) : State :=
  let g := mailGranule dk core k
  (((s.setFull g b).setFull (g + 1) b).setFull (g + 2) b).setFull (g + 3) b

/-- A group as an agent; its release, at a scope, of what it has accessed so far (Table 9-3). -/
def Group.agent (g : Group) : Agent := ⟨g.key, g.tid, g.dk, false⟩
def Group.release (g : Group) (sc : Nat) : Rel := ⟨g.agent, sc, g.mo.next, false⟩

/-- Agents that are no group: the host, and the hardware that signals a launch's end, which are agents at sys scope only (R307, R313);
the storage service of a package (R436); the units of a die (Table 9-1). -/
def hostAgent : Agent := ⟨2 ^ 40, 2 ^ 40, 0, true⟩
def serviceAgent (p : Nat) : Agent := ⟨2 ^ 40 + 1 + p, 2 ^ 40 + 1 + p, 4 * p, true⟩
def dieAgent (dk : Nat) : Agent := ⟨2 ^ 41 + dk, 2 ^ 41 + dk, dk, false⟩

/-- The release of an agent that holds nothing back. -/
def Agent.release (a : Agent) (sc : Nat) : Rel := ⟨a, sc, 0, false⟩

/-- Releases with another of the same agent and scope in place of the one before. -/
def latest (r : Rel) (rs : List Rel) : List Rel := rs.filter (fun q => !(q.agent.key == r.agent.key && q.sc == r.sc)) ++ [r]

/-- The release tags of bytes that are written. -/
def State.tagWrite (s : State) (ga n : Nat) (tags : List Rel) : State :=
  if s.rels.isEmpty ∧ tags.isEmpty then s
  else { s with rels := (List.range n).foldl (fun m j =>
    if tags.isEmpty then Store.erase (ga + j) m else Store.ins (ga + j) tags m) s.rels }

/-- A record posted in ring order, or `none` while its slot's first granule is still full (R277). `rec` builds the record from
its sequence number; `tags` release it to the supervisor (Table 9-3). -/
def State.tryPost (s : State) (dk core : Nat) (rec : Word → List Byte) (tags : List Rel) : Option State :=
  let ck := coreKey dk core
  let c := s.core ck
  let k := c.seq.toNat % 64
  if s.isFull (mailGranule dk core k) then none
  else
    let s := (s.setBytes (coreAddr dk core (64 * k)) (rec c.seq)).tagWrite (coreAddr dk core (64 * k)) 64 tags
    let s := s.markSlot dk core k true
    some (s.setCore ck { c with seq := c.seq + 1 })

/-- A record that concerns no group (TOKEN 0): posted, or queued until its slot is empty. -/
def State.postNote (s : State) (dk core : Nat) (tr : TrapRegs) : State :=
  let ck := coreKey dk core
  let c := s.core ck
  let r := recordBytes tr 0 0 0 0
  if c.posts.isEmpty then
    match s.tryPost dk core (recordBytes tr 0 0 0) [] with
    | some s' => s'
    | none => s.setCore ck { c with posts := [r] }
  else s.setCore ck { c with posts := c.posts ++ [r] }

/-- The record of a group suspended in a trap. -/
def State.groupRecord (s : State) (g : Group) (seq : Word) : List Byte :=
  recordBytes g.trap g.token (s.team g.tid).tidx (s.ctxGrp g) seq

/-- Work of a launch on its die: issue cycles, request bytes, L2 requests (R452). -/
def State.workDone (s : State) (lk c b l : Nat) : State :=
  match Store.find lk s.launches with
  | some x =>
    let d := s.die x.dk
    let w := (Store.find lk d.work).getD (0, 0, 0)
    s.setDie x.dk { d with work := Store.ins lk (w.1 + c, w.2.1 + b, w.2.2 + l) d.work }
  | none => s

/-! ### Trace packets (R462 to R464) -/

/-- Trace is enabled on a core, with a size that Table 15-1 allows. -/
def State.traceOn (s : State) (ck : Nat) : Bool :=
  let c := s.core ck
  let size := (Store.get (fun _ => 0#64) c.sys 0x403).toNat / 4096
  (Store.get (fun _ => 0#64) c.sys 0x400).getLsbD 0 && decide (16 ≤ size) && decide (size = 2 ^ Nat.log2 size)

/-- The group is traced on its core. -/
def State.traced (s : State) (g : Group) : Bool :=
  (Store.get (fun _ => 0#64) (s.core (coreKey g.dk g.core)).sys 0x401).getLsbD (16 * g.part + g.slot) &&
  s.traceOn (coreKey g.dk g.core)

/-- Bytes appended to the trace of a core. -/
def State.traceRaw (s : State) (ck : Nat) (pkt : List Byte) : State :=
  let c := s.core ck
  let base := (Store.get (fun _ => 0#64) c.sys 0x402).toNat
  let size := (Store.get (fun _ => 0#64) c.sys 0x403).toNat
  let head := (Store.get (fun _ => 0#64) c.sys 0x404).toNat
  let s := s.setBytes (base + head % size) pkt
  s.setCore ck { c with sys := Store.put (fun _ => 0#64) 0x404 (BitVec.ofNat 64 (head + pkt.length)) c.sys }

/-- The SYNC packet of a group (Table 15-6). -/
def State.syncPacket (s : State) (g : Group) : List Byte :=
  [1, BitVec.ofNat 8 (16 * g.part + g.slot)] ++ bytesLE 0 6 ++ bytesLE g.pc.toNat 8 ++
  bytesLE (s.team g.tid).tidx.toNat 8 ++
  bytesLE (match Store.find (s.team g.tid).lk s.launches with
    | some l => l.lid.toNat
    | none => 0) 4 ++ bytesLE (s.cycleOf g.dk) 4

/-- The traced groups of a core in ascending partition and slot order. -/
def State.tracedGroups (s : State) (ck : Nat) : List Group :=
  (List.range 64).flatMap fun n =>
    s.allGroups.filter fun g => coreKey g.dk g.core = ck && 16 * g.part + g.slot = n && s.resident g && s.traced g

/-- A SYNC for every traced group of the core (R463). -/
def State.traceSyncs (s : State) (ck : Nat) : State :=
  (s.tracedGroups ck).foldl (fun s g => s.traceRaw ck (s.syncPacket g)) s

/-- A group is forgotten among those that have emitted their SYNC: it emits another before its next traced instruction (R462). -/
def State.unsync (s : State) (ck k : Nat) : State :=
  let c := s.core ck
  s.setCore ck { c with synced := c.synced.filter (· != k) }

/-- Every group of a team emits a SYNC before its next traced instruction (R462). -/
def State.unsyncTeam (s : State) (tid : Nat) : State := (s.teamGroups tid).foldl (fun s g => s.unsync (coreKey g.dk g.core) g.key) s

/-- The SYNC of one group; at a multiple of 4096 every traced group emits its own (R462, R463). -/
def State.traceSync (s : State) (ck : Nat) (g : Group) : State :=
  let head := (Store.get (fun _ => 0#64) (s.core ck).sys 0x404).toNat
  let room := 4096 - head % 4096
  let s := if room < 32 then s.traceRaw ck (List.replicate room 0) else s
  let all := room = 4096 ∨ room < 32
  let s := if all then s.traceSyncs ck else s.traceRaw ck (s.syncPacket g)
  let c := s.core ck
  s.setCore ck { c with synced := g.key :: ((if all then (s.tracedGroups ck).map Group.key else []) ++ c.synced) }

/-- The SYNC of the group in hand before its first traced instruction (R462). -/
def State.syncFirst (s : State) : State :=
  let ck := coreKey s.g.dk s.g.core
  if s.traced s.g && !(s.core ck).synced.contains s.g.key then s.traceSync ck s.g else s

/-- A packet appended to the trace: never across a multiple of 4096, each of which starts with the SYNCs (R463). -/
def State.tracePacket (s : State) (ck : Nat) (pkt : List Byte) : State :=
  let head := (Store.get (fun _ => 0#64) (s.core ck).sys 0x404).toNat
  let room := 4096 - head % 4096
  let s := if room < pkt.length then s.traceRaw ck (List.replicate room 0) else s
  let s := if room = 4096 ∨ room < pkt.length then s.traceSyncs ck else s
  s.traceRaw ck pkt

/-- The packet of `trc`, wherever trace is enabled on the core (R282). -/
def State.emitUser (s : State) (rest : List Byte) : State :=
  let ck := coreKey s.g.dk s.g.core
  if s.traceOn ck then s.tracePacket ck ([4, BitVec.ofNat 8 (16 * s.g.part + s.g.slot)] ++ rest) else s

/-- The packet of kind `kind` of the group in hand, where the group is traced; with the packet END the group is over. -/
def State.emit (s : State) (kind : Byte) (rest : List Byte) : State :=
  if s.traced s.g then
    let ck := coreKey s.g.dk s.g.core
    let t := s.tracePacket ck ([kind, BitVec.ofNat 8 (16 * s.g.part + s.g.slot)] ++ rest)
    if kind = 6 then t.unsync ck s.g.key else t
  else s

/-! ### Failure of launches (R50, R370) -/

/-- UNIT of a completion record (Table 11-5). -/
def State.unitWord (s : State) (dk core part slot ukind : Nat) : Word :=
  s.locWord dk core part slot ||| BitVec.ofNat 32 (ukind * 2 ^ 25)

/-- A failure of the launch with record key `lk` on its way to its home die. -/
def State.reportFail (s : State) (lk : Nat) (f : Failure) : State :=
  match Store.find lk s.launches with
  | some l => { s with reports := s.reports ++ [⟨l.home, l.lid, l.dk, some f⟩] }
  | none => s

/-- The launches with a team on a core: resident there, or swapped out and bound to it (R50). -/
def State.launchesOn (s : State) (dk core : Nat) : List Nat :=
  ((s.teams.filter fun p => p.2.dk = dk && p.2.core = core && p.2.lk != 0 &&
    (p.2.status == .resident || (p.2.status == .swapped && p.2.pinned))).map fun p => p.2.lk).eraseDups

/-- A fault of the supervisor group stops its core; every launch with a team there fails (R50). -/
def State.stopCore (s : State) (t : Trap) : State :=
  let ck := coreKey s.g.dk s.g.core
  let s := s.setCore ck { s.core ck with stopped := true }
  let f : Failure := ⟨1, 0, t.cls, t.code, s.unitWord s.g.dk s.g.core 0 0 2, t.addr⟩
  (s.launchesOn s.g.dk s.g.core).foldl (fun s lk => s.reportFail lk f) s

/-! ### Page requests (R339) -/

/-- Records of the page-request ring: 0 where PRQ.COUNT holds none or another value (Table 10-10). -/
def State.ringCount (s : State) (dk : Nat) : Nat :=
  let n := (s.dev dk 0x0018).toNat
  if 16 ≤ n ∧ n ≤ 4096 ∧ n = 2 ^ Nat.log2 n then n else 0

/-- The ring's address. -/
def State.ringBase (s : State) (dk : Nat) : Nat := bits (s.dev dk 0x0010).toNat 53 12 * 4096

/-- The ring has room for another record (R339). -/
def State.ringRoom (s : State) (dk : Nat) : Bool :=
  let prod := s.rdN (s.ringBase dk) 4
  let cons := s.rdN (s.ringBase dk + 64) 4
  decide ((prod + 2 ^ 32 - cons) % 2 ^ 32 < s.ringCount dk)

/-- One record written to the ring, then PROD advanced with a release at die scope (R339, Table 10-8). -/
def State.writePage (s : State) (dk : Nat) (p : PageReq) : State :=
  let base := s.ringBase dk
  let prod := s.rdN base 4
  let at_ := base + 128 + 32 * (prod % s.ringCount dk)
  let space := p.asn % 4096 + p.kind % 4 * 2 ^ 12 + p.src % 4 * 2 ^ 14
  let s := s.setBytes at_ (bytesLE (p.va % 2 ^ 56) 8 ++ bytesLE space 4 ++ bytesLE p.req 4 ++
    bytesLE (s.locWord dk p.core 0 0).toNat 4 ++ bytesLE 0 12)
  ((s.tagWrite at_ 32 []).wrN base 4 (prod + 1)).tagWrite base 4 [(dieAgent dk).release 2]

/-- A page request made by an engine or a group of a core: posted while the ring has room, else it waits. Answers its number. -/
def State.requestPage (s : State) (dk va asn kind src core : Nat) : State × Nat :=
  let d := s.die dk
  let room := s.ringRoom dk && d.pages.all (·.posted)
  let p : PageReq := ⟨d.nextReq % 2 ^ 32, va, asn, kind, src, core, room⟩
  let s := if room then s.writePage dk p else s
  let d := s.die dk
  (s.setDie dk { d with pages := d.pages ++ [p], nextReq := d.nextReq + 1 }, p.req)

/-- Bytes of the frame pool (R362) and of one group frame (R52: 72 KiB, in units of 64 KiB pool pages). -/
def State.poolSize (s : State) (dk : Nat) : Nat := bits (s.dev dk 0x0408).toNat 47 16 * 65536
def frameBytes : Nat := 73728

/-- Bytes of the frame pool in use (FRAME.USED, Table 11-8). -/
def Die.used (d : Die) : Nat := (d.frames.map fun f => f.2.2).sum

/-- Keys of the frames in the pool: of a group, of a team, of a stem. -/
def groupFrame (k : Nat) : Nat := 4 * k
def teamFrame (tid : Nat) : Nat := 4 * tid + 1
def stemFrame (n : Nat) : Nat := 4 * n + 2

/-- The first place in a pool of `size` bytes where `n` bytes fit beside the frames. DESIGN CHOICE: log entry 47. -/
def frameHole (frames : List (Nat × (Nat × Nat))) (size n : Nat) : Option Nat :=
  (0 :: frames.map fun f => f.2.1 + f.2.2).find? fun b =>
    decide (b + n ≤ size) && frames.all fun f => decide (b + n ≤ f.2.1) || decide (f.2.1 + f.2.2 ≤ b)

/-- The pool can hold a frame of `n` bytes. -/
def State.poolRoom (s : State) (dk n : Nat) : Bool := (frameHole (s.die dk).frames (s.poolSize dk) n).isSome

/-- A frame of `n` bytes placed in the pool, which can hold it. -/
def State.poolTake (s : State) (dk key n : Nat) : State :=
  let d := s.die dk
  s.setDie dk { d with frames := Store.ins key ((frameHole d.frames (s.poolSize dk) n).getD 0, n) d.frames }

/-- A frame is free again. -/
def State.poolGive (s : State) (dk key : Nat) : State :=
  let d := s.die dk
  s.setDie dk { d with frames := Store.erase key d.frames }

/-- Gallery address of a frame in the pool at FRAME.BASE (R362). -/
def State.frameAddr (s : State) (dk key : Nat) : Nat :=
  bits (s.dev dk 0x0400).toNat 53 16 * 65536 + ((Store.find key (s.die dk).frames).map (·.1)).getD 0

/-! ### Taking a trap -/

/-- The TRAP registers that a trap writes (Table 1-10). -/
def State.trapRegs (s : State) (t : Trap) : TrapRegs := ⟨s.g.pc.zeroExtend 64, t.cause, t.addr, t.info⟩

/-- A user group's trap goes to the supervisor: TRAP registers written, execution suspended, the record posted (R49); while
the mailbox slot is full the group stays suspended until it is posted (R277). -/
def State.suspend (s : State) (t : Trap) : State :=
  let ck := coreKey s.g.dk s.g.core
  let s := s.emit 5 (bytesLE t.cause.toNat 4 ++ bytesLE 0 4)
  let d := s.die s.g.dk
  let g := { s.g with trap := s.trapRegs t, token := d.token, wait := .none, status := .posting }
  let s := { s.setDie s.g.dk { d with token := if d.token = 0xFFFFFFFF#32 then 1 else d.token + 1 } with g := g }
  if (s.core ck).posts.isEmpty then
    match s.tryPost g.dk g.core (s.groupRecord g) [{ g.release 2 with whole := true }] with
    | some s' => { s' with g := { g with status := .trapped } }
    | none => s
  else s

/-- Taking a trap: the ONE way an exception is entered (R45 to R50). A user group that meets a not-present fault is to be saved to
a group frame, for which room is taken, while a page-request ring exists and the pool can hold the frame (R339, R367), its TRAP
registers as they were (DEDUCED: log entry 59); every other fault of a user group suspends
it and posts a record; a fault of the supervisor group stops its core (R50). The pc stays at the instruction, which re-executes
after a resumption at TRAP.PC. -/
def State.trap (s : State) (t : Trap) : State :=
  if s.g.priv then
    let s := s.emit 5 (bytesLE t.cause.toNat 4 ++ bytesLE 0 4)
    let s := { s with g := { s.g with trap := s.trapRegs t, wait := .none, status := .trapped } }
    s.stopCore t
  else if t.cls = 3 ∧ t.code = 1 ∧ !t.async ∧ t.va ≠ hostVa ∧ s.ringCount s.g.dk ≠ 0 ∧ s.poolRoom s.g.dk frameBytes then
    let s := s.poolTake s.g.dk (groupFrame s.g.key) frameBytes
    { s with g := { s.g with status := .saving t.va (t.info.toNat % 4), wait := .page 0 } }
  else s.suspend t

/-- The outcome of taking a trap. -/
def takeTrap (t : Trap) (s : State) : Out := .next (s.trap t)

/-- A group with its prefetch buffers and its fetched granules discarded: a start, restore, resumption or `isync` (R140). -/
def Group.refetch (g : Group) : Group :=
  { g with run := [], targets := g.targets.map fun b => { b with buf := [] } }

/-- The resumption of a suspended group at an address (R49, R140): the return from a trap. -/
def State.resumeAt (s : State) (k : Nat) (pc : BitVec 56) : State :=
  let g := s.group k
  let g' := { g.refetch with status := .live, wait := .none, token := 0, pc := pc }
  let s := s.setGroup k g'
  if s.traced g' then
    s.tracePacket (coreKey g.dk g.core) ([3, BitVec.ofNat 8 (16 * g.part + g.slot)] ++ bytesLE pc.toNat 7)
  else s

/-- The register copy fault: the instruction has no effect but for the TRAP registers, which describe the fault (Table 1-10),
and the scheduler re-executes it (R21, R365). -/
def rowFault (s : State) : Out :=
  .next { s with g := { s.g with trap := s.trapRegs (plainTrap 7 1), status := .rowWait, wait := .row } }

/-- The group stands at the boundary before its instruction. -/
def waitFor (w : Wait) (s : State) : Out := .next { s with g := { s.g with wait := w } }

end Sys2Proof.Machine
end

