-- ==== Sys2Proof/Machine/Translate.lean ====
section
/-! DEFINITION. From a pointer to a gallery address (R328 to R343): the address fault, the heap window, the host ranges, the
page tables of the address space, the boot mapping, with the checks of Table 6-1 in their order, and the checks at the home of
a gallery address (Table 13-8). -/

namespace Sys2Proof.Machine

/-- Who translates: the die, the address space, the privilege and the heap window. -/
structure Ctx where
  dk : Nat
  asn : Nat
  priv : Bool
  heap : Heap
  /-- A walk of this access that leaves the die expires (R421). -/
  late : Bool
  deriving DecidableEq, Repr

/-- The group in hand as a translating agent. -/
def Group.ctx (g : Group) : Ctx := ⟨g.dk, g.asn, g.priv, g.heap, g.late⟩

/-- Access kind of TRAP.INFO[1:0] (R179). -/
inductive Kind where
  | read
  | write
  | rmw
  | fetch
  /-- `pclr`: needs write ownership and a present mapping, but no write permission (R212). -/
  | clear
  /-- A cache operation: needs read permission and touches no data (R206). -/
  | cache
  deriving DecidableEq, Repr

def Kind.code : Kind → Nat
  | .read => 0
  | .write => 1
  | .rmw => 2
  | .fetch => 3
  | .clear => 1
  | .cache => 0

/-- The access needs write ownership (R335). -/
def Kind.writes : Kind → Bool
  | .write => true
  | .rmw => true
  | .clear => true
  | _ => false

/-- The access needs write permission. -/
def Kind.needsW : Kind → Bool
  | .write => true
  | .rmw => true
  | _ => false

/-- The access reads data. -/
def Kind.reads : Kind → Bool
  | .read => true
  | .rmw => true
  | _ => false

/-- A translated page piece: the gallery address of its first byte (or host address), its home (0 to 3, 4 host), the leaf's
format and geometry, whether tags are checked, the scale slots' first address, and the entry that the walker marks with its
new value (R335). -/
structure Xlat where
  ga : Nat
  home : Nat
  fmt : Nat
  geom : Nat
  tagen : Bool
  slot : Nat
  mark : Option (Nat × Nat)
  deriving DecidableEq, Repr

/-- What a translation comes to: a place, a fault with the gallery address that TRAP.INFO names for class 4 (R179), or a wait for the host's answer about a page (R343). -/
inductive XRes where
  | ok (x : Xlat)
  | bad (cls code ga : Nat)
  | ats (page : Nat)
  deriving DecidableEq, Repr

/-! ### The home of a gallery address (R403, R413, R419, R424) -/

/-- Cell of a package in a die's CELLMAP, and whether the package is part of the gallery (R403). -/
def State.cellOf (s : State) (dk p : Nat) : Option Nat :=
  let b := bits (s.dev dk (0x0C00 + 4 * (p / 4))).toNat (8 * (p % 4) + 7) (8 * (p % 4))
  if b / 128 = 1 then some (b % 64) else none

/-- Fabric port `j` of package `p` carries gallery packets: its link is up and its die has its identity (R402, R418). -/
def State.portUp (s : State) (p j : Nat) : Bool :=
  (s.dev (4 * p + j / 6) 0x0800).getLsbD 31 && (((s.die (4 * p + j / 6)).ports[j % 6]?).map (·.up)).getD false

/-- The ports of a die's route to package `p` that are up (R419). -/
def State.upPorts (s : State) (dk p : Nat) : List Nat :=
  (List.range 24).filter fun j => (s.dev dk (0x3000 + 4 * p)).toNat.testBit j && s.portUp (dk / 4) j

/-- Some port of the route to package `p` is up (R419). -/
def State.routeUp (s : State) (dk p : Nat) : Bool := !(s.upPorts dk p).isEmpty

/-- A `bist` waits for the unit, whose new work is withheld (R283). -/
def State.underTest (s : State) (dk unit : Nat) : Bool :=
  s.allGroups.any fun g => g.dk = dk &&
    match g.wait with
    | .bist _ _ u => u == unit
    | _ => false

/-- The port that a packet for the address takes, chosen by bits [11:7] of it; 0xFF where none is up (R419). -/
def State.fabricPort (s : State) (dk ga : Nat) : Nat :=
  let ps := s.upPorts dk (gaPkg ga)
  (ps[bits ga 11 7 % ps.length]?).getD 0xFF

/-- A packet for the address waits: the port that it takes is under test, which takes no new work (R283). -/
def State.portHeld (s : State) (dk ga : Nat) : Bool :=
  gaPkg ga != dk / 4 && let j := s.fabricPort dk ga
    s.underTest (4 * (dk / 4) + j / 6) (0x3000 + j % 6)

/-- Some port of the package brings gallery packets in (R402). -/
def State.portsOpen (s : State) (p : Nat) : Bool := (List.range 24).any (s.portUp p)

/-- A die acts on packets from package `p`: its ports carry gallery packets (R402), and it has not declared the cell of `p` dead
(R424). -/
def State.hears (s : State) (dk p : Nat) : Bool :=
  p == dk / 4 || (s.portsOpen (dk / 4) && s.portsOpen p &&
    match s.cellOf dk p with
    | some c => !(s.dev dk 0x0808).getLsbD c
    | none => true)

/-- A packet from package `p` carries the SRCCELL that a die's CELLMAP gives it (R418). -/
def State.srcOk (s : State) (dk p : Nat) : Bool := p == dk / 4 || s.cellOf dk p == some (s.galId (4 * p)).2

/-- A discarded packet counts in FAB.STAT.BADPKT (R418). -/
def State.countBad (s : State) (dk : Nat) : State :=
  let v := (s.dev dk 0x0850).toNat
  s.setDev dk 0x0850 (BitVec.ofNat 64 (v % 65536 + (v / 65536 + 1) % 65536 * 65536))

/-- The home package can be reached from a die (Table 13-8 code 5). -/
def State.reachable (s : State) (dk p : Nat) : Bool :=
  p == dk / 4 ||
  ((match s.cellOf dk p with
    | some c => !(s.dev dk 0x0808).getLsbD c
    | none => false) && s.routeUp dk p)

/-- The firewall of the line's home die lets a cell take write ownership (R413): the lowest entry that applies decides. -/
def State.firewall (s : State) (ga cell : Nat) : Bool :=
  let dk := gaDie ga
  let o := bits ga 35 0
  match ((s.die dk).regs.filterMap fun r =>
      if 0x1018 ≤ r.1 ∧ r.1 ≤ 0x2FF8 ∧ r.1 % 32 = 24 ∧ r.2.getLsbD 0 then some ((r.1 - 0x1018) / 32) else none).find? fun f =>
    decide (bits (s.dev dk (0x1000 + 32 * f)).toNat 35 16 * 65536 ≤ o) &&
    decide (o < bits (s.dev dk (0x1008 + 32 * f)).toNat 36 16 * 65536) with
  | some f => (s.dev dk (0x1010 + 32 * f)).getLsbD cell
  | none => (s.dev dk 0x0830).getLsbD cell

/-- Cell of the package of a die. -/
def State.myCell (s : State) (dk : Nat) : Nat := (s.galId dk).2

/-! ### Page tables (R330 to R336) -/

/-- An absolute place word that no consumer refuses (R80). -/
def placeOk (w : Nat) : Bool := decide (bits w 3 0 ≤ 11) && bits w 7 7 == 0 && bits w 31 20 == 0

/-- Die key and core of an absolute place word (Table 2-13). -/
def placeDie (w : Nat) : Nat := 4 * bits w 19 10 + bits w 9 8
def placeCore (w : Nat) : Nat := 12 * bits w 6 4 + bits w 3 0

/-- A leaf found by a walk: the gallery address of its entry, both doublewords, the first virtual address and size of its
page. -/
structure LeafAt where
  entry : Nat
  lo : Nat
  hi : Nat
  va : Nat
  size : Nat
  deriving DecidableEq, Repr

inductive WRes where
  | leaf (l : LeafAt)
  | bad (cls code ga : Nat)
  deriving DecidableEq, Repr

/-- log2 of the page size of a leaf at a level (Table 10-4), and the index bits. -/
def levelShift (l : Nat) : Nat :=
  match l with
  | 3 => 46
  | 2 => 40
  | 1 => 28
  | _ => 16

def levelIndex (l va : Nat) : Nat :=
  match l with
  | 3 => bits va 55 46
  | 2 => bits va 45 40
  | 1 => bits va 39 28
  | _ => bits va 27 16

/-- A table lies in populated DRAM. -/
def tableOk (ga : Nat) : Bool := gaRegion ga == 0 && populated ga

/-- The malformed leaves of R334 at a level. -/
def State.leafBad (s : State) (l lo hi : Nat) : Bool :=
  let frame := bits lo 53 16 * 65536
  let home := bits lo 10 9
  let fmt := bits lo 14 11
  let scaled := fmt == 5 || fmt == 6 || fmt == 7
  l == 3 || frame % 2 ^ levelShift l != 0 ||
  (home == 1 && (decide (191 < bits hi 7 0) || s.sliceBad (gaDie frame) (bits hi 7 0) || bits hi 63 8 != 0)) ||
  (home == 2 && (l != 0 || bits frame 53 20 != 0 || !placeOk (bits hi 31 0) || bits hi 63 32 != 0)) ||
  ((home == 1 || home == 2) && scaled) ||
  (scaled && (bits lo 55 54 == 3 || bits hi 63 32 != 0)) ||
  (home != 1 && home != 2 && !scaled && hi != 0) ||
  ((gaRegion frame == 1 || gaRegion frame == 15) && (home == 0 || home == 1))

/-- What keeps a walk of a die from reading an entry: its home out of reach, an expired transaction (R421), poison. The gallery
address of the fault is the entry's. DESIGN CHOICE: log entry 79. -/
def State.entryBad (s : State) (c : Ctx) (entry : Nat) : Option WRes :=
  if !s.reachable c.dk (gaPkg entry) then some (.bad 4 5 entry)
  else if c.late ∧ gaDie entry ≠ c.dk then some (.bad 4 2 entry)
  else if s.isPoison (entry / 128) then some (.bad 4 1 entry)
  else none

/-- The value that the die's walker cache holds of an entry (R336). -/
def State.walkerHolds (s : State) (c : Ctx) (entry : Nat) : Option Nat :=
  (s.walker.find? fun w => w.dk == c.dk && w.asn == c.asn && w.entry == entry).map fun w => w.lo.toNat

/-- The walk from a table of level `l`, `n` levels left. -/
def State.walkFrom (s : State) (c : Ctx) (va table l : Nat) : Nat → WRes
  | 0 => .bad 3 12 0
  | n + 1 =>
    let entry := table + 16 * levelIndex l va
    if !tableOk table then .bad 3 12 0
    else
      match s.walkerHolds c entry with
      | some lo => if l = 0 then .bad 3 12 0 else s.walkFrom c va (bits lo 53 16 * 65536) (l - 1) n
      | none =>
        match s.entryBad c entry with
        | some r => r
        | none =>
          let lo := s.rdN entry 8
          let hi := s.rdN (entry + 8) 8
          if lo % 2 = 0 then .bad 3 1 0
          else
            match bits lo 8 7 with
            | 0 => if l = 0 then .bad 3 12 0 else s.walkFrom c va (bits lo 53 16 * 65536) (l - 1) n
            | 1 =>
              if s.leafBad l lo hi then .bad 3 12 0
              else .leaf ⟨entry, lo, hi, va / 2 ^ levelShift l * 2 ^ levelShift l, 2 ^ levelShift l⟩
            | _ => .bad 3 12 0

/-- The address-space entry of a number (R330). -/
def State.spaceEntry (s : State) (dk asn : Nat) : Nat := bits (s.dev dk 0x0000).toNat 53 16 * 65536 + 16 * asn

/-- An address-space entry with V clear or malformed (R330). -/
def badSpace (lo hi : Nat) : Bool := lo % 2 == 0 || bits lo 15 1 != 0 || bits lo 63 54 != 0 || hi != 0

/-- The walk of an address space (R330, R332). -/
def State.walk (s : State) (c : Ctx) (va : Nat) : WRes :=
  let at_ := s.spaceEntry c.dk c.asn
  if bits (s.dev c.dk 0x0008).toNat 12 0 ≤ c.asn then .bad 3 12 0
  else if !tableOk at_ then .bad 3 12 0
  else
    match s.walkerHolds c at_ with
    | some lo => s.walkFrom c va (bits lo 53 16 * 65536) 3 4
    | none =>
      match s.entryBad c at_ with
      | some r => r
      | none =>
        let lo := s.rdN at_ 8
        if badSpace lo (s.rdN (at_ + 8) 8) then .bad 3 12 0 else s.walkFrom c va (bits lo 53 16 * 65536) 3 4

/-- The entries below a table that a walk of `va` reads and a walker cache may hold: valid ones of KIND 0 (R336). -/
def State.walkPath (s : State) (c : Ctx) (va table l : Nat) : Nat → List WalkEntry
  | 0 => []
  | n + 1 =>
    let entry := table + 16 * levelIndex l va
    let size := 2 ^ levelShift l
    if !tableOk table ∨ l = 0 then []
    else
      match s.walkerHolds c entry with
      | some lo => s.walkPath c va (bits lo 53 16 * 65536) (l - 1) n
      | none =>
        let lo := s.rdN entry 8
        if (s.entryBad c entry).isSome ∨ lo % 2 = 0 ∨ bits lo 8 7 ≠ 0 then []
        else ⟨c.dk, c.asn, va / size * size, size, entry, BitVec.ofNat 64 lo⟩ :: s.walkPath c va (bits lo 53 16 * 65536) (l - 1) n

/-- The walker cache takes the entries that a walk of `va` reads, the address-space entry first (R336). -/
def State.walkFill (s : State) (c : Ctx) (va : Nat) : State :=
  let at_ := s.spaceEntry c.dk c.asn
  if bits (s.dev c.dk 0x0008).toNat 12 0 ≤ c.asn ∨ !tableOk at_ then s
  else
    match s.walkerHolds c at_ with
    | some lo => { s with walker := s.walker ++ s.walkPath c va (bits lo 53 16 * 65536) 3 4 }
    | none =>
      let lo := s.rdN at_ 8
      if (s.entryBad c at_).isSome ∨ badSpace lo (s.rdN (at_ + 8) 8) then s
      else { s with walker := s.walker ++ ⟨c.dk, c.asn, 0, 2 ^ 56, at_, BitVec.ofNat 64 lo⟩ :: s.walkPath c va (bits lo 53 16 * 65536) 3 4 }

/-- The cached translation of the page, where one is held (R336). -/
def State.cached (s : State) (dk asn va : Nat) : Option Leaf :=
  s.tlb.find? fun l => l.dk = dk && l.asn = asn && decide (l.va ≤ va) && decide (va < l.va + l.bytes)

/-- The permission checks of a leaf, codes 2 to 5 in their order (R334). -/
def permCode (lo : Nat) (k : Kind) (priv : Bool) : Option Nat :=
  if (k.reads ∨ k = .cache) ∧ bits lo 1 1 = 0 then some 2
  else if k.needsW ∧ bits lo 2 2 = 0 then some 3
  else if k = .fetch ∧ bits lo 3 3 = 0 then some 4
  else if !priv ∧ bits lo 4 4 = 0 then some 5
  else none

/-- The gallery address of byte `va` under a leaf (R334, R326). -/
def leafGa (lo hi va pva : Nat) : Nat :=
  let frame := bits lo 53 16 * 65536
  if bits lo 10 9 = 2 then coreAddr (placeDie hi) (placeCore hi) (65536 * bits frame 19 16) + (va - pva)
  else frame + (va - pva)

/-- A leaf used by an access: permissions, then its place; the walker marks A, and D for a write (R335). -/
def leafUse (lo hi va pva : Nat) (entry : Option Nat) (k : Kind) (priv : Bool) : XRes :=
  match permCode lo k priv with
  | some c => .bad 3 c 0
  | none =>
    let ga := leafGa lo hi va pva
    let new := lo ||| 2 ^ 5 ||| (if k.writes then 2 ^ 6 else 0)
    let page := leafGa lo hi pva pva
    .ok { ga := ga
          home := bits lo 10 9
          fmt := bits lo 14 11
          geom := bits lo 55 54
          tagen := bits lo 15 15 == 1
          slot := gaPkg page * 2 ^ 44 + (bits hi 31 0 + (va - pva) / 65536) * 4096
          mark := match entry with
            | some e => if new = lo then none else some (e, new)
            | none => none }

/-- The leaf that an access of a kind uses, and whether it is a cached one: a write that finds D clear in the cache walks (R335). -/
def State.leafFor (s : State) (c : Ctx) (va : Nat) (k : Kind) : WRes × Bool :=
  match s.cached c.dk c.asn va with
  | some l => if k.writes ∧ bits l.lo.toNat 6 6 = 0 then (s.walk c va, false) else (.leaf ⟨0, l.lo.toNat, l.hi.toNat, l.va, l.bytes⟩, true)
  | none => (s.walk c va, false)

/-- Translation of one byte through the page tables, or the boot mapping while ASTAB.COUNT is 0 (R331). -/
def State.pageXlat (s : State) (c : Ctx) (va : Nat) (k : Kind) : XRes :=
  if c.asn = 0 ∧ bits (s.dev c.dk 0x0008).toNat 12 0 = 0 then
    if bits va 55 44 ≠ 0 then .bad 3 1 0
    else
      let ga := c.dk / 4 * 2 ^ 44 + bits va 43 0
      if k = .fetch ∧ gaRegion ga ≠ 0 then .bad 3 4 0
      else if !c.priv then .bad 3 5 0
      else .ok ⟨ga, if gaRegion ga = 0 then 0 else 3, 0, 0, false, 0, none⟩
  else
    match s.leafFor c va k with
    | (.bad cls code ga, _) => .bad cls code ga
    | (.leaf w, cached) => leafUse w.lo w.hi va w.va (if cached then none else some w.entry) k c.priv

/-! ### Heap window and host ranges (R328, R342) -/

/-- The address lies in the heap window. -/
def Heap.holds (h : Heap) (x : Nat) : Bool :=
  h.attr.getLsbD 0 && decide (h.base.toNat ≤ x) && decide (x < h.limit.toNat)

/-- Translation of one byte in the heap window; `last` is the last byte of the access. -/
def Heap.xlat (h : Heap) (va : Nat) (k : Kind) : XRes :=
  let g := (va + h.offset.toNat) % 2 ^ 64
  let at_ := h.attr.toNat
  if k.needsW ∧ bits at_ 1 1 = 0 then .bad 3 3 0
  else if k = .fetch then .bad 3 4 0
  else if bits g 63 54 ≠ 0 ∨ gaRegion g ≠ 0 ∨ !populated g then .bad 3 8 0
  else .ok ⟨g, 0, bits at_ 6 3, bits at_ 8 7, bits at_ 2 2 == 1,
    bits at_ 53 12 * 4096 + (va - h.base.toNat) / 65536 * 4096, none⟩

/-- The enabled host range that holds the address (R342); of two that overlap, the lower-numbered one. DESIGN CHOICE: log entry
61. -/
def State.hostRange (s : State) (dk x : Nat) : Option Nat :=
  (((s.die dk).regs.filterMap fun r =>
      if 0x0110 ≤ r.1 ∧ r.1 ≤ 0x02F0 ∧ r.1 % 32 = 16 ∧ r.2.getLsbD 0 then some ((r.1 - 0x0110) / 32) else none).find?) fun h =>
    decide (bits (s.dev dk (0x0100 + 32 * h)).toNat 55 12 * 4096 ≤ x) &&
    decide (x < bits (s.dev dk (0x0108 + 32 * h)).toNat 55 12 * 4096)

/-- An access of `n` bytes lies partly in an enabled host range (R342). -/
def State.hostMixed (s : State) (dk va n : Nat) : Bool :=
  s.hostRange dk va != s.hostRange dk (va + n - 1) ||
  ((s.hostRange dk va).isNone && (List.range 16).any fun h =>
    (s.dev dk (0x0110 + 32 * h)).getLsbD 0 &&
    (let lo := bits (s.dev dk (0x0100 + 32 * h)).toNat 55 12 * 4096
     let hi := bits (s.dev dk (0x0108 + 32 * h)).toNat 55 12 * 4096
     decide (lo < hi) && decide (va < hi) && decide (lo < va + n)))

/-- Key of a page of a PASID in the address translation cache. -/
def atcKey (pasid page : Nat) : Nat := pasid * 2 ^ 44 + page

/-- Key of a translation request: the page, and whether the access needs permission to write. -/
def askKey (key : Nat) (w : Bool) : Nat := key + (if w then 2 ^ 64 else 0)

/-- Translation through a host range (R342, R343): permissions, the TDI's state (R441), then the translation cache. A cached
translation that does not grant the access is none. DEDUCED: log entry 35. -/
def State.hostXlat (s : State) (c : Ctx) (h va : Nat) (k : Kind) : XRes :=
  let at_ := (s.dev c.dk (0x0110 + 32 * h)).toNat
  let p := s.pkg (c.dk / 4)
  let key := atcKey (bits at_ 23 4) (va / 4096)
  if k.needsW ∧ bits at_ 1 1 = 0 then .bad 3 3 0
  else if k = .fetch then .bad 3 4 0
  else if !c.priv ∧ bits at_ 2 2 = 0 then .bad 3 5 0
  else if p.tdi = 1 ∨ p.tdi = 3 then .bad 12 5 0
  else
    match Store.find key p.atc with
    | some (hpa, w) =>
      if k.needsW ∧ !w then .ats (askKey key true) else .ok ⟨hpa * 4096 + va % 4096, 4, 0, 0, false, 0, none⟩
    | none => .ats (askKey key k.needsW)

/-- The key under which an access of a kind asks the host for the page of a byte: of a host range, outside the heap window. -/
def State.hostKeyAt (s : State) (c : Ctx) (va : Nat) (k : Kind) : Option Nat :=
  if c.heap.holds va then none
  else (s.hostRange c.dk va).map fun h =>
    askKey (atcKey (bits (s.dev c.dk (0x0110 + 32 * h)).toNat 23 4) (va / 4096)) k.needsW

/-- An access of `n` bytes touches the page with this key, which the host has refused to it: the lowest such byte (R343). -/
def State.refusedAt (s : State) (c : Ctx) (p n : Nat) (k : Kind) (key : Nat) : Option Nat :=
  let va := p % 2 ^ 56
  (va :: (List.range (n / 4096 + 1)).map fun j => (va / 4096 + 1 + j) * 4096).find? fun a =>
    decide (a < va + n) && s.hostKeyAt c a k == some key

/-! ### One byte, one access -/

/-- Where a page that a migration has remapped forwards an access to an address of its source (R345). -/
def State.forwardTo (s : State) (ga : Nat) : Option Nat :=
  s.dies.findSome? fun d =>
    match d.2.mig with
    | some m => if 4 ≤ m.phase ∧ m.src ≤ ga ∧ ga < m.src + m.bytes then some (ga - m.src + m.dst) else none
    | none => none

/-- A place in a page that a migration has remapped: its source forwards the access to the destination (R345); home 5. -/
def State.forward (s : State) (x : Xlat) : Xlat :=
  match s.forwardTo x.ga with
  | some ga => { x with ga := ga, home := 5 }
  | none => x

/-- Translation of byte `va` of an access (R338): steps 2 to 4. A byte past the last virtual address raises code 8. DESIGN
CHOICE: log entry 62. -/
def State.xlatByte (s : State) (c : Ctx) (va : Nat) (k : Kind) : XRes :=
  if 2 ^ 56 ≤ va then .bad 3 8 0
  else if c.heap.holds va then
    match c.heap.xlat va k with
    | .ok x => .ok (s.forward x)
    | r => r
  else
    match s.hostRange c.dk va with
    | some h => s.hostXlat c h va k
    | none =>
      match s.pageXlat c va k with
      | .ok x => if populated x.ga then .ok (s.forward x) else .bad 3 8 0
      | r => r

/-- The lesser of two faults: lowest class, then lowest code (R46). -/
def lesser (a b : Nat × Nat) : Nat × Nat := if b.1 < a.1 ∨ (b.1 = a.1 ∧ b.2 < a.2) then b else a

/-- A translated access: its pieces, one per page touched: first offset in the access, byte count, place. -/
structure Piece where
  off : Nat
  len : Nat
  va : Nat
  x : Xlat
  deriving DecidableEq, Repr

inductive ARes where
  | ok (ps : List Piece)
  | bad (cls code va ga : Nat)
  | ats (page : Nat)
  deriving DecidableEq, Repr

/-- The pieces of `va` to `va + n - 1`, cut at 64 KiB pages (and at 4 KiB pages of host ranges); `f` bounds their number. -/
def State.xlatRange (s : State) (c : Ctx) (k : Kind) (va n off : Nat) : Nat → ARes
  | 0 => .ok []
  | f + 1 =>
    if n = 0 then .ok []
    else
      let here := min n (4096 - va % 4096)
      match s.xlatByte c va k, s.xlatRange c k (va + here) (n - here) (off + here) f with
      | .ok x, .ok ps => .ok (⟨off, here, va, x⟩ :: ps)
      | .bad a b ga, .bad a' b' va' ga' => if lesser (a, b) (a', b') = (a, b) then .bad a b va ga else .bad a' b' va' ga'
      | .bad a b ga, _ => .bad a b va ga
      | _, .bad a b va' ga' => .bad a b va' ga'
      | .ats p, _ => .ats p
      | _, .ats p => .ats p

/-- The translation of an access of `n` bytes through the pointer `p` (R338): pointer bits, heap limit, partial host range,
then byte by byte. -/
def State.xlat (s : State) (c : Ctx) (p n : Nat) (k : Kind) : ARes :=
  let va := p % 2 ^ 56
  if bits p 59 56 ≠ 0 then .bad 3 8 va 0
  else if n = 0 then .ok []
  else if c.heap.holds va ≠ c.heap.holds (va + n - 1) then .bad 3 7 va 0
  else if s.hostMixed c.dk va n ∧ !c.heap.holds va then .bad 3 13 va 0
  else s.xlatRange c k va n 0 (n / 4096 + 2)

/-- The pieces of a range that translate, where others do not. -/
def State.okRange (s : State) (c : Ctx) (k : Kind) (va n off : Nat) : Nat → List Piece
  | 0 => []
  | f + 1 =>
    if n = 0 then []
    else
      let here := min n (4096 - va % 4096)
      let rest := s.okRange c k (va + here) (n - here) (off + here) f
      match s.xlatByte c va k with
      | .ok x => ⟨off, here, va, x⟩ :: rest
      | _ => rest

/-- The pieces of an access that translate, where others do not; none where the pointer or the whole access is refused before
any translation (R338). -/
def State.okPieces (s : State) (c : Ctx) (p n : Nat) (k : Kind) : List Piece :=
  let va := p % 2 ^ 56
  if bits p 59 56 ≠ 0 ∨ c.heap.holds va ≠ c.heap.holds (va + n - 1) ∨
      (s.hostMixed c.dk va n ∧ !c.heap.holds va) then []
  else s.okRange c k va n 0 (n / 4096 + 2)

/-- The marks of the walker put into the page tables: A and D are set, never cleared (R335). -/
def State.mark (s : State) (ps : List Piece) : State :=
  ps.foldl (fun s p =>
    match p.x.mark with
    | some (e, v) => s.wrN e 8 (s.rdN e 8 ||| (v &&& 0x60))
    | none => s) s

/-- The pointer's tag against the tags of the granules that a piece touches (R210). -/
def State.tagOk (s : State) (tag : Nat) (p : Piece) : Bool :=
  !p.x.tagen || gaRegion p.x.ga != 0 ||
  (List.range ((p.x.ga % 32 + p.len + 31) / 32)).all fun j => (s.tagAt (p.x.ga / 32 + j)).toNat == tag

end Sys2Proof.Machine
end

