-- ==== Sys2Proof/Machine/Caches.lean ====
section
/-! DEFINITION. Copies of DRAM lines inside packages (R406): which caches hold a line and in which state, what DRAM holds of a line
that a cache holds dirty, and the two values of a granule that a No Snoop write of the host has left (R439). The value that
coherent accesses return stands in the one memory of the gallery; a copy carries a state only. -/

namespace Sys2Proof.Machine

/-- The caches that hold copies: the L1 of a core, the L2 of a die. -/
def l1Unit (dk core : Nat) : Nat := coreKey dk core
def l2Unit (dk : Nat) : Nat := 2 ^ 19 + dk

/-- Die of a cache. -/
def unitDie (u : Nat) : Nat := if u < 2 ^ 19 then u / 96 else u - 2 ^ 19

/-- Key of what a cache holds of a line. -/
def innerKey (line u : Nat) : Nat := line * 2 ^ 20 + u

/-- State of a cache's copy of a line, by the codes of Table 13-1; 0 where it holds none. -/
def State.copyAt (s : State) (line u : Nat) : Nat := Store.get (fun _ => 0) s.inner (innerKey line u)

def State.setCopy (s : State) (line u st : Nat) : State :=
  { s with inner := Store.put (fun _ => 0) (innerKey line u) st s.inner }

/-- A dirty state: O or M. -/
def dirtyState (st : Nat) : Bool := st == 3 || st == 4

/-- Some cache that `p` picks holds the line, or holds it dirty. -/
def State.copied (s : State) (line : Nat) (p : Nat → Bool) : Bool :=
  s.inner.any fun e => e.1 / 2 ^ 20 == line && p (e.1 % 2 ^ 20)
def State.dirtyIn (s : State) (line : Nat) (p : Nat → Bool) : Bool :=
  s.inner.any fun e => e.1 / 2 ^ 20 == line && dirtyState e.2 && p (e.1 % 2 ^ 20)

/-- The copies of a line in the caches that `p` picks are gone; of those, the clean ones alone. -/
def State.dropInner (s : State) (line : Nat) (p : Nat → Bool) : State :=
  { s with inner := s.inner.filter fun e => !(e.1 / 2 ^ 20 == line && p (e.1 % 2 ^ 20)) }
def State.dropClean (s : State) (line : Nat) (p : Nat → Bool) : State :=
  { s with inner := s.inner.filter fun e => !(e.1 / 2 ^ 20 == line && !dirtyState e.2 && p (e.1 % 2 ^ 20)) }

/-- A byte of DRAM, whatever the caches hold. -/
def State.dramByte (s : State) (ga : Nat) : Byte :=
  match Store.find (ga / 16) s.snoop with
  | some (false, other) => (other[ga % 16]?).getD 0
  | some (true, _) => s.byte ga
  | none =>
    match Store.find (ga / 16) s.lag with
    | some old => (old[ga % 16]?).getD 0
    | none => s.byte ga

/-- Bytes as DRAM holds them, past the caches (R439). -/
def State.dramBytes (s : State) (ga n : Nat) : List Byte := (List.range n).map fun i => s.dramByte (ga + i)

/-- Of the two values of the granules of a line written with No Snoop, that of DRAM stays; or that of the caches, when they
write the line back. -/
def State.settleWith (s : State) (line : Nat) (dramStays : Bool) : State :=
  (List.range 8).foldl (fun s j =>
    let g := line * 8 + j
    match Store.find g s.snoop with
    | some (dram, other) =>
      { (if dram = dramStays then s else s.setBytes (g * 16) other) with snoop := Store.erase g s.snoop }
    | none => s) s

/-- DRAM holds another value than the caches do, or than a return on its way brings. -/
def State.stale (s : State) (line : Nat) : Bool := s.lag.any fun e => e.1 / 8 == line

/-- DRAM holds what the caches hold of a line. -/
def State.writtenHome (s : State) (line : Nat) : State :=
  { s.settleWith line false with lag := s.lag.filter fun e => e.1 / 8 != line }

/-- The dirty copy of a line in the caches that `p` picks is written back to its home and stays, clean (R206); the home's record
of a remote holder stays as it is. DESIGN CHOICE: log entry 81. -/
def State.writeBack (s : State) (line : Nat) (p : Nat → Bool) : State :=
  if s.dirtyIn line p then
    { s.writtenHome line with inner := s.inner.map fun (e : Nat × Nat) =>
        if e.1 / 2 ^ 20 = line ∧ p (e.1 % 2 ^ 20) then (e.1, if e.2 = 4 then 2 else if e.2 = 3 then 1 else e.2) else e }
  else s

/-- Every copy of a line is in S, what was held dirty written back to its home. -/
def State.shareAll (s : State) (line : Nat) : State :=
  let s := if s.stale line || s.dirtyIn line fun _ => true then s.writtenHome line else s
  { s with inner := s.inner.map fun (e : Nat × Nat) => if e.1 / 2 ^ 20 = line then (e.1, 1) else e }

/-- No cache holds the line any more: DRAM holds its only value. -/
def State.uncached (s : State) (line : Nat) : State :=
  let s := if s.stale line || s.dirtyIn line fun _ => true then s.writtenHome line else s.settleWith line true
  s.dropInner line fun _ => true

/-- A store of a core to a cached line: its L1 holds the line alone, dirty; what DRAM holds of the granule stays behind. -/
def State.dirtied (s : State) (dk core ga : Nat) : State :=
  if gaRegion ga ≠ 0 then s
  else
    let line := ga / 128
    let g := ga / 16
    let s := (s.dropInner line (· != l1Unit dk core)).setCopy line (l1Unit dk core) 4
    if (Store.find g s.snoop).isSome ∨ (Store.find g s.lag).isSome then s
    else { s with lag := Store.ins g (s.bytes (g * 16) 16) s.lag }

/-- A copy passes from the L1 of a core to the L2 of its die, in the state that it holds (R482). -/
def State.spill (s : State) (line u : Nat) : State :=
  let st := s.copyAt line u
  let l2 := l2Unit (unitDie u)
  if 2 ^ 19 ≤ u ∨ st = 0 then s else (s.setCopy line u 0).setCopy line l2 (max st (s.copyAt line l2))

/-- The dirty L1 copies of a die pass to its L2 (R369, R482). -/
def State.drainL1 (s : State) (dk : Nat) : State :=
  (s.inner.filter fun e => dirtyState e.2 && decide (e.1 % 2 ^ 20 < 2 ^ 19) && unitDie (e.1 % 2 ^ 20) == dk).foldl
    (fun s e => s.spill (e.1 / 2 ^ 20) (e.1 % 2 ^ 20)) s

/-- A store is about to change the value that the caches hold of a granule written with No Snoop: DRAM keeps its own (R439). -/
def State.snoopStore (s : State) (ga : Nat) : State :=
  match Store.find (ga / 16) s.snoop with
  | some (true, cached) =>
    { s.setBytes (ga / 16 * 16) cached with snoop := Store.ins (ga / 16) (false, s.bytes (ga / 16 * 16) 16) s.snoop }
  | _ => s

/-- The copies of a line inside its home package are in S, what they held dirty written back; or they are gone (R406, R410). -/
def State.homeShared (s : State) (line : Nat) : State :=
  let mine := fun (u : Nat) => unitDie u / 4 == gaPkg (line * 128)
  let s := s.writeBack line mine
  { s with inner := s.inner.map fun (e : Nat × Nat) => if e.1 / 2 ^ 20 = line ∧ mine (e.1 % 2 ^ 20) then (e.1, 1) else e }
def State.homeDropped (s : State) (line : Nat) : State :=
  let mine := fun (u : Nat) => unitDie u / 4 == gaPkg (line * 128)
  (s.writeBack line mine).dropInner line mine

end Sys2Proof.Machine
end

