-- ==== Sys2Proof/Machine/Formats.lean ====
section
/-! DEFINITION. The number formats and their exactness (R96 to R123): IEEE binary formats, the tapered formats T8 and T6,
the block scale E8, the 4-bit weights, conversions, the exact dot product and the fixed combining tree. A finite number is
held exactly as a sign, a magnitude and a power of two. -/

namespace Sys2Proof.Machine

/-- An exact value: NaN, an infinity, or `m × 2^e` with a sign (a zero keeps its sign). -/
inductive Val where
  | nan
  | inf (neg : Bool)
  | fin (neg : Bool) (m : Nat) (e : Int)
  deriving DecidableEq, Repr

/-- An IEEE binary format: `eb` exponent bits and `mb` fraction bits (Table 3-2). -/
structure Fp where
  eb : Nat
  mb : Nat
  deriving DecidableEq, Repr

def f64 : Fp := ⟨11, 52⟩
def f32 : Fp := ⟨8, 23⟩
def f16 : Fp := ⟨5, 10⟩
def bf16 : Fp := ⟨8, 7⟩

namespace Fp
variable (f : Fp)
/-- Bias of the exponent field. -/
def bias : Int := 2 ^ (f.eb - 1) - 1
/-- The power of two of the last place of a subnormal. -/
def qmin : Int := 1 - f.bias - f.mb
/-- The bits of +Inf. -/
def infBits : Nat := (2 ^ f.eb - 1) * 2 ^ f.mb
/-- The sign bit. -/
def signBit : Nat := 2 ^ (f.eb + f.mb)
/-- The canonical NaN (Table 3-2). -/
def nanBits : Nat := f.infBits + 2 ^ (f.mb - 1)
/-- The bits of 1.0. -/
def oneBits : Nat := (2 ^ (f.eb - 1) - 1) * 2 ^ f.mb

/-- The exact value of the bits `x` (R98). -/
def dec (x : Nat) : Val :=
  let neg := x / f.signBit % 2 == 1
  let ex := x / 2 ^ f.mb % 2 ^ f.eb
  let fr := x % 2 ^ f.mb
  if ex = 2 ^ f.eb - 1 then (if fr = 0 then .inf neg else .nan)
  else if ex = 0 then .fin neg fr f.qmin
  else .fin neg (2 ^ f.mb + fr) (f.qmin + (ex : Int) - 1)

/-- The signed bits: the sign bit over a magnitude. -/
def signed (neg : Bool) (mag : Nat) : Nat := if neg then f.signBit + mag else mag

/-- A magnitude above the largest finite one, by the rounding mode (R100). -/
def overflow (rm : BitVec 2) (neg : Bool) : Nat :=
  let toInf := rm == 0#2 || (rm == 2#2 && !neg) || (rm == 3#2 && neg)
  f.signed neg (if toInf then f.infBits else f.infBits - 1)

/-- `m × 2^e` rounded once by the mode (Table 3-3: 0 rn, 1 rz, 2 rp, 3 rm). -/
def round (rm : BitVec 2) (neg : Bool) (m : Nat) (e : Int) : Nat :=
  if m = 0 then f.signed neg 0
  else
    let q := max (e + (Nat.log2 m : Int) - f.mb) f.qmin
    let sh := (q - e).toNat
    let sig := if q ≤ e then m * 2 ^ (e - q).toNat else m / 2 ^ sh
    let rest := if q ≤ e then 0 else m % 2 ^ sh
    let twice := 2 * rest
    let unit := if q ≤ e then 1 else 2 ^ sh
    let up := match rm with
      | 0#2 => decide (unit < twice) || (decide (twice = unit) && sig % 2 == 1)
      | 1#2 => false
      | 2#2 => !neg && rest != 0
      | _ => neg && rest != 0
    let bits := (q - f.qmin).toNat * 2 ^ f.mb + sig + (if up then 1 else 0)
    if f.infBits ≤ bits then f.overflow rm neg else f.signed neg bits

/-- The bits of a result: the canonical NaN, an infinity, or the rounded value (R100, R101). -/
def enc (rm : BitVec 2) : Val → Nat
  | .nan => f.nanBits
  | .inf neg => f.signed neg f.infBits
  | .fin neg m e => f.round rm neg m e

/-- The clamp of `.sat` to [+0, 1.0] after the rounding (R104). -/
def sat (bits : Nat) : Nat :=
  if f.signBit ≤ bits then 0
  else if f.infBits < bits then 0
  else if f.oneBits < bits then f.oneBits
  else bits

/-- Round, then clamp where the modifier asks: class F, M[1:0] the mode, M[2] `.sat` (Table 2-2). -/
def encM (m : BitVec 3) (v : Val) : Nat :=
  let r := f.enc (m.extractLsb' 0 2) v
  if m.getLsbD 2 then f.sat r else r
end Fp

namespace Val

/-- The value is a zero of either sign. -/
def isZero : Val → Bool
  | fin _ m _ => m == 0
  | _ => false

/-- The sign: true when negative (false for NaN). -/
def neg : Val → Bool
  | nan => false
  | inf n => n
  | fin n _ _ => n

/-- The negated value. -/
def opp : Val → Val
  | nan => nan
  | inf n => inf !n
  | fin n m e => fin (!n) m e

/-- The finite value as an integer count of `2^e`, for an `e` at or below its own. -/
def scaled (n : Bool) (m : Nat) (e0 e : Int) : Int :=
  let x : Int := (m * 2 ^ (e0 - e).toNat : Nat)
  if n then -x else x

/-- The exact sum; the sign of a zero sum by the rounding mode (R101). -/
def add (rm : BitVec 2) : Val → Val → Val
  | nan, _ => nan
  | _, nan => nan
  | inf a, inf b => if a == b then inf a else nan
  | inf a, fin _ _ _ => inf a
  | fin _ _ _, inf b => inf b
  | fin a m e, fin b n f =>
    if m = 0 ∧ n = 0 ∧ a = b then fin a 0 0
    else
      let q := min e f
      let t := scaled a m e q + scaled b n f q
      if t = 0 then fin (rm == 3#2) 0 0 else fin (decide (t < 0)) t.natAbs q

/-- The exact product. -/
def mul : Val → Val → Val
  | nan, _ => nan
  | _, nan => nan
  | inf a, inf b => inf (a != b)
  | inf a, fin b n _ => if n = 0 then nan else inf (a != b)
  | fin a m _, inf b => if m = 0 then nan else inf (a != b)
  | fin a m e, fin b n f => fin (a != b) (m * n) (e + f)

/-- The exact a × b + d of a fused multiply-accumulate (R100). -/
def fma (rm : BitVec 2) (a b d : Val) : Val := add rm (mul a b) d

/-- Numeric order of two values, `none` when unordered; −0 equals +0 (R103). -/
def cmp : Val → Val → Option Ordering
  | nan, _ => none
  | _, nan => none
  | inf a, inf b => some (if a = b then .eq else if a then .lt else .gt)
  | inf a, fin _ _ _ => some (if a then .lt else .gt)
  | fin _ _ _, inf b => some (if b then .gt else .lt)
  | fin a m e, fin b n f =>
    let q := min e f
    let x := scaled a m e q
    let y := scaled b n f q
    some (if x < y then .lt else if x = y then .eq else .gt)

/-- A finite value rounded to an integer by the mode (R116). -/
def toInt (rm : BitVec 2) (neg : Bool) (m : Nat) (e : Int) : Int :=
  let sh := (-e).toNat
  let unit := 2 ^ sh
  let whole := if 0 ≤ e then m * 2 ^ e.toNat else m / unit
  let rest := if 0 ≤ e then 0 else m % unit
  let up := match rm with
    | 0#2 => decide (unit < 2 * rest) || (decide (2 * rest = unit) && whole % 2 == 1)
    | 1#2 => false
    | 2#2 => !neg && rest != 0
    | _ => neg && rest != 0
  let w : Int := ((whole + if up then 1 else 0 : Nat) : Int)
  if neg then -w else w

end Val

/-- The integer as an exact value. -/
def Val.ofInt (x : Int) : Val := .fin (decide (x < 0)) x.natAbs 0

/-- Floating-point condition of class C-flt (Table 3-4): 0 eq, 1 ne, 2 lt, 3 le, 4 un, 5 ord. -/
def fltCond (m : BitVec 3) (o : Option Ordering) : Bool :=
  match m with
  | 0#3 => o == some .eq
  | 1#3 => o != some .eq
  | 2#3 => o == some .lt
  | 3#3 => o == some .lt || o == some .eq
  | 4#3 => o == none
  | _ => o != none

/-- minimumNumber and maximumNumber (R102): one of the operands, or the canonical NaN; −0 is below +0. -/
def Fp.minmax (f : Fp) (isMax : Bool) (a b : Nat) : Nat :=
  match f.dec a, f.dec b with
  | .nan, .nan => f.nanBits
  | .nan, _ => b
  | _, .nan => a
  | x, y =>
    let below := match Val.cmp x y with
      | some .lt => true
      | some .eq => x.neg || !y.neg
      | _ => false
    if below then (if isMax then b else a) else (if isMax then a else b)

/-! ### Tapered formats (R105 to R108) -/

/-- A tapered format: its width and its exponent bits. -/
structure Taper where
  n : Nat
  es : Nat
  deriving DecidableEq, Repr

def t8 : Taper := ⟨8, 1⟩
def t6 : Taper := ⟨6, 0⟩

namespace Taper
/-- Number of bits equal to `b` from bit `i - 1` of `x` downward. -/
def run (b : Bool) (x : Nat) : Nat → Nat
  | 0 => 0
  | i + 1 => if x.testBit i == b then run b x i + 1 else 0

/-- The value of a positive code (R105). -/
def decPos (t : Taper) (x : Nat) : Nat × Int :=
  let b := x.testBit (t.n - 2)
  let m := run b x (t.n - 1)
  let k : Int := if b then (m : Int) - 1 else -m
  let left := t.n - 1 - m - 1
  let rest := x % 2 ^ left
  let eb := min t.es left
  let fb := left - eb
  let e := (rest / 2 ^ fb) * 2 ^ (t.es - eb)
  (2 ^ fb + rest % 2 ^ fb, k * 2 ^ t.es + e - fb)

/-- The value of a code (R105): zero, NaR as NaN, or the decoded number. -/
def dec (t : Taper) (x : Nat) : Val :=
  let x := x % 2 ^ t.n
  if x = 0 then .fin false 0 0
  else if x = 2 ^ (t.n - 1) then .nan
  else if x.testBit (t.n - 1) then let p := t.decPos (2 ^ t.n - x); .fin true p.1 p.2
  else let p := t.decPos x; .fin false p.1 p.2

/-- `m × 2^e` compared with the value of the positive code `c`. -/
def le (t : Taper) (c : Nat) (m : Nat) (e : Int) : Bool :=
  let p := t.decPos c
  let q := min e p.2
  decide (p.1 * 2 ^ (p.2 - q).toNat ≤ m * 2 ^ (e - q).toNat)

/-- The greatest positive code whose value is at most `m × 2^e`, found bit by bit below bit `i`. -/
def floorCode (t : Taper) (m : Nat) (e : Int) (c : Nat) : Nat → Nat
  | 0 => c
  | i + 1 => floorCode t m e (if t.le (c + 2 ^ i) m e then c + 2 ^ i else c) i

/-- The positive code of a positive magnitude, by the rounding mode (R108 steps 4 and 5). -/
def encMag (t : Taper) (rm : BitVec 2) (neg : Bool) (m : Nat) (e : Int) : Nat :=
  let top := 2 ^ (t.n - 1) - 1
  let c := t.floorCode m e 0 (t.n - 1)
  if c = 0 then 1
  else if c = top then top
  else
    let p := t.decPos c
    let r := t.decPos (c + 1)
    let q := min e (min p.2 r.2)
    let x := m * 2 ^ (e - q).toNat
    let lo := p.1 * 2 ^ (p.2 - q).toNat
    let hi := r.1 * 2 ^ (r.2 - q).toNat
    if x = lo then c
    else
      let up := match rm with
        | 0#2 => decide (lo + hi < 2 * x) || (decide (2 * x = lo + hi) && c % 2 == 1)
        | 1#2 => false
        | 2#2 => !neg
        | _ => neg
      if up then c + 1 else c

/-- The code of a value (R108), clamped in exact arithmetic first where `.sat` is given. -/
def enc (t : Taper) (rm : BitVec 2) (sat : Bool) (v : Val) : Nat :=
  let v := if sat then
      match v with
      | .nan => Val.fin false 0 0
      | v => if v.neg then Val.fin false 0 0
        else if Val.cmp v (.fin false 1 0) == some .gt then Val.fin false 1 0 else v
    else v
  match v with
  | .nan => 2 ^ (t.n - 1)
  | .inf _ => 2 ^ (t.n - 1)
  | .fin neg m e =>
    if m = 0 then 0
    else
      let c := t.encMag rm neg m e
      if neg then 2 ^ t.n - c else c
end Taper

/-! ### E8 scales and I4 weights (R109 to R111) -/

/-- The value of an E8 code. -/
def e8Dec (x : Nat) : Val :=
  let x := x % 256
  if x = 255 then .nan else .fin false 1 ((x : Int) - 127)

/-- The E8 code of a value (R110). -/
def e8Enc (rm : BitVec 2) : Val → Nat
  | .nan => 255
  | .inf _ => 255
  | .fin _ m e =>
    if m = 0 then 0
    else
      let l := Nat.log2 m
      let p : Int := e + l
      let up := if m = 2 ^ l then false
        else match rm with
          | 0#2 => decide (3 * 2 ^ l ≤ 2 * m)
          | 2#2 => true
          | _ => false
      let x := if up then p + 1 else p
      (max (-127) (min 127 x) + 127).toNat

/-- The bf16 expansion of an I4 element: (q − z) × s rounded once (R111); of q = z the zero is +0. DESIGN CHOICE: log entry 76. -/
def i4Expand (q : Int) (z : Int) (s : Nat) : Nat :=
  bf16.enc 0#2 (Val.mul (Val.ofInt (q - z)) (bf16.dec s))

/-! ### Integers (R96, R97) -/

/-- The least and the greatest value of an integer type. -/
def intMin (n : Nat) (uns : Bool) : Int := if uns then 0 else -(2 ^ (n - 1))
def intMax (n : Nat) (uns : Bool) : Int := if uns then 2 ^ n - 1 else 2 ^ (n - 1) - 1

/-- The exact result clamped to the type, or reduced modulo 2^n (R96). -/
def intFit (n : Nat) (uns sat : Bool) (x : Int) : BitVec n :=
  if sat then BitVec.ofInt n (max (intMin n uns) (min (intMax n uns) x)) else BitVec.ofInt n x

/-- The bits read as a value of the type. -/
def intOf {n : Nat} (uns : Bool) (x : BitVec n) : Int := if uns then (x.toNat : Int) else x.toInt

/-- `div` (Table 3-1). -/
def intDiv (n : Nat) (uns sat : Bool) (a b : Int) : BitVec n :=
  if b = 0 then
    if uns then BitVec.ofInt n (intMax n true)
    else if sat then BitVec.ofInt n (if 0 ≤ a then intMax n false else intMin n false)
    else BitVec.ofInt n (-1)
  else intFit n uns sat (Int.tdiv a b)

/-- `rem` (Table 3-1). -/
def intRem (n : Nat) (a b : Int) : BitVec n :=
  if b = 0 then BitVec.ofInt n a else BitVec.ofInt n (Int.tmod a b)

/-- Integer condition of class C-int: 0 eq, 1 ne, 2 lt s, 3 le s, 4 lt n, 5 le n. -/
def intCond {n : Nat} (m : BitVec 3) (a b : BitVec n) : Bool :=
  match m with
  | 0#3 => a == b
  | 1#3 => a != b
  | 2#3 => a.slt b
  | 3#3 => a.sle b
  | 4#3 => a.ult b
  | _ => a.ule b

/-! ### Conversions (R115 to R117) -/

/-- A conversion source at its exact value; the row of Table 3-11 is chosen by the type, not the value. -/
inductive Src where
  | int (x : Int)
  | flt (v : Val)
  deriving DecidableEq, Repr

/-- The source of type code `c` (Table 2-8), read from the low bits of `x` (Table 3-10). -/
def cvtSrc (c : Nat) (x : BitVec 64) : Src :=
  match c with
  | 0 => .int (x.extractLsb' 0 8).toInt
  | 1 => .int (x.extractLsb' 0 16).toInt
  | 2 => .int (x.extractLsb' 0 32).toInt
  | 3 => .int x.toInt
  | 4 => .int (x.extractLsb' 0 8).toNat
  | 5 => .int (x.extractLsb' 0 16).toNat
  | 6 => .int (x.extractLsb' 0 32).toNat
  | 7 => .int x.toNat
  | 8 => .flt (f64.dec x.toNat)
  | 9 => .flt (f32.dec (x.extractLsb' 0 32).toNat)
  | 10 => .flt (f16.dec (x.extractLsb' 0 16).toNat)
  | 11 => .flt (bf16.dec (x.extractLsb' 0 16).toNat)
  | 12 => .flt (t8.dec (x.extractLsb' 0 8).toNat)
  | 13 => .flt (t6.dec (x.extractLsb' 0 6).toNat)
  | 14 => .flt (e8Dec (x.extractLsb' 0 8).toNat)
  | _ => .int (x.extractLsb' 0 4).toInt

/-- The source's exact value. -/
def Src.val : Src → Val
  | .int x => Val.ofInt x
  | .flt v => v

/-- Conversion to an IEEE format (Table 3-11); an integer zero is +0. -/
def cvtFloat (f : Fp) (m : BitVec 3) (s : Src) : Nat := f.encM m s.val

/-- Conversion to an integer type of `n` bits (Table 3-11), as the value modulo 2^64 extended by its type (Table 3-10). -/
def cvtInt (n : Nat) (uns : Bool) (m : BitVec 3) (s : Src) : BitVec 64 :=
  let r : BitVec n := match s with
    | .int x => intFit n uns (m.getLsbD 2) x
    | .flt .nan => 0
    | .flt (.inf neg) => BitVec.ofInt n (if neg then intMin n uns else intMax n uns)
    | .flt (.fin neg k e) => intFit n uns true (Val.toInt (m.extractLsb' 0 2) neg k e)
  if uns then r.zeroExtend 64 else r.signExtend 64

/-- Conversion to t8 (0), t6 (1) or e8 (2) (R108, R110). -/
def cvtNarrow (d : Nat) (m : BitVec 3) (s : Src) : Nat :=
  match d with
  | 0 => t8.enc (m.extractLsb' 0 2) (m.getLsbD 2) s.val
  | 1 => t6.enc (m.extractLsb' 0 2) (m.getLsbD 2) s.val
  | _ => e8Enc (m.extractLsb' 0 2) s.val

/-! ### The exact dot product and the combining tree (R118 to R123) -/

/-- C and the exact terms summed without rounding, then rounded once to f32 (R118, R119). -/
def dotRound (c : Val) (terms : List Val) : Nat := f32.enc 0#2 (terms.foldl (Val.add 0#2) c)

/-- One level of the tree of R121: neighbours combined, a lone child passed up. -/
def treeLevel {α : Type} (op : α → α → α) : List (Option α) → List (Option α)
  | [] => []
  | [x] => [x]
  | x :: y :: t =>
    (match x, y with
      | some a, some b => some (op a b)
      | some a, none => some a
      | none, y => y) :: treeLevel op t

/-- The root of the tree over the positions of the list; `n` levels. -/
def treeRoot {α : Type} (op : α → α → α) : Nat → List (Option α) → Option α
  | 0, l => l.headD none
  | n + 1, l => treeRoot op n (treeLevel op l)

/-- Node operation of Table 3-12. -/
def redOp (m : BitVec 3) (a b : Word) : Word :=
  match m with
  | 0#3 => a + b
  | 1#3 => BitVec.ofNat 32 (f32.enc 0#2 (Val.add 0#2 (f32.dec a.toNat) (f32.dec b.toNat)))
  | 2#3 => if a.slt b then a else b
  | 3#3 => if a.slt b then b else a
  | 4#3 => BitVec.ofNat 32 (f32.minmax false a.toNat b.toNat)
  | 5#3 => BitVec.ofNat 32 (f32.minmax true a.toNat b.toNat)
  | 6#3 => a &&& b
  | _ => a ||| b

/-- Identity of Table 3-12. -/
def redIdentity (m : BitVec 3) : Word :=
  match m with
  | 0#3 => 0#32
  | 1#3 => 0#32
  | 2#3 => 0x7FFFFFFF#32
  | 3#3 => 0x80000000#32
  | 4#3 => 0x7FC00000#32
  | 5#3 => 0x7FC00000#32
  | 6#3 => 0xFFFFFFFF#32
  | _ => 0#32

/-! ### Elements in memory (Table 6-5, R112, R189) -/

/-- Bytes moved by a format (Table 6-5). -/
def fmtBytes (f : Nat) : Nat :=
  match f with
  | 3 => 8
  | 4 => 6
  | 5 => 8
  | 6 => 6
  | 7 => 4
  | _ => 16

/-- Width in bits of an element in memory. -/
def fmtBits (f : Nat) : Nat := fmtBytes f

/-- The register element of an element read (Out of R189). -/
def fmtOut (f e : Nat) : Nat :=
  match f with
  | 3 => bf16.enc 0#2 (t8.dec e)
  | 5 => bf16.enc 0#2 (t8.dec e)
  | 4 => bf16.enc 0#2 (t6.dec e)
  | 6 => bf16.enc 0#2 (t6.dec e)
  | 7 => bf16.enc 0#2 (Val.ofInt (BitVec.ofNat 4 e).toInt)
  | _ => e

/-- An integer from -8 to 7 for a bf16 element: ties to even, clamped, 0 for a NaN (Table 6-5). -/
def i4Enc (v : Val) : Nat :=
  match v with
  | .nan => 0
  | .inf n => if n then 8 else 7
  | .fin n m e => (BitVec.ofInt 4 (max (-8) (min 7 (Val.toInt 0#2 n m e)))).toNat

/-- The element stored for a register element (In of R189). -/
def fmtIn (f e : Nat) : Nat :=
  match f with
  | 3 => t8.enc 0#2 false (bf16.dec e)
  | 5 => t8.enc 0#2 false (bf16.dec e)
  | 4 => t6.enc 0#2 false (bf16.dec e)
  | 6 => t6.enc 0#2 false (bf16.dec e)
  | 7 => i4Enc (bf16.dec e)
  | _ => e

/-- Elements 0 to 7 of a value unpacked into the 128-bit register image (R112, R189). -/
def unpackFmt (f v : Nat) : Nat :=
  (List.range 8).foldl (fun r j => r + fmtOut f (v / 2 ^ (fmtBits f * j) % 2 ^ fmtBits f) % 2 ^ 16 * 2 ^ (16 * j)) 0

/-- The 128-bit register image packed into the elements of a format. -/
def packFmt (f v : Nat) : Nat :=
  (List.range 8).foldl (fun r j => r + fmtIn f (v / 2 ^ (16 * j) % 2 ^ 16) % 2 ^ fmtBits f * 2 ^ (fmtBits f * j)) 0

end Sys2Proof.Machine
end

