-- ==== Sys2Proof/Machine/Order.lean ====
section
/-! DEFINITION. The memory model (R286 to R316): stores that a group has executed and that are not performed yet, loads and atomics
of which pieces are still to be performed, older values that between-die reads may return, the release tags of bytes, and what
fences, acquires and releases do to them within their scopes. What is held back is performed by a turn of its own, or where an
order or another agent's access to its line asks for it. DESIGN CHOICE: log entry 9. -/

namespace Sys2Proof.Machine

/-! ### Bytes written -/

/-- GID of the entry of a die's collective table whose TABTAG holds bytes of the range (Table 12-5). -/
def State.tabEntry (s : State) (dk ga n : Nat) : Option Nat :=
  let at_ := bits (s.dev dk 0x0300).toNat 53 12 * 4096
  let g := (ga - at_) / 16
  if at_ ≤ ga ∧ g < bits (s.dev dk 0x0308).toNat 12 0 ∧ (ga - at_) % 16 + n > 12 then some g else none

/-- Bytes stored in a collective table: where an entry's TABTAG differs from the one before, the cores of its die count their
issues of that GID anew (R397), and what an instance of the former registration found of its members is forgotten (R400). -/
def State.tabWrite (s : State) (ga : Nat) (bs : List Byte) : State :=
  s.dies.foldl (fun s d =>
    match s.tabEntry d.1 ga bs.length with
    | some g =>
      let tag := bits (s.dev d.1 0x0300).toNat 53 12 * 4096 + 16 * g + 12
      if (s.setBytes ga bs).bytes tag 4 = s.bytes tag 4 then s
      else
        { s with
          lostRegs := s.lostRegs.filter fun r => !(r.1 == g && r.2.1.toNat == s.rdN tag 4)
          cores := s.cores.map fun (c : Nat × Core) =>
            if c.1 / 96 = d.1 then (c.1, { c.2 with counts := c.2.counts.filter fun e => e.1 != g }) else c }
    | none => s) s

/-- The release tags of bytes that are read. -/
def State.tagsAt (s : State) (ga n : Nat) : List Rel :=
  if s.rels.isEmpty then [] else ((List.range n).flatMap fun j => Store.get (fun _ => []) s.rels (ga + j)).eraseDups

/-- Bytes of memory written within one granule. -/
def State.memWrite (s : State) (ga : Nat) (bs : List Byte) (tags : List Rel) : State :=
  ((((s.tabWrite ga bs).ownBlock ga).snoopStore ga).setBytes ga bs).tagWrite ga bs.length tags

/-! ### Scopes (R294, R295) -/

/-- `q` belongs to `p`'s instance of a scope (Tables 0-4, 9-1). -/
def State.reaches (s : State) (p q : Agent) (sc : Nat) : Bool :=
  match sc with
  | 0 => p.key == q.key
  | 1 => p.tid == q.tid
  | 2 => p.dk == q.dk && !p.chiplet && !q.chiplet
  | 3 => p.dk / 4 == q.dk / 4
  | 4 => p.dk / 4 == q.dk / 4 || (s.galId p.dk).2 == (s.galId q.dk).2
  | _ => true

/-- A release of `p` at one scope and an acquire of `q` at another synchronise. -/
def State.matched (s : State) (p q : Agent) (sp sq : Nat) : Bool := s.reaches p q sp && s.reaches q p sq

/-- A release synchronises with an acquire of `q` at a scope. -/
def State.tagMeets (s : State) (r : Rel) (q : Agent) (sc : Nat) : Bool :=
  if r.agent.key = hostAgent.key then sc == 6
  else if r.whole then s.reaches r.agent q r.sc
  else s.matched r.agent q r.sc sc

/-- An access of a group at a scope to a byte is a within-die access (R303). -/
def Group.within (g : Group) (sc ga : Nat) : Bool := decide (2 ≤ sc) && gaDie ga == g.dk

/-! ### Stores that are not performed -/

/-- Two ranges share a byte. -/
def meets (a n b m : Nat) : Bool := decide (a < b + m) && decide (b < a + n)

def Pend.meets (p : Pend) (ga n : Nat) : Bool := Machine.meets p.ga p.bytes.length ga n

/-- A lane's read with the number and the order of its instruction sees the store: it is the lane's own, or an order stands
between them. -/
def Pend.visible (p : Pend) (id epoch lane : Nat) : Bool :=
  decide (p.id < id) && (p.lane == lane || decide (p.epoch < epoch) || p.code)

/-- An access of a lane to a granule: it forgets what the lane has seen of it before, and what other lanes have seen of it is no
longer to be returned past an order. -/
def MemOrder.touch (m : MemOrder) (lane g16 : Nat) : MemOrder :=
  if m.seen.isEmpty then m
  else { m with seen := (m.seen.filter fun e => !(e.lane == lane && e.g16 == g16)).map fun e =>
    if e.g16 = g16 then { e with touched := true } else e }

/-- A read of a lane: the stores of its own that it meets are noted as read. -/
def MemOrder.read (m : MemOrder) (lane ga n : Nat) : MemOrder :=
  let m := m.touch lane (ga / 16)
  if m.pend.isEmpty then m
  else { m with pend := m.pend.map fun p => if p.lane = lane ∧ p.meets ga n then { p with back := true } else p }

/-- Every later access follows the stores that `f` picks (R138): nothing older of their granules is returned any more. -/
def MemOrder.ordered (m : MemOrder) (f : Pend → Bool) : MemOrder :=
  if m.pend.isEmpty then m
  else { m with pend := m.pend.map fun p => if f p then { p with code := true } else p
                seen := m.seen.filter fun e => !(m.pend.any fun p => f p && p.ga / 16 == e.g16) }

/-- A store of a group performed. -/
def State.performPend (s : State) (g : Group) (p : Pend) : State :=
  let s := (s.dirtied g.dk g.core p.ga).memWrite p.ga p.bytes p.tags
  if p.full then s.setFull (p.ga / 16) true else s

/-- Stores of a group performed in the order given; `rest` are not performed yet. -/
def State.performAll (s : State) (k : Nat) (ps rest : List Pend) : State :=
  let s := ps.foldl (fun s p => s.performPend (s.group k) p) s
  let g := s.group k
  s.setGroup k { g with mo := ps.foldl (fun m p => m.touch p.lane (p.ga / 16)) { g.mo with pend := rest } }

/-- The first `n` stores of a group that are not performed are. -/
def State.drainTo (s : State) (k n : Nat) : State :=
  let ps := (s.group k).mo.pend
  if ps.isEmpty ∨ n = 0 then s else s.performAll k (ps.take n) (ps.drop n)

/-- Every store of a group is performed. -/
def State.drain (s : State) (k : Nat) : State := s.drainTo k (s.group k).mo.pend.length

/-- One more than the place of the last element that `p` picks; 0 where there is none. -/
def lastOf {α : Type} (p : α → Bool) : List α → Nat
  | [] => 0
  | a :: t =>
    match lastOf p t with
    | 0 => if p a then 1 else 0
    | n + 1 => n + 2

/-- The stores of every group that `p` picks are performed, with those before them in their group. -/
def State.drainWhere (s : State) (p : Pend → Bool) : State :=
  (s.allGroups.filter fun g => g.mo.pend.any p).foldl (fun s g => s.drainTo g.key (lastOf p g.mo.pend)) s

/-- Stores to a line are performed before it is given up, or goes to another agent. -/
def State.flushLine (s : State) (line : Nat) : State := s.drainWhere fun p => p.ga / 128 == line

/-- Stores to a range are performed. -/
def State.flushRange (s : State) (ga n : Nat) : State := s.drainWhere fun p => p.meets ga n

/-- The `j`-th store of a group may be performed now: after those to the same bytes that are of its lane or that an order puts before
it, and, within the die, those of earlier instructions (R304). -/
def mayPerform (ps : List Pend) (j : Nat) : Bool :=
  match ps[j]? with
  | some p => (ps.take j).all fun q =>
      !(q.meets p.ga p.bytes.length && (q.lane == p.lane || decide (q.wepoch < p.wepoch) || q.code)) &&
      !(q.within && p.within && decide (q.id < p.id))
  | none => false

def State.performTurn (s : State) (k j : Nat) : State :=
  let ps := (s.group k).mo.pend
  match ps[j]? with
  | some p => if mayPerform ps j then s.performAll k [p] (ps.eraseIdx j) else s
  | none => s

/-! ### The values of atomics (R196, R197) -/

/-- The new value of `atomc` (R196). -/
def atomcNew (m : BitVec 3) (old b d : Word) : Word :=
  match m with
  | 0#3 => old + b
  | 1#3 => old &&& b
  | 2#3 => old ||| b
  | 3#3 => old ^^^ b
  | 4#3 => if b.slt old then b else old
  | 5#3 => if old.slt b then b else old
  | 6#3 => b
  | _ => if old = d then b else old

/-- The new value of an atomic of `n` bytes from the old value, operand and compare value. -/
def atomNew (n : Nat) (k : BitVec 5) (old op cmp : Nat) : Nat :=
  let m := 2 ^ (8 * n)
  let neg := fun (v : Nat) => (BitVec.ofNat (8 * n) v).toInt
  match k.toNat with
  | 0 => (old + op) % m
  | 1 => old &&& op
  | 2 => old ||| op
  | 3 => old ^^^ op
  | 4 => if neg op < neg old then op else old
  | 5 => if op < old then op else old
  | 6 => if neg old < neg op then op else old
  | 7 => if old < op then op else old
  | 8 => op
  | _ => if old = cmp then op else old

/-- The new value of an atomic: of `atomc` in core memory, of `atom`; `cas` compares first. -/
def rmwNew (core : Bool) (k n old op cmp : Nat) : Nat :=
  if core then (atomcNew (BitVec.ofNat 3 k) (BitVec.ofNat 32 old) (BitVec.ofNat 32 op) (BitVec.ofNat 32 cmp)).toNat
  else atomNew n (BitVec.ofNat 5 k) old op cmp

/-- An atomic writes: a `cas` whose comparison fails leaves every byte unchanged (R288). -/
def rmwWrites (core : Bool) (k old cmp : Nat) : Bool := k != (if core then 7 else 9) || old == cmp

/-! ### Loads and atomics that are not performed -/

/-- Value of a lane in a list of lane results. -/
def laneRes (vs : List (Fin 128 × Nat)) (i : Fin 128) : Option Nat := (vs.find? fun v => v.1 = i).map (·.2)

/-- Words `j0` on of the lanes' results written to `cnt` registers from `d`; lanes without a result keep their values. -/
def Group.resRegs (g : Group) (d cnt : Nat) (vs : List (Fin 128 × Nat)) : List (Nat × Lanes) :=
  (List.range cnt).map fun j => (d + j, Lanes.tab fun i =>
    match laneRes vs i with
    | some v => BitVec.ofNat 32 (v / 2 ^ (32 * j))
    | none => (g.rd (d + j))[i])

/-- Sign extension of a loaded value of `n` bytes. -/
def signExt (n v : Nat) : Nat := if n < 4 ∧ v.testBit (8 * n - 1) then v + 2 ^ 32 - 2 ^ (8 * n) else v

/-- The latest of the group's own stores that a read of `n` bytes sees before it is performed. -/
def MemOrder.own (m : MemOrder) (id epoch lane ga n : Nat) : Option Pend :=
  (m.pend.filter fun p => p.visible id epoch lane && p.meets ga n).getLast?

/-- A read takes its bytes at one place of the order of its granule (R290): a store of its group that covers them in part is performed
first, and so is a within-die store of another lane, which no lane but its own reads before it is performed (R304). -/
def State.beforePiece (s : State) (k id epoch lane ga n : Nat) : State :=
  let m := (s.group k).mo
  match m.own id epoch lane ga n with
  | some p =>
    if p.ga ≤ ga ∧ ga + n ≤ p.ga + p.bytes.length ∧ (p.lane = lane ∨ p.within = false) then s
    else s.drainTo k (lastOf (fun q => q.visible id epoch lane && q.meets ga n) m.pend)
  | none => s

/-- The bytes of a read from the group's own store, or from memory. -/
def State.ownBytes (s : State) (k id epoch lane ga n : Nat) : List Byte :=
  match (s.group k).mo.own id epoch lane ga n with
  | some p => slice p.bytes (ga - p.ga) n
  | none => s.bytes ga n

/-- The release tags of those bytes. -/
def State.ownTags (s : State) (k id epoch lane ga n : Nat) : List Rel :=
  match (s.group k).mo.own id epoch lane ga n with
  | some p => p.tags
  | none => s.tagsAt ga n

/-- The memory order of a group changed. -/
def State.setOrder (s : State) (k : Nat) (f : MemOrder → MemOrder) : State :=
  let g := s.group k
  s.setGroup k { g with mo := f g.mo }

/-- A read of a lane has returned a value with these tags. -/
def State.noteRead (s : State) (k lane ga n : Nat) (tags : List Rel) : State :=
  s.setOrder k fun m =>
    let m := m.read lane ga n
    if tags.isEmpty then m else { m with owed := (m.owed ++ tags).eraseDups }

/-- An atomic is performed at the home of its line: no cache keeps a copy of it (R201). -/
def State.atHome (s : State) (ga : Nat) : State := if gaRegion ga = 0 then s.uncached (ga / 128) else s

/-- The write part of an atomic of a group: its release tags join those of what it read (Table 9-3); without new bytes it leaves
every byte unchanged (R288). -/
def State.rmwAt (s : State) (k lane ga n : Nat) (tags : List Rel) (bs : Option (List Byte)) : State :=
  let tags := (s.tagsAt ga n ++ tags).eraseDups
  let s := match bs with
    | some bs => s.memWrite ga bs tags
    | none => s.tagWrite ga n tags
  s.setOrder k fun m => m.touch lane (ga / 16)

/-- The stores of a group held back that an atomic of it must follow: to the same bytes, of its lane or over an order, and, within
the die, every earlier one (R304). -/
def Pend.beforeRmw (q : Pend) (id epoch lane ga n : Nat) (within : Bool) : Bool :=
  (q.visible id epoch lane && q.meets ga n) || (q.within && within && decide (q.id < id))

/-- A piece of a held access is performed: its bytes. -/
def State.takePiece (s : State) (k : Nat) (h : HeldLoad) (p : HeldPiece) : State × List Byte :=
  match h.kind with
  | .atomic core sel n ops tags =>
    let s := (s.drainTo k (lastOf (fun q => q.beforeRmw h.id h.epoch p.lane.val p.ga n p.within) (s.group k).mo.pend)).atHome p.ga
    let old := s.rdN p.ga n
    let o := ((ops.find? fun o => o.1 = p.lane).map (·.2)).getD (0, 0)
    let got := s.tagsAt p.ga n
    let s := s.rmwAt k p.lane.val p.ga n tags
      (if rmwWrites core sel old o.2 then some (bytesLE (rmwNew core sel n old o.1 o.2) n) else none)
    (s.noteRead k p.lane.val p.ga n got, bytesLE old n)
  | _ =>
    let s := s.beforePiece k h.id h.epoch p.lane.val p.ga p.len
    (s.noteRead k p.lane.val p.ga p.len (s.ownTags k h.id h.epoch p.lane.val p.ga p.len),
      s.ownBytes k h.id h.epoch p.lane.val p.ga p.len)

/-- The value of a lane of a held access all of whose pieces are performed. -/
def HeldLoad.value (h : HeldLoad) (l : Fin 128) : Nat :=
  let v := natLE ((h.ps.filter fun p => p.lane = l).flatMap fun p => p.got.getD [])
  match h.kind with
  | .load n sgn => if sgn then signExt n v else v
  | .typed fmts => unpackFmt (((fmts.find? fun f => f.1 = l).map (·.2)).getD 0) v
  | .atomic _ _ _ _ _ => v

/-- The held access in place `j` of a group is now `h`; with its last piece it completes, and its results are written. -/
def State.putHeld (s : State) (k j : Nat) (h : HeldLoad) : State :=
  let g := s.group k
  if h.ps.all (·.got.isSome) then
    let g := { g with mo := { g.mo with loads := g.mo.loads.eraseIdx j } }
    let vs := ((h.ps.map (·.lane)).eraseDups).map fun l => (l, h.value l)
    s.setGroup k ((g.resRegs h.d h.cnt vs).foldl (fun g w => g.wr w.1 w.2) g)
  else s.setGroup k { g with mo := { g.mo with loads := g.mo.loads.set j h } }

/-- The `i`-th piece of the `j`-th held access of a group is performed. -/
def State.landPiece (s : State) (k j i : Nat) : State :=
  match (s.group k).mo.loads[j]? with
  | some h =>
    match h.ps[i]? with
    | some p =>
      if p.got.isSome then s
      else
        let r := s.takePiece k h p
        r.1.putHeld k j { h with ps := h.ps.set i { p with got := some r.2 } }
    | none => s
  | none => s

/-- Place of the first piece not performed that `f` picks. -/
def heldNext (f : HeldLoad → HeldPiece → Bool) (hs : List HeldLoad) : Option (Nat × Nat) :=
  (hs.zipIdx.findSome? fun h => (h.1.ps.zipIdx.find? fun p => p.1.got.isNone && f h.1 p.1).map fun p => (h.2, p.2))

/-- The pieces of a group's held accesses that `f` picks are performed, `n` of them at most. -/
def State.landSome (s : State) (k : Nat) (f : HeldLoad → HeldPiece → Bool) : Nat → State
  | 0 => s
  | n + 1 =>
    match heldNext f (s.group k).mo.loads with
    | some (j, i) => (s.landPiece k j i).landSome k f n
    | none => s

def State.landWhere (s : State) (k : Nat) (f : HeldLoad → HeldPiece → Bool) : State :=
  let hs := (s.group k).mo.loads
  if hs.isEmpty then s else s.landSome k f (hs.map fun h => h.ps.length).sum

/-- Every held access of a group is performed. -/
def State.landAll (s : State) (k : Nat) : State := s.landWhere k fun _ _ => true

/-! ### Orders -/

/-- The accesses of a group numbered below `ord` are performed: before the request of an engine that it issued after them reads
(R243, R268, R273). -/
def State.issuedBy (s : State) (k ord : Nat) : State :=
  let s := s.landWhere k fun h _ => decide (h.id < ord)
  s.drainTo k (lastOf (fun p => decide (p.id < ord)) (s.group k).mo.pend)

/-- What a release covers is performed: the accesses of its agent numbered below `upto` (R299). -/
def State.releaseTo (s : State) (r : Rel) : State := s.issuedBy r.agent.key r.upto

/-- An acquire of an agent at a scope meets tags (Table 9-3): the releases that match it are performed. -/
def State.syncFor (s : State) (q : Agent) (sc : Nat) (tags : List Rel) : State :=
  (tags.filter fun r => s.tagMeets r q sc).foldl State.releaseTo s

/-- What a group has seen before is not returned any more (R299). -/
def State.forget (s : State) (k : Nat) : State :=
  if (s.group k).mo.seen.isEmpty then s else s.setOrder k fun m => { m with seen := [] }

/-- An acquire of the group in hand at a scope meets tags: what matches is performed, and what the group has seen before is not
returned any more. -/
def State.sync (s : State) (tags : List Rel) (sc : Nat) : State :=
  if tags.any fun r => s.tagMeets r s.g.agent sc then (s.syncFor s.g.agent sc tags).forget s.g.key else s

/-- The storage service of a package acquires bytes at pkg scope (R436). -/
def State.serviceReads (s : State) (p ga n : Nat) : State := s.syncFor (serviceAgent p) 3 (s.tagsAt ga n)

/-- The order of earlier reads before every later access: what an earlier access has met since is not returned any more, and
nothing older of core memory, which holds a single copy (R305). -/
def MemOrder.readsFirst (m : MemOrder) : MemOrder :=
  { m with seen := m.seen.filter fun e => !e.touched && gaRegion (e.g16 * 16) == 0 }

/-- Every later access of the group, its code fetch among them, follows its stores (R138). -/
def MemOrder.established (m : MemOrder) : MemOrder := m.ordered fun _ => true

/-- The order of `mrestore`, of `fence.ar.grp` and of a barrier on one group's accesses (Table 9-2). -/
def State.fullOrder (s : State) (k : Nat) : State :=
  (s.landAll k).setOrder k fun m => { m.readsFirst.established with epoch := m.epoch + 1, wepoch := m.wepoch + 1 }

/-- The end of a wait at a barrier or a rendezvous (R263, R265): a full order, and an acquire of the releases of the arrivals. -/
def State.barEnd (s : State) (k : Nat) (tags : List Rel) : State :=
  let s := s.fullOrder k
  if tags.isEmpty then s else (tags.foldl State.releaseTo s).forget k

/-- The `fence.sc` events before that of the group in hand at a scope that synchronise with it (R301). -/
def State.scBefore (s : State) (sc : Nat) : List Rel :=
  s.scs.filter fun r => r.agent.key != s.g.key && s.matched r.agent s.g.agent r.sc sc

/-- A fence of kind 0 `.acq`, 1 `.rel`, 2 `.ar`, 3 `.sc` at a scope (R204, R297, R298, R301). -/
def State.fence (s : State) (kind sc : Nat) : State :=
  let k := s.g.key
  let s := if kind = 1 then s.setOrder k fun m => { m with loads := m.loads.map fun h => { h with wfirst := true } }
    else (s.landAll k).setOrder k fun m => m.readsFirst.ordered (·.back)
  let s := if kind = 1 then s else s.sync s.g.mo.owed sc
  let s := if kind = 0 then s
    else s.setOrder k fun m => { m with wepoch := m.wepoch + 1, rel := if sc = 0 then m.rel else latest (s.g.release sc) m.rel }
  let s := if kind < 2 then s else
    let s := s.setOrder k fun m => { m.established with epoch := m.epoch + 1 }
    if 2 ≤ sc then s.drainTo k (lastOf (·.within) s.g.mo.pend) else s
  if kind < 3 then s
  else
    let rs := s.scBefore sc
    let s := if rs.isEmpty then s else (rs.foldl State.releaseTo s).forget k
    { s with scs := latest (s.g.release sc) s.scs }

/-- Every store of a group before this point is performed, the writes of its atomics among them (R143). -/
def State.stored (s : State) (k : Nat) : State :=
  (s.landWhere k fun h _ => match h.kind with
    | .atomic _ _ _ _ _ => true
    | _ => false).drain k

/-- Every access of a group before this point is performed. -/
def State.performed (s : State) (k : Nat) : State := (s.landAll k).drain k

/-- Every access of a group before this point is performed, and nothing older is returned after it: where the group leaves its
core or its registers are read by another agent. -/
def State.settleMem (s : State) (k : Nat) : State :=
  let m := (s.group k).mo
  if m.pend.isEmpty ∧ m.loads.isEmpty ∧ m.seen.isEmpty then s else (s.performed k).forget k

/-- An acquire of the group in hand that is no load and no fence (Table 9-3): its earlier reads are performed, and nothing older
is returned after it. -/
def State.acquired (s : State) : State := (s.landAll s.g.key).forget s.g.key

/-- Every earlier instruction of a team's groups has taken full effect (R45, R461). -/
def State.settleTeam (s : State) (tid : Nat) : State := (s.teamGroups tid).foldl (fun s g => s.settleMem g.key) s

/-- A lane of a group of a resident team keeps what a granule of memory holds now: a later between-die read may return it (R305). -/
def State.see (s : State) (k lane g16 : Nat) : State :=
  let g := s.group k
  if g.status ≠ .live ∨ (s.team g.tid).status ≠ .resident ∨ g.wait ≠ .none ∨ 128 ≤ lane ∨
      !(gaRegion (g16 * 16) == 0 || gaRegion (g16 * 16) == 1) ∨
      !populated (g16 * 16) ∨ (g.mo.pend.any fun p => p.ga / 16 == g16) then s
  else
    s.setGroup k { g with mo := { g.mo with seen :=
      (g.mo.seen.filter fun e => !(e.lane == lane && e.g16 == g16)) ++
        [⟨lane, g16, s.bytes (g16 * 16) 16, s.tagsAt (g16 * 16) 16, false⟩] } }

/-- The release tags of a write of the group in hand: of its own release at a scope, and of its release fences before it. -/
def Group.relTags (g : Group) (isRel : Bool) (sc : Nat) : List Rel :=
  (if isRel then [g.release sc] else []) ++ g.mo.rel

/-- The accesses of groups to a place that moves go with it (R315): bytes `n` from `src` are at `dst` from now on. -/
def MemOrder.moved (m : MemOrder) (src dst n : Nat) : MemOrder :=
  let go := fun (a : Nat) => if src ≤ a ∧ a < src + n then a - src + dst else a
  { m with
    loads := m.loads.map fun h => { h with ps := h.ps.map fun p => { p with ga := go p.ga } }
    pend := m.pend.map fun p => { p with ga := go p.ga }
    seen := (m.seen.filter fun e => !(decide (dst ≤ e.g16 * 16) && decide (e.g16 * 16 < dst + n))).map fun e =>
      { e with g16 := go (e.g16 * 16) / 16 } }

end Sys2Proof.Machine
end

