-- ==== Sys2Proof/Machine/Work.lean ====
section
/-! DEFINITION. The work of a die: slots, stems and bins, the end of groups and teams, and the account of launches
(R34 to R38, R248, R258, R369, R370), as operations shared by the instructions and the steps without an encoding. -/

namespace Sys2Proof.Machine

/-! ### Slots -/

/-- The first free slot of a partition; slot 0 of partition 0 is the supervisor group's (Table 1-1). -/
def State.freeSlot (s : State) (dk core part : Nat) : Option Nat :=
  let used := (s.partGroups dk core part).map fun g => g.slot
  (List.range 16).find? fun n => !used.contains n && !(part == 0 && n == 0)

/-! ### Stems and bins -/

/-- A stem of a die by number. -/
def State.stemAt (s : State) (dk n : Nat) : Option Stem := Store.find n (s.die dk).stems

def State.setStem (s : State) (dk n : Nat) (st : Stem) : State :=
  let d := s.die dk
  s.setDie dk { d with stems := Store.ins n st d.stems }

/-- Generation of a stem number; 1 at die reset (R247). -/
def State.stemGen (s : State) (dk n : Nat) : BitVec 14 := Store.get (fun _ => 1#14) (s.die dk).gens n

/-- The handle of a live stem (Table 8-1). -/
def State.stemHandle (s : State) (dk n : Nat) : Word :=
  s.stemGen dk n ++ BitVec.ofNat 10 (dk / 4) ++ BitVec.ofNat 2 dk ++ BitVec.ofNat 6 n

/-- The live stem of this die that a handle names (R247). -/
def State.stemOf (s : State) (dk : Nat) (h : Word) : Option Nat :=
  let n := (h.extractLsb' 0 6).toNat
  if h ≠ 0 ∧ (s.stemAt dk n).isSome ∧ h = s.stemHandle dk n then some n else none

/-- Some group, frame or queued bin launch still refers to the stem (R248). -/
def State.stemBusy (s : State) (dk n : Nat) : Bool :=
  (s.allGroups.any fun g => g.dk = dk && g.stem = n && decide (0 < g.depth) && g.status != .ended) ||
  (s.launches.any fun l => l.2.dk = dk && l.2.binq.any fun b => b.stem = n) || ((s.die dk).strays.any fun b => b.stem = n) ||
  (s.teams.any fun t => t.2.dk = dk && t.2.tstem = some n && t.2.status != .retired)

/-- The rows a group still shares with a stem that is gone become its own. -/
def Group.ownRows (g : Group) : Group := { g with rows := g.shared ++ g.rows, shared := [] }

/-- A closed stem that nothing refers to is no longer live: its number, its frame and its residencies are free (R248, R358). -/
def State.reapStem (s : State) (dk n : Nat) : State :=
  match s.stemAt dk n with
  | some st =>
    if st.isOpen ∨ s.stemBusy dk n then s
    else
      let own := fun g : Group => if g.dk = dk ∧ g.share = n ∧ !g.shared.isEmpty then g.ownRows else g
      let d := s.die dk
      let s := s.setDie dk { d with stems := Store.erase n d.stems, frames := Store.erase (stemFrame n) d.frames }
      { s with
        g := own s.g
        groups := s.groups.map fun (p : Nat × Group) => (p.1, own p.2)
        cores := s.cores.map fun (p : Nat × Core) =>
          if p.1 / 96 = dk then (p.1, { p.2 with images := Store.erase n p.2.images }) else p }
  | none => s

/-- A bin leaves with its items for its launch's bin queue (R258, R360); that of a stem that no launch made, for the die's own
(R259). -/
def State.launchBin (s : State) (dk : Nat) (b : Bin) : State :=
  let d := s.die dk
  let s := s.setDie dk { d with binSeq := d.binSeq + 1 }
  match s.stemAt dk b.stem with
  | some st =>
    match Store.find st.lk s.launches with
    | some l => { s with launches := Store.ins st.lk { l with binq := l.binq ++ [⟨b.stem, b.target, b.items, d.binSeq, b.tags⟩] } s.launches }
    | none =>
      let e := s.die dk
      s.setDie dk { e with strays := e.strays ++ [⟨b.stem, b.target, b.items, d.binSeq, b.tags⟩] }
  | none => s

/-- The bins of a die that satisfy `p` launch, oldest first. -/
def State.launchBins (s : State) (dk : Nat) (p : Bin → Bool) : State :=
  let d := s.die dk
  let go := d.bins.filter p
  let s := s.setDie dk { d with bins := d.bins.filter fun b => !p b }
  go.foldl (fun s b => s.launchBin dk b) s

/-- A stem ended: closed, and every non-empty bin keyed by it launches at once (R248). -/
def State.endStem (s : State) (dk n : Nat) : State :=
  match s.stemAt dk n with
  | some st =>
    if st.isOpen then
      let s := s.setStem dk n { st with isOpen := false }
      (s.launchBins dk fun b => b.stem = n).reapStem dk n
    else s
  | none => s

/-! ### Batches -/

/-- Batch numbers of the group's closed operations that are not complete. -/
def State.openBatches (s : State) (k : Nat) : List Word :=
  let g := s.group k
  (g.mat.filterMap fun m => m.tag.num) ++
  ((s.team g.tid).queues.toList.flatMap fun q => q.reqs.filterMap fun r => if r.gk = k then r.tag.num else none) ++
  (s.msgs.filterMap fun m => if m.2.gk = k ∧ !m.2.sent then m.2.tag.num else none)

/-- MB.DONE brought up to date: the most recent batch all of whose operations, and those of every earlier batch, have
completed (R31, R229). -/
def State.settle (s : State) (k : Nat) : State :=
  let g := s.group k
  let left := (s.openBatches k).map fun n => (n - g.done).toNat
  let done := match left.min? with
    | some m => g.done + BitVec.ofNat 32 (m - 1)
    | none => g.issued
  s.setGroup k { g with done := done }

/-! ### The launch packet (Table 11-1) -/

/-- A field of `n` bytes at an offset of the packet. -/
def pkt (b : List Byte) (off n : Nat) : Nat := natLE (slice b off n)

/-- The named dies of a packet in rank order (R349). -/
def pktDies (b : List Byte) : List Nat :=
  let w := pkt b 0x1C 4
  (((List.range (bits w 23 14 + 1)).map (· + bits w 13 4)).filter fun p => decide (p < 1024)).flatMap fun p =>
    ((List.range 4).filter fun d => w.testBit d).map fun d => 4 * p + d

/-- Extents of the grid, and its size (R352). -/
def pktGrid (b : List Byte) : Nat × Nat × Nat :=
  let w := pkt b 0x10 8
  (bits w 15 0 + 1, bits w 31 16 + 1, bits w 47 32 + 1)

def gridSize (b : List Byte) : Nat :=
  let e := pktGrid b
  e.1 * e.2.1 * e.2.2

/-- Number of dies and the rank of a die. -/
def pktRank (b : List Byte) (dk : Nat) : Nat × Nat :=
  let ds := pktDies b
  (ds.length, ds.idxOf dk)

/-- Index of team `n` of the share of the die of rank `r` of `d` dies (R352). -/
def shareTeam (d r n : Nat) : Nat := (n / 64 * d + r) * 64 + n % 64

/-- Teams in the share of the die of rank `r`. -/
def shareSize (g d r : Nat) : Nat :=
  let full := (g / 64 + d - 1 - r) / d
  64 * full + (if g / 64 % d = r then g % 64 else 0)

/-- Teams of the launch's share on its die. -/
def Launch.share (l : Launch) : Nat :=
  let r := pktRank l.packet l.dk
  if l.ended ∨ r.1 = 0 then 0 else shareSize (gridSize l.packet) r.1 r.2

/-! ### The account of a launch -/

/-- The home account of a launch: key and account. -/
def State.homeFind (s : State) (dk : Nat) (lid : Word) : Option (Nat × Home) :=
  s.homes.find? fun h => h.2.dk = dk && h.2.lid == lid

def State.homeUpdate (s : State) (dk : Nat) (lid : Word) (f : Home → Home) : State :=
  match s.homeFind dk lid with
  | some (k, h) => { s with homes := Store.ins k (f h) s.homes }
  | none => { s with fresh := s.fresh + 1,
                     homes := Store.ins s.fresh (f ⟨dk, lid, [], 0, false, 0, 0, [], none, []⟩) s.homes }

def State.launchUpdate (s : State) (lk : Nat) (f : Launch → Launch) : State :=
  match Store.find lk s.launches with
  | some l => { s with launches := Store.ins lk (f l) s.launches }
  | none => s

/-- `n` grid teams counted as retired at the home die, `e` of them ended by `exit` (R369). DEDUCED: log entry 22. -/
def State.countRetired (s : State) (lk n e : Nat) : State :=
  match Store.find lk s.launches with
  | some l => s.homeUpdate l.home l.lid fun h => { h with retired := h.retired + n, exited := h.exited + e }
  | none => s

/-- The launch with this record key is quiescent on its die but for its bins (R361). -/
def State.idleLaunch (s : State) (lk : Nat) (l : Launch) : Bool :=
  l.share ≤ l.next && l.pro == 0 && l.binq.isEmpty && l.swapq.isEmpty &&
  !(s.teams.any fun t => t.2.lk == lk && t.2.status != .retired && t.2.kind != .supervisor)

/-- Quiescence (R361), with the dirty L1 lines of the die passed on (R369, R482): the launch's non-empty bins launch; with none, its grid stem ends and the die reports it. -/
def State.quiesce (s : State) (lk : Nat) : State :=
  match Store.find lk s.launches with
  | some l =>
    if l.quiet ∨ !s.idleLaunch lk l then s
    else
      let d := s.die l.dk
      let mine := (d.stems.filter fun p => p.2.lk = lk).map (·.1)
      if d.bins.any fun b => mine.contains b.stem then s.launchBins l.dk fun b => mine.contains b.stem
      else
        let s := match l.stem with
          | some n => s.endStem l.dk n
          | none => s
        let s := (s.launchUpdate lk fun l => { l with quiet := true }).drainL1 l.dk
        s.homeUpdate l.home l.lid fun h => { h with quiet := h.quiet ++ [l.dk] }
  | none => s

/-! ### The end of a group and of a team -/

/-- Parts of quad steps for which `g`, ending, can no longer issue a part: arithmetic code 6 (R227). -/
def Group.orphanParts (o g : Group) : Group :=
  if o.tid = g.tid ∧ o.role = g.role ∧ o.ridx / 4 = g.ridx / 4 ∧ o.gidx ≠ g.gidx then
    let lost := o.mat.filter fun m => decide (0x56 ≤ m.op) && decide (g.quads ≤ m.step)
    { o with mat := o.mat.filter (fun m => !(decide (0x56 ≤ m.op) && decide (g.quads ≤ m.step)))
             faults := o.faults ++ lost.map fun m => ⟨m.tag.num, m.tag.index, 8, 6, none, 0, 0, m.tag.pc, false⟩ }
  else o

/-- No bin of a stem of the launch holds items, and nothing of it is running or queued on its die: what is awaited of every share
before the launch completes (R259, R369). -/
def State.restful (s : State) (lk : Nat) (l : Launch) : Bool :=
  let mine := ((s.die l.dk).stems.filter fun p => p.2.lk = lk).map (·.1)
  s.idleLaunch lk l && !((s.die l.dk).bins.any fun b => mine.contains b.stem)

/-- Bytes of a team frame (R54): its group frames, its core memory and its full/empty bits. DESIGN CHOICE: log entry 7. -/
def Team.frameSize (t : Team) : Nat := t.size * frameBytes + t.bytes + t.bytes / 128

/-- The frame is the team's own or that of one of its groups. -/
def ofTeam (tid key : Nat) : Bool := key == teamFrame tid || (key % 4 == 0 && key / 64 == tid)

/-- The frames of a team and of its groups are free again (R362, R367). -/
def State.dropFrames (s : State) (dk tid : Nat) : State :=
  let d := s.die dk
  s.setDie dk { d with frames := d.frames.filter fun f => !ofTeam tid f.1 }

/-- The team's prologue group made no stem: nothing more of it starts. -/
def State.teamOver (s : State) (tid : Nat) : Bool :=
  let gs := s.teamGroups tid
  gs.all fun g => g.status == .notStarted

/-- A team is in no swap queue any more: neither its launch's nor, for a team of a stem that no launch made, its die's (R354). -/
def State.unswap (s : State) (tid : Nat) : State :=
  let t := s.team tid
  let s := s.launchUpdate t.lk fun l => { l with swapq := l.swapq.filter (· != tid) }
  if t.lk = 0 then s.setDie t.dk { s.die t.dk with strayq := (s.die t.dk).strayq.filter (· != tid) } else s

/-- A team retires (R148, R369): its core memory and frames are free, its receives are discarded, its stem ends, and its
launch is told. -/
def State.retireTeam (s : State) (tid : Nat) : State :=
  let t := s.team tid
  let ck := coreKey t.dk t.core
  let c := s.core ck
  let s := s.setCore ck { c with recvs := c.recvs.filter fun r => r.gk / 16 != tid }
  let s := (s.dropFrames t.dk tid).unswap tid
  let s := { s with groups := s.groups.filter fun p => p.1 / 16 != tid }
  let s := if s.g.tid = tid then { s with g := { s.g with status := .ended, rows := [], shared := [] } } else s
  let s := { s with teams := Store.erase tid s.teams }
  let s := match t.tstem with
    | some n => (s.endStem t.dk n).reapStem t.dk n
    | none => s
  match t.kind with
  | .grid => s.countRetired t.lk 1 (if t.exited ∧ !t.killed then 1 else 0)
  | .prologue =>
    match Store.find t.lk s.launches with
    | some l =>
      let s := s.launchUpdate t.lk fun l => { l with pro := 0 }
      if l.stem.isNone ∧ !l.ended ∧ !t.killed then
        s.reportFail t.lk ⟨3, 0, 0, 0, s.unitWord t.dk 0 0 0 3, 0⟩
      else s
    | none => s
  | _ => s

/-- A team retires, and its launch may be quiescent. -/
def State.retire (s : State) (tid : Nat) : State :=
  let lk := (s.team tid).lk
  (s.retireTeam tid).quiesce lk

/-- The group has not ended. -/
def Group.running (g : Group) : Bool := g.status != .ended && g.status != .ending

/-- The budget that a quota value gives a role. -/
def quotaByte (q : Word) (role : Nat) : Nat := bits q.toNat (8 * role + 7) (8 * role)

/-- The group under a new budget (R265): registers at or above the lesser of the two become zero and hold no row. -/
def Group.rebudget (g : Group) (n : Nat) : Group :=
  let low := min g.budget n
  let high := (List.range 128).filter fun r => low ≤ r
  { g with budget := n
           regs := g.regs.mapFinIdx fun r v _ => if low ≤ r then zeroLanes else v
           rows := high.foldl (fun w r => dropReg r w) g.rows
           shared := high.foldl (fun w r => dropReg r w) g.shared
           wait := if g.wait = .quota then .none else g.wait }

/-- The quota rendezvous of a team, complete once every group that has not ended has arrived; toward memory as `bar` (R265). -/
def State.quotaDone (s : State) (tid : Nat) : State :=
  let t := s.team tid
  let gs := (s.teamGroups tid).filter Group.running
  match t.quota with
  | [] => s
  | (_, q) :: _ =>
    if gs.all fun g => t.quota.any fun a => a.1 == g.gidx then
      let tags := gs.map fun g => g.release 1
      gs.foldl (fun s g =>
        let s := s.landAll g.key
        (s.setGroup g.key ((s.group g.key).rebudget (quotaByte q g.role))).barEnd g.key tags) (s.setTeam tid { t with quota := [] })
    else s

/-- A group has ended: its slot and rows are free, its quad partners' orphaned parts fault, its stem may end, and its team
retires with its last group (R148, R227). -/
def State.endGroup (s : State) (k : Nat) : State :=
  let s := s.settleMem k
  let g := s.group k
  let dead := { g with status := .ended, rows := [], shared := [], mat := [] }
  let s := s.setGroup k dead
  let s := { s with g := s.g.orphanParts g, groups := s.groups.map fun (p : Nat × Group) => (p.1, p.2.orphanParts g) }
  let s := (s.teamGroups g.tid).foldl (fun s h => if h.faults.any fun f => f.cls = 8 ∧ f.code = 6 then s.settle h.key else s) s
  let s := if 0 < g.depth then s.reapStem g.dk g.stem else s
  let s := s.setTeam g.tid { s.team g.tid with exited := g.exited }
  if s.teamOver g.tid then s.retire g.tid else s.quotaDone g.tid

/-- A team terminated (R279): every group ends, its pending matrix and copy work is discarded; its launch records `f`. -/
def State.killTeam (s : State) (tid : Nat) (f : Option Failure) : State :=
  let t := s.team tid
  if t.status = .retired then s
  else
    let s := s.setTeam tid { t with killed := true, queues := Vector.replicate 16 Queue.zero }
    let s := match f with
      | some f => s.reportFail t.lk f
      | none => s
    let s := (List.range t.size).foldl (fun s j =>
      let k := 16 * tid + j
      if (s.group k).status = .ended then s else
        let s := s.settleMem k
        s.setGroup k { s.group k with status := .ended, rows := [], shared := [], mat := [] }) s
    let s := { s with msgs := s.msgs.filter fun m => m.2.gk / 16 != tid || m.2.sent }
    let stems := (s.allGroups.filter fun g => g.tid = tid && decide (0 < g.depth)).map fun g => g.stem
    let s := s.retire tid
    stems.foldl (fun s n => s.reapStem t.dk n) s

/-- The groups of a launch on a die are ended: teams terminated, bins and queues discarded, stems ended, the undispatched
teams of the share counted as retired (R370). `left` is their number. -/
def State.endLaunch (s : State) (lk left : Nat) : State :=
  match Store.find lk s.launches with
  | some l =>
    let s := s.launchUpdate lk fun l => { l with ended := true, binq := [], swapq := [], pro := 0 }
    let s := { s with msgs := s.msgs.filter fun m => m.2.lk != lk }
    let d := s.die l.dk
    let mine := (d.stems.filter fun p => p.2.lk = lk).map (·.1)
    let s := s.setDie l.dk { d with bins := d.bins.filter fun b => !mine.contains b.stem }
    let tids := (s.teams.filter fun p => p.2.lk = lk && p.2.status != .retired).map (·.1)
    let s := tids.foldl (fun s tid => s.killTeam tid none) s
    let s := mine.foldl (fun s n => (s.endStem l.dk n).reapStem l.dk n) s
    (s.countRetired lk left 0).quiesce lk
  | none => s

end Sys2Proof.Machine
end

