-- ==== Sys2Proof/Machine/Units.lean ====
section
/-! DEFINITION. What the units of a die do when one of their registers is written: page requests, migration, buckets, identity,
recovery, firewall, directory query, link retrains, team stops. A register store and the step of the opcode table with the
same name call the same operation. -/

namespace Sys2Proof.Machine

/-! ### Page requests (R340) -/

/-- A request that waited for ring room is posted once there is room (R339). -/
def State.postPages (s : State) (dk : Nat) : State :=
  let d := s.die dk
  match d.pages.find? fun p => !p.posted with
  | some p =>
    if s.ringRoom dk then
      let s := s.writePage dk p
      let d := s.die dk
      s.setDie dk { d with pages := d.pages.map fun q => if q.req = p.req then { q with posted := true } else q }
    else s
  | none => s

/-- A group whose page has been supplied: re-executes at once if its frame was not written, else waits for a slot (R340). -/
def Group.pageDone (g : Group) (dk req : Nat) : Group :=
  if g.dk ≠ dk then g
  else
    match g.status with
    | .paging r => if r = req then { g with status := .live, wait := .none } else g
    | .paged r => if r = req then { g with status := .returning } else g
    | _ => g

/-- Every group and every engine request of a die that waits for page `n` goes on; `fail` tells those that wait for a page of
the host that it was refused, with its class 12 code (R343). -/
def State.wake (s : State) (dk n : Nat) (fail : Option (Nat × Nat)) : State :=
  let hf := fun (old : Option Nat) => match fail with
    | some (key, _) => some key
    | none => old
  let req := fun (r : CopyReq) => if r.page = some n then { r with page := none, hostFail := hf r.hostFail } else r
  let queue := fun (q : Queue) => { q with reqs := q.reqs.map req }
  let recv := fun (r : Recv) => if r.page = some n then { r with page := none, hostFail := hf r.hostFail } else r
  let member := fun (m : Member) =>
    if m.dk = dk ∧ m.page = some n then { m with page := none, hostFail := hf m.hostFail } else m
  let group := fun (g : Group) =>
    if g.dk = dk ∧ (g.status = .paging n ∨ g.status = .paged n ∨ (2 ^ 32 ≤ n ∧ g.wait = .page (n - 2 ^ 32))) then
      { g.pageDone dk n with hostFail := match fail with | some f => some f | none => g.hostFail }
    else g
  let d := s.die dk
  let run := fun (r : Run) =>
    if r.phase = 5 ∧ r.on = n then { r with phase := 0, fail := match fail with | some f => some f | none => r.fail } else r
  let s := s.setDie dk { d with runs := d.runs.map run }
  { s with
    g := group s.g
    groups := s.groups.map fun (p : Nat × Group) => (p.1, group p.2)
    teams := s.teams.map fun (p : Nat × Team) => if p.2.dk = dk then (p.1, { p.2 with queues := p.2.queues.map queue }) else p
    cores := s.cores.map fun (p : Nat × Core) => if p.1 / 96 = dk then (p.1, { p.2 with recvs := p.2.recvs.map recv }) else p
    msgs := s.msgs.map fun (p : Nat × Msg) =>
      if p.2.dk = dk ∧ p.2.page = some n then (p.1, { p.2 with page := none, hostFail := hf p.2.hostFail }) else p
    colls := s.colls.map fun (p : Nat × Coll) => (p.1, { p.2 with members := p.2.members.map member }) }

/-- What waits for page `n` goes on; groups whose frame was not written give its room back. -/
def State.supply (s : State) (dk n : Nat) (fail : Option (Nat × Nat)) : State :=
  let freed := s.allGroups.filter fun g => g.dk = dk && g.status == .paging n
  (freed.foldl (fun s g => s.poolGive dk (groupFrame g.key)) s).wake dk n fail

/-- Write to PRQ.DONE: every group and engine request waiting on the request goes on; an unknown number is ignored (R340). -/
def State.prqDone (s : State) (dk req : Nat) : State :=
  let d := s.die dk
  if d.pages.any fun p => p.req = req && p.posted then
    (s.setDie dk { d with pages := d.pages.filter fun p => p.req != req }).supply dk req none
  else s

/-! ### Migration (R345) -/

/-- Size of a migration by MIG.CTL.SIZE. -/
def migSize (ctl : Nat) : Nat := if bits ctl 1 1 = 1 then 2 ^ 28 else 2 ^ 16

/-- RESULT of MIG.STAT. -/
def State.migResult (s : State) (dk r : Nat) : State := s.setDev dk 0x005C (BitVec.ofNat 64 (r * 16))

/-- The entry stands in a level 2 table of some address space of the die: as a leaf it maps 1 TiB (Table 10-4). -/
def State.tableAt2 (s : State) (dk pte : Nat) : Bool :=
  (List.range (bits (s.dev dk 0x0008).toNat 12 0)).any fun asn =>
    let a := s.rdN (s.spaceEntry dk asn) 8
    a % 2 == 1 && (List.range 1024).any fun i =>
      let e := s.rdN (bits a 53 16 * 65536 + 16 * i) 8
      e % 2 == 1 && bits e 8 7 == 0 && decide (bits e 53 16 * 65536 ≤ pte) && decide (pte < bits e 53 16 * 65536 + 1024)

/-- The leaf at the entry is valid, HOME 0, of a page that can be migrated (R346), and maps the source frame. The spec does not say
what a MIG.CTL.SIZE that is not the size of that page does: the migration starts. DESIGN CHOICE: log entry 88. -/
def State.migLeafOk (s : State) (pte src bytes : Nat) : Bool :=
  let lo := s.rdN pte 8
  tableOk pte && bits lo 0 0 == 1 && bits lo 8 7 == 1 && bits lo 10 9 == 0 &&
  decide (bits lo 53 16 * 65536 = src) && decide (src % bytes = 0) &&
  !(src % 2 ^ 40 == 0 && s.tableAt2 (gaDie src) pte)

/-- MIG.CTL written with GO (R345): the migration starts, or RESULT becomes 3. -/
def State.migGo (s : State) (dk v : Nat) : State :=
  let d := s.die dk
  if d.mig.isSome then s
  else
    let s := s.setDev dk 0x0058 (BitVec.ofNat 64 (v / 2 % 2 * 2))
    if v % 2 = 0 then s
    else
      let src := bits (s.dev dk 0x0040).toNat 53 16 * 65536
      let dst := bits (s.dev dk 0x0048).toNat 53 16 * 65536
      let pte := bits (s.dev dk 0x0050).toNat 53 4 * 16
      let n := migSize v
      let ok := tableOk src && tableOk dst && gaDie src == dk && decide (src % n = 0) && decide (dst % n = 0) &&
        tableOk (src + n - 1) && tableOk (dst + n - 1) && s.migLeafOk pte src n && s.reachable dk (gaPkg dst)
      if ok then
        let s := s.migResult dk 0
        s.setDie dk { s.die dk with mig := some ⟨1, src, dst, pte, n, BitVec.ofNat 64 (s.rdN pte 8), s.cycle⟩ }
      else s.migResult dk 3

/-- The addresses of the source page, and of the destination page, of a migration. -/
def Migration.ofSrc (m : Migration) (ga : Nat) : Bool := decide (m.src ≤ ga) && decide (ga < m.src + m.bytes)
def Migration.ofDst (m : Migration) (ga : Nat) : Bool := decide (m.dst ≤ ga) && decide (ga < m.dst + m.bytes)

/-- A die has declared the cell of a package dead (R424). -/
def State.declared (s : State) (dk p : Nat) : Bool :=
  match s.cellOf dk p with
  | some c => p != dk / 4 && (s.dev dk 0x0808).getLsbD c
  | none => false

/-- Accesses to the address wait behind a migration (R345): at the source until the leaf names the destination, from then on at
the destination, which holds direct arrivals until it has declared the source's cell dead (R427). DESIGN CHOICE: log entry 48. -/
def State.blocked (s : State) (ga : Nat) : Bool :=
  s.dies.any fun d =>
    match d.2.mig with
    | some m => (m.ofSrc ga && decide (m.phase ≤ 3)) ||
        (m.ofDst ga && decide (4 ≤ m.phase) && !s.declared (gaDie m.dst) (gaPkg m.src))
    | none => false

/-- The line is one of a page under migration: its directory state is B (R405). -/
def State.inMove (s : State) (ga : Nat) : Bool :=
  s.dies.any fun d =>
    match d.2.mig with
    | some m => m.ofSrc ga
    | none => false

/-! ### Buckets (R321 to R323) -/

/-- The slices of a die that were good at its reset, ascending (R323). -/
def State.goodSlices (s : State) (dk : Nat) : List Nat := (List.range 192).filter fun n => !s.sliceFused dk n

/-- BUCKET[b].SLICE: as moved, else the reset assignment (R323). -/
def State.bucket (s : State) (dk b : Nat) : Nat :=
  match Store.find (0x4000 + 4 * b) (s.die dk).regs with
  | some v => v.toNat % 256
  | none =>
    let good := s.goodSlices dk
    (good[b % good.length]?).getD 0

/-- A write to a BUCKET entry asks for a move; a slice that the fuses mark bad sets REB.STAT.BADW (R322, R323). -/
def State.bucketWrite (s : State) (dk b v : Nat) : State :=
  let sl := v % 256
  if 191 < sl ∨ s.sliceFused dk sl then s.setDev dk 0x0064 (s.dev dk 0x0064 ||| 1)
  else
    let d := s.die dk
    s.setDie dk { d with reb := d.reb ++ [(b, sl)] }

/-! ### Identity, recovery, firewall (R402, R416, R423, R431) -/

/-- GAL.ID: the first write with V = 1 locks the register (R402). -/
def State.galIdWrite (s : State) (dk v : Nat) : State :=
  if (s.dev dk 0x0800).getLsbD 31 then s
  else s.setDev dk 0x0800 (BitVec.ofNat 64 (bits v 9 0 + bits v 21 16 * 2 ^ 16 + bits v 31 31 * 2 ^ 31))

/-- The key that stands for no group: the issuer has faulted since. -/
def noGroup : Nat := 15

/-- A package lies in a cell by the cell map of a die. -/
def State.inCell (s : State) (dk c p : Nat) : Bool := s.cellOf dk p == some c

/-- A request from a package of a cell that its home has just declared dead (Table 13-5): a write notice that had arrived has been
recorded, whatever the home has not granted is discarded, and an atomic or uncached write is performed or not as it stood. -/
def Txn.fenced (t : Txn) : Txn :=
  if (t.phase = 0 ∧ t.seq.isSome) ∨ ((t.op = 7 ∨ t.op = 9) ∧ (t.phase = 1 ∨ t.phase = 6 ∨ t.phase = 7)) then
    { t with phase := 8, grant := 9, ask := none }
  else t

/-- From the moment a cell is declared dead (R424): the die drops copies of lines homed in it, accesses that a migration from it holds
here, and what the cell has asked of it; its transactions toward the cell fault at once. -/
def State.fenceCell (s : State) (dk c : Nat) : State :=
  let p := dk / 4
  let away := fun line => s.inCell dk c (gaPkg (line * 128))
  let here := fun (t : Txn) => gaDie t.ga == dk && s.inCell dk c t.src && t.src != p
  let told := (s.txns.filter fun t => here t.2 && t.2.op == 4 && t.2.phase == 0 && t.2.seq.isSome).map fun t => (t.2.ga / 128, t.2.src)
  let held := fun (t : Txn) => s.dies.any fun d =>
    match d.2.mig with
    | some m => s.inCell dk c (gaPkg m.src) && gaDie m.dst == dk && m.ofDst t.ga && decide (4 ≤ m.phase) && t.phase == 0
    | none => false
  { s with
    dir := s.dir.map fun (e : Nat × Dir) =>
      if e.2.state = 2 ∧ told.contains (e.1, e.2.owner) then (e.1, { e.2 with state := 4 }) else e
    held := s.held.filter fun e => !(e.1 % 1024 = p && away (e.1 / 1024))
    inner := s.inner.filter fun e => !(unitDie (e.1 % 2 ^ 20) / 4 = p && away (e.1 / 2 ^ 20))
    txns := s.txns.map fun (t : Nat × Txn) =>
      if t.2.gk ≠ noGroup ∧ (s.group t.2.gk).dk = dk ∧ s.inCell dk c (gaPkg t.2.ga) ∧ (t.2.phase < 2 ∨ t.2.phase = 8) then
        (t.1, { t.2 with phase := 5 })
      else if here t.2 then (t.1, t.2.fenced)
      else if held t.2 then (t.1, { t.2 with phase := 8, grant := 9 })
      else t }

/-- REC.DECLARE (R423 to R425). -/
def State.recDeclare (s : State) (dk v : Nat) : State :=
  let c := v % 64
  if bits v 31 6 ≠ 0 ∨ ((s.dev dk 0x0800).getLsbD 31 ∧ c = s.myCell dk) ∨ (s.dev dk 0x0808).getLsbD c then s
  else
    let s := (s.setDev dk 0x0808 (s.dev dk 0x0808 ||| BitVec.twoPow 64 c)).fenceCell dk c
    let d := s.die dk
    if d.recov.phase = 0 then s.setDie dk { d with recov := { d.recov with phase := 1, cell := c, lost := 0 } }
    else s.setDie dk { d with recov := { d.recov with queue := d.recov.queue ++ [c] } }

/-- REC.READMIT (R431). -/
def State.recReadmit (s : State) (dk v : Nat) : State :=
  let c := v % 64
  let r := (s.die dk).recov
  if bits v 31 6 ≠ 0 ∨ !(s.dev dk 0x0808).getLsbD c ∨ ((s.dev dk 0x0800).getLsbD 31 ∧ c = s.myCell dk) ∨
      (r.phase ≠ 0 ∧ r.cell = c) ∨ r.queue.contains c then s
  else s.setDev dk 0x0808 (s.dev dk 0x0808 &&& ~~~BitVec.twoPow 64 c)

/-- Key of what a package holds of a line. -/
def heldKey (line pkg : Nat) : Nat := line * 1024 + pkg

def State.heldBy (s : State) (line pkg : Nat) : Nat := Store.get (fun _ => 0) s.held (heldKey line pkg)

def State.setHeld (s : State) (line pkg st : Nat) : State := { s with held := Store.put (fun _ => 0) (heldKey line pkg) st s.held }

def Dir.none : Dir := ⟨0, 0, 0⟩

def State.dirAt (s : State) (line : Nat) : Dir := Store.get (fun _ => Dir.none) s.dir line

def State.setDir (s : State) (line : Nat) (d : Dir) : State := { s with dir := Store.put (fun _ => Dir.none) line d s.dir }

/-- A package from which no answer comes to the home of a line: it has lost power, or the home does not reach it. -/
def State.mute (s : State) (line p : Nat) : Bool :=
  (s.pkg p).dead || !s.reachable (gaDie (line * 128)) p || !s.hears (gaDie (line * 128)) p || !s.srcOk (gaDie (line * 128)) p

/-- The packages that the CELLMAP of a die places in a cell (R411): of the entries that are listed. -/
def State.cellPackages (s : State) (dk c : Nat) : List Nat :=
  ((s.die dk).regs.filter fun r => 0x0C00 ≤ r.1 && decide (r.1 < 0x1000) && r.1 % 4 == 0).flatMap fun r =>
    (List.range 4).filterMap fun j =>
      let p := r.1 - 0x0C00 + j
      if s.cellOf dk p = some c then some p else none

/-- The packages of every cell of a vector, but the line's home (R411). -/
def State.vectorPackages (s : State) (dk : Nat) (cells : BitVec 64) : List Nat :=
  if cells = 0 then []
  else ((List.range 64).filter cells.getLsbD).flatMap fun c => (s.cellPackages dk c).filter (· != dk / 4)

/-- Some package of the cell of the line's owner gives no answer to a recall (R411). -/
def State.ownerMute (s : State) (line : Nat) : Bool :=
  let d := s.dirAt line
  let dk := gaDie (line * 128)
  decide (2 ≤ d.state) &&
  (s.mute line d.owner ||
    match s.cellOf dk d.owner with
    | some c => (s.vectorPackages dk (BitVec.twoPow 64 c)).any (s.mute line)
    | none => false)

/-- The copy requests of teams, and those of the parser's copy clauses, with their dies. -/
def State.copyReqs (s : State) : List (Nat × CopyReq) :=
  (s.teams.flatMap fun t => t.2.queues.toList.flatMap fun q => q.reqs.map fun r => (t.2.dk, r)) ++
  s.dies.flatMap fun d => d.2.runs.flatMap fun r => r.copy.map fun c => (d.1, c)

/-- A copy engine owns part of the line (R311). -/
def State.engineOwns (s : State) (line : Nat) : Bool :=
  s.copyReqs.any fun r => r.2.units.any fun u =>
    u.home != 4 && decide (u.ga < 128 * (line + 1)) && decide (128 * line < u.ga + u.len)

/-- Bits that a write of a firewall register stores (Table 13-6). -/
def firewallMask (off : Nat) : Nat :=
  if off = 0x0830 then 2 ^ 64 - 1
  else match off % 32 with
    | 0 => bits (2 ^ 64 - 1) 35 16 * 65536
    | 8 => bits (2 ^ 64 - 1) 36 16 * 65536
    | 16 => 2 ^ 64 - 1
    | _ => 1

/-- The lines of a die that a package of a cell without permission, outside the home package, holds in E, O or M. -/
def State.unpermitted (s : State) (dk : Nat) : List (Nat × Dir) :=
  s.dir.filter fun p => gaDie (p.1 * 128) == dk && decide (2 ≤ p.2.state) && decide (p.2.state ≤ 4) &&
    !s.firewall (p.1 * 128) ((s.cellOf dk p.2.owner).getD 0)

/-- The lines of a die that its own package, without permission, holds in E, O or M (R406). -/
def State.unpermittedHome (s : State) (dk : Nat) : List Nat :=
  ((s.inner.filter fun e => decide (2 ≤ e.2) && unitDie (e.1 % 2 ^ 20) / 4 == dk / 4).map fun e => e.1 / 2 ^ 20).eraseDups.filter
    fun l => gaDie (l * 128) == dk && gaRegion (l * 128) == 0 && !s.firewall (l * 128) (s.myCell dk)

/-- An atomic or uncached write that the home has let pass, from a package without permission now, is still to be performed. -/
def State.takesUnpermitted (s : State) (dk : Nat) : Bool :=
  s.txns.any fun t => (t.2.op == 7 || t.2.op == 9) && (t.2.phase == 1 || t.2.phase == 6 || t.2.phase == 7) && decide (t.2.grant < 5) &&
    gaDie t.2.ga == dk && gaRegion t.2.ga == 0 && !(s.pkg t.2.src).dead && !s.firewall t.2.ga ((s.cellOf dk t.2.src).getD 0)

/-- Started copy requests, but those that a key checks (R241), still write to lines of a die without permission. -/
def State.engineUnpermitted (s : State) (dk : Nat) : Bool :=
  s.copyReqs.any fun r => r.2.started && r.2.kind != .cpyk && r.2.units.any fun u =>
    u.home != 4 && gaRegion u.ga == 0 && gaDie u.ga == dk && !s.firewall u.ga (s.myCell r.1)

/-- A write of a firewall register of a die that has not completed, as one step (R416): every line that a cell may no longer own is
recalled to S, its data written back. While an owner gives no answer, or a copy engine or an atomic still writes such a line, the
register stays as it was. Writes of other registers do not wait for it; one to the same register that completes first takes its
place. DEDUCED: log entry 36. -/
def State.firewallStep (s : State) (dk : Nat) (w : Nat × Nat) : State :=
  let ws := (s.die dk).fwPend
  match ws.findIdx? (· == w) with
  | some n =>
    let t := s.setDie dk { s.die dk with fwPend := (ws.take n).filter (fun x => x.1 != w.1) ++ ws.drop (n + 1) }
    let t := t.setDev dk w.1 (BitVec.ofNat 64 (w.2 &&& firewallMask w.1))
    if ((t.unpermitted dk).any fun p => t.ownerMute p.1) ∨ t.engineUnpermitted dk ∨ t.takesUnpermitted dk then s
    else
      let t := t.drainWhere fun p => gaDie p.ga == dk && gaRegion p.ga == 0
      let t := (t.unpermittedHome dk).foldl (fun s l => s.homeShared l) t
      (t.unpermitted dk).foldl (fun s p =>
        ((s.setDir p.1 { p.2 with state := 1, owner := 0 }).setHeld p.1 p.2.owner (if s.heldBy p.1 p.2.owner = 0 then 0 else 1)).shareAll p.1) t
  | none => s

/-- The writes of firewall registers of a die that can complete do so. -/
def State.firewallGo (s : State) (dk : Nat) : State := (s.die dk).fwPend.foldl (fun s w => s.firewallStep dk w) s

/-- A firewall register written (R416): the write completes at once, or waits behind those before it and for the lines that it takes
permission from. -/
def State.firewallWrite (s : State) (dk off v : Nat) : State :=
  let d := s.die dk
  (s.setDie dk { d with fwPend := d.fwPend ++ [(off, v)] }).firewallGo dk

/-- RDIR.Q: a snapshot of the line's home state (R433); of a poisoned line that a package has taken by GetM, the entry (Table 13-2).
An address of this die that is no DRAM has no line: it reads STATE 7 as well. DESIGN CHOICE: log entry 84. -/
def State.rdirQuery (s : State) (dk v : Nat) : State :=
  let ga := bits v 53 7 * 128
  let line := ga / 128
  let s := s.setDev dk 0x0838 (BitVec.ofNat 64 ga)
  if gaDie ga ≠ dk ∨ gaRegion ga ≠ 0 then (s.setDev dk 0x0840 0).setDev dk 0x0848 7
  else
    let d := s.dirAt line
    let st := if s.isPoison line ∧ d.state = 0 then 5 else d.state
    let blk := s.inMove ga
    let e1 := (if blk then 6 else st) + (if blk then st * 8 else 0) + (if st = 5 then 0 else d.owner * 64) +
      (if d.state ≠ 0 ∧ st ≠ 5 then 2 ^ 16 else 0) + bits ga 35 7 * 2 ^ 17
    (s.setDev dk 0x0840 (if st = 5 then 0 else d.cells)).setDev dk 0x0848 (BitVec.ofNat 64 e1)

/-! ### Links (R384, R418) -/

/-- The die on the other side of edge `e` (R381). -/
def edgePeer (dk e : Nat) : Nat :=
  let d := dk % 4
  dk / 4 * 4 + (if e = 0 then (if d % 2 = 0 then d + 1 else d - 1) else (if d < 2 then d + 2 else d - 2))

def State.edgeUpdate (s : State) (dk e : Nat) (f : Link → Link) : State :=
  let one := fun (s : State) (k : Nat) =>
    let d := s.die k
    s.setDie k { d with edges := d.edges.mapFinIdx fun i l _ => if i = e % 2 then f l else l }
  one (one s dk) (edgePeer dk e)

/-- D2D.CTL written: RETRAIN starts an attempt (R384). -/
def State.d2dRetrain (s : State) (dk e v : Nat) : State :=
  if v % 2 = 1 then s.edgeUpdate dk e fun l => { l with training := true } else s

/-- FAB.CTL written: RETRAIN starts an attempt at each port named (R418). -/
def State.fabRetrain (s : State) (dk v : Nat) : State :=
  let d := s.die dk
  s.setDie dk { d with ports := d.ports.mapFinIdx fun i l _ => if v.testBit i then { l with training := true } else l }

/-- One retrain ended (R384, R418): success resets the count of failures, three failures in succession take the link down. After a
first or second failure the spec does not say what the link does: it is in service again here, and no attempt follows by itself.
DESIGN CHOICE: log entry 82. -/
def Link.retrained (l : Link) (ok : Bool) : Link :=
  if ok then { l with up := true, training := false, failed := 0, retrains := l.retrains + 1 }
  else
    let n := l.failed + 1
    { l with training := false, failed := if n < 3 then n else 0, retrains := l.retrains + 1, up := l.up && decide (n < 3) }

/-! ### Team stops (R459, R460) -/

def State.dbgState (s : State) (dk : Nat) : Nat := (s.dev dk 0x0A1C).toNat
def State.setDbg (s : State) (dk v : Nat) : State := s.setDev dk 0x0A1C (BitVec.ofNat 64 v)

/-- The live team or bin group of the die that matches DBG.LID and DBG.TIDX. -/
def State.dbgFind (s : State) (dk : Nat) (bin : Bool) : Option Nat :=
  (s.teams.find? fun p => p.2.dk = dk && p.2.status != .retired && (p.2.kind == .bin) == bin && p.2.kind != .supervisor &&
    p.2.tidx == s.dev dk 0x0A08 &&
    (match Store.find p.2.lk s.launches with
      | some l => l.lid.zeroExtend 64 == s.dev dk 0x0A00
      | none => false)).map (·.1)

/-- OP 1 (R460). -/
def State.dbgStop (s : State) (dk v : Nat) : State :=
  if s.dbgState dk = 0 ∨ s.dbgState dk = 4 then
    match s.dbgFind dk (v.testBit 4) with
    | some tid => (s.setDie dk { s.die dk with dbgTeam := tid, dbgFull := v.testBit 3, dbgStep := none }).setDbg dk 1
    | none => s.setDbg dk 4
  else s

/-- OP 2. -/
def State.dbgAttach (s : State) (dk : Nat) : State := if s.dbgState dk = 2 then s.setDbg dk 3 else s

/-- The instruction of a group has begun an access that is not answered: it is not executed yet. -/
def Wait.begun (w : Wait) : Bool :=
  match w with
  | .txn => true
  | .owned => true
  | .page _ => true
  | _ => false

/-- A group that a step of a held team moves: it is not waiting, or an access of its instruction has begun (R460). -/
def Group.steps (g : Group) : Bool := g.status == .live && (g.wait == .none || g.wait.begun)

/-- OP 3: every held group that is not waiting executes its next instruction, then the team stops again. -/
def State.dbgStepOp (s : State) (dk : Nat) : State :=
  if s.dbgState dk = 3 then
    let d := s.die dk
    let ks := ((s.teamGroups d.dbgTeam).filter Group.steps).map Group.key
    s.setDie dk { d with dbgStep := some ks }
  else s

/-- OP 4, and the passing of the hold limit. -/
def State.dbgResume (s : State) (dk : Nat) : State :=
  if s.dbgState dk = 2 ∨ s.dbgState dk = 3 then
    let tid := (s.die dk).dbgTeam
    let s := if (s.team tid).status = .retired then s else s.setTeam tid { s.team tid with held := false }
    (s.unsyncTeam tid).setDbg dk 0
  else s

/-- OP 5. -/
def State.dbgTerminate (s : State) (dk : Nat) : State :=
  if s.dbgState dk = 2 ∨ s.dbgState dk = 3 then
    let tid := (s.die dk).dbgTeam
    let t := s.team tid
    let u := s.unitWord dk t.core (s.group (16 * tid)).part (s.group (16 * tid)).slot 1
    (s.killTeam tid (some ⟨1, 0, 10, 2, u, 0⟩)).setDbg dk 0
  else s

/-- DBG.CTL written. -/
def State.dbgCtl (s : State) (dk v : Nat) : State :=
  match v % 8 with
  | 1 => s.dbgStop dk v
  | 2 => s.dbgAttach dk
  | 3 => s.dbgStepOp dk
  | 4 => s.dbgResume dk
  | 5 => s.dbgTerminate dk
  | _ => s

end Sys2Proof.Machine
end

