-- ==== Sys2Proof/Machine/Devices.lean ====
section
/-! DEFINITION. The device registers of region 0xF (Tables 10-10, 11-8, 12-6, 13-6, 14-6, 15-4): widths, reads and writes
(R347, R404, R441). -/

namespace Sys2Proof.Machine

/-- Width in bytes of the register at an offset, where the tables list one. -/
def devWidth (off : Nat) : Option Nat :=
  if off ≤ 0x0064 then
    if [0x0000, 0x0010, 0x0020, 0x0040, 0x0048, 0x0050].contains off then some 8
    else if [0x0008, 0x0018, 0x001C, 0x0028, 0x0058, 0x005C, 0x0060, 0x0064].contains off then some 4 else none
  else if 0x0100 ≤ off ∧ off < 0x0300 then
    if off % 32 = 0 ∨ off % 32 = 8 then some 8 else if off % 32 = 16 then some 4 else none
  else if off < 0x0400 then
    if off = 0x0300 then some 8
    else if [0x0308, 0x0310, 0x0314, 0x0320, 0x0324, 0x0328, 0x032C].contains off then some 4 else none
  else if off < 0x0800 then
    if [0x0400, 0x0408, 0x0410].contains off then some 8
    else if [0x0418, 0x041C, 0x0420].contains off then some 4 else none
  else if off < 0x0C00 then
    if [0x0808, 0x0820, 0x0830, 0x0838, 0x0840, 0x0848, 0x0908, 0x0920, 0x0928, 0x0930, 0x0938, 0x0A08, 0x0A10].contains off
    then some 8
    else if [0x0800, 0x0810, 0x0814, 0x0818, 0x0828, 0x082C, 0x0850, 0x0854, 0x0900, 0x0910, 0x0A00, 0x0A18, 0x0A1C,
      0x0A20].contains off then some 4 else none
  else if off < 0x1000 then (if off % 4 = 0 then some 4 else none)
  else if off < 0x3000 then
    if off % 32 = 24 then some 4 else if off % 8 = 0 then some 8 else none
  else if off < 0x4000 then (if off % 4 = 0 then some 4 else none)
  else if off < 0x8000 then (if off % 4 = 0 then some 4 else none)
  else none

/-- An access of `n` bytes at an offset is one that R347 allows. -/
def devOk (off n : Nat) : Bool :=
  (n == 4 || n == 8) && off % n == 0 &&
  (if n = 8 then (devWidth off != some 4) && (devWidth (off + 4) != some 4)
   else devWidth off != some 8 && !(off % 8 == 4 && devWidth (off - 4) == some 8))

/-- D2D.STAT of a die edge (Table 12-6). -/
def linkStat (l : Link) : Nat := (if l.up then 1 else 0) + l.retrains % 256 * 256 + l.replays % 65536 * 65536

/-- FRAME.USED, REB.STAT, SCHED.STAT and the other registers that show a unit's state; else the register as held. -/
def State.devRead (s : State) (dk off : Nat) : Nat :=
  let d := s.die dk
  match off with
  | 0x001C => 0
  | 0x0058 => (s.dev dk off).toNat
  | 0x005C => (s.dev dk off).toNat + (if d.mig.isSome then 1 else 0)
  | 0x0324 => linkStat d.edges[0]
  | 0x032C => linkStat d.edges[1]
  | 0x0320 => 0
  | 0x0328 => 0
  | 0x0410 => d.used
  | 0x0420 => d.launches.length % 64 + (s.dev dk off).toNat
  | 0x0810 => 0
  | 0x0814 => 0
  | 0x0818 => d.recov.phase + (if d.recov.phase = 0 then 0 else d.recov.cell * 256) + d.recov.queue.length % 64 * 65536
  | 0x0850 => (List.range 6).foldl (fun n i => n + (if ((d.ports[i]?).map (·.up)).getD false then 2 ^ i else 0))
      (bits (s.dev dk off).toNat 31 16 * 65536)
  | 0x0854 => 0
  | 0x0A18 => 0
  | _ => if 0x4000 ≤ off ∧ off < 0x8000 then s.bucket dk ((off - 0x4000) / 4) else (s.dev dk off).toNat
/-- Bits of a register that a write stores; none for a read-only or write-only register. -/
def devMask (dk off : Nat) : Nat :=
  match off with
  | 0x0000 => 0x3FFFFFFFFF0000
  | 0x0008 => 0x1FFF
  | 0x0010 => 0x3FFFFFFFFFF000
  | 0x0018 => 0x1FFF
  | 0x0020 => if dk % 4 = 0 then 0x3FFFFFFFFFF000 else 0
  | 0x0028 => if dk % 4 = 0 then 0x1FFFFF else 0
  | 0x0040 => 0x3FFFFFFFFF0000
  | 0x0048 => 0x3FFFFFFFFF0000
  | 0x0050 => 0x3FFFFFFFFFFFF0
  | 0x0060 => 0xFFFFFFF1
  | 0x0300 => 0x3FFFFFFFFFF000
  | 0x0308 => 0x1FFF
  | 0x0310 => 0xFFFFFFFF
  | 0x0400 => 0x3FFFFFFFFF0000
  | 0x0408 => 0xFFFFFFFF0000
  | 0x0418 => 0xFFFF
  | 0x0828 => 0x1F
  | 0x0900 => if dk % 4 = 0 then 0x7F else 0
  | 0x0908 => if dk % 4 = 0 then 0x3FFFFFFFFFF000 else 0
  | 0x0910 => if dk % 4 = 0 then 0x1FFF else 0
  | 0x0A00 => 0xFFFFFFFF
  | 0x0A08 => 0xFFFFFFFFFFFF
  | 0x0A10 => 0x3FFFFFFFFFFF80
  | 0x0A20 => 0xFFFF
  | _ =>
    if 0x0100 ≤ off ∧ off < 0x0300 then (if off % 32 = 16 then 0xFFFFFF else 0xFFFFFFFFFFF000)
    else if 0x0C00 ≤ off ∧ off < 0x1000 then 0xBFBFBFBF
    else if 0x3000 ≤ off ∧ off < 0x4000 then 0xFFFFFF
    else 0

/-- The register belongs to the identity, cell map, firewall, recovery, route and timeout registers (R404). -/
def devOwn (off : Nat) : Bool :=
  (decide (0x0800 ≤ off) && decide (off < 0x0900) && off != 0x0838 && off != 0x0854) ||
  (decide (0x0C00 ≤ off) && decide (off < 0x4000))

/-- The register belongs to the locked set of the TDI (R441). -/
def devLocked (off : Nat) : Bool := (decide (0x0100 ≤ off) && decide (off < 0x0300)) || off == 0x0900

/-- A write of value `v` to the register at an offset, by an agent of package `from_` (R347): stored bits, then what the
register starts. -/
def State.devStore (s : State) (dk off v : Nat) : State :=
  let d := s.die dk
  let keep := fun (_ : Unit) => s.setDev dk off (BitVec.ofNat 64 (v &&& devMask dk off))
  match off with
  | 0x001C => s.prqDone dk (v % 2 ^ 32)
  | 0x0040 => if d.mig.isSome then s else keep ()
  | 0x0048 => if d.mig.isSome then s else keep ()
  | 0x0050 => if d.mig.isSome then s else keep ()
  | 0x0058 => s.migGo dk v
  | 0x0064 => if v % 2 = 1 then s.setDev dk off (s.dev dk off &&& ~~~1#64) else s
  | 0x0320 => s.d2dRetrain dk 0 v
  | 0x0328 => s.d2dRetrain dk 1 v
  | 0x0400 => if d.used ≠ 0 then s else keep ()
  | 0x0408 => if d.used ≠ 0 then s else keep ()
  | 0x041C =>
    let sup := if v % 256 = 0 then 1 else v % 256
    if 2 ^ 20 < 4096 * sup + 65536 * bits v 12 8 then s else s.setDev dk off (BitVec.ofNat 64 (bits v 12 0))
  | 0x0420 => if v.testBit 8 then s.setDev dk off 0 else s
  | 0x0800 => s.galIdWrite dk v
  | 0x0810 => s.recDeclare dk (v % 2 ^ 32)
  | 0x0814 => s.recReadmit dk (v % 2 ^ 32)
  | 0x0830 => s.firewallWrite dk off v
  | 0x0838 => s.rdirQuery dk v
  | 0x0854 => s.fabRetrain dk v
  | 0x0A18 => s.dbgCtl dk v
  | _ =>
    if 0x1000 ≤ off ∧ off < 0x3000 then s.firewallWrite dk off v
    else if 0x4000 ≤ off ∧ off < 0x8000 then s.bucketWrite dk ((off - 0x4000) / 4) v
    else if devMask dk off = 0 then s
    else keep ()

/-- A register write from package `p`: none of the own-package registers from outside (R404), the locked set by the TDI's
state (R441). -/
def State.devWrite (s : State) (p dk off v : Nat) : State :=
  let k := s.pkg (dk / 4)
  if (devWidth off).isNone then s
  else if devOwn off ∧ p ≠ dk / 4 then s
  else if devLocked off ∧ k.tdi = 3 then s
  else if devLocked off ∧ (k.tdi = 1 ∨ k.tdi = 2) then s.setPkg (dk / 4) { k with tdi := 3 }
  else s.devStore dk off v

end Sys2Proof.Machine
end

