-- ==== Sys2Proof/Machine/Operands.lean ====
section
/-! DEFINITION. Operand forms: the registers that an instruction names and the checks on them (R15, R16, R46, R58, R59), the
`ext` payloads (R63), the immediates (R61), and the ways a lane and a uniform instruction read and write (R17, R155). -/

namespace Sys2Proof.Machine

/-- Registers named by one operand: `count` from `base`, whose base must be a multiple of `align` and not v0 when above 1. -/
structure Opnd where
  base : Nat
  count : Nat
  align : Nat
  deriving DecidableEq, Repr

def one (r : Reg) : Opnd := ⟨r.toNat, 1, 1⟩
def pair (r : Reg) : Opnd := ⟨r.toNat, 2, 2⟩
def quad (r : Reg) : Opnd := ⟨r.toNat, 4, 4⟩

/-- The operand names a register at or above the budget (R16). -/
def Opnd.over (o : Opnd) (budget : Nat) : Bool := decide (budget < o.base + o.count)

/-- The base of a pair or wider operand is misaligned or v0 (R15). -/
def Opnd.misaligned (o : Opnd) : Bool := decide (1 < o.align) && (decide (o.base % o.align ≠ 0) || decide (o.base = 0))

/-- The lowest illegal fault code that holds (R46, Table 1-12): 2 for `bad`, 4 and 5 for the operands, then `more` (codes 6 to
8, ascending). -/
def illegalCode (g : Group) (bad : Bool) (ops : List Opnd) (more : List (Nat × Bool)) : Option Nat :=
  if bad then some 2
  else if ops.any (·.over g.budget) then some 4
  else if ops.any (·.misaligned) then some 5
  else (more.find? (·.2)).map (·.1)

/-- Columns of the result of a matrix operation (Table 7-1). -/
def MatOp.cols (m : MatOp) : Nat := if m.op < 0x56 then 16 else 64

/-- The operand overlaps a destination of an issued matrix operation (R214). -/
def Group.hazard (g : Group) (ops : List Opnd) : Bool :=
  g.mat.any fun m => ops.any fun o => decide (o.base < m.d + m.cols) && decide (m.d < o.base + o.count)

/-- The operand overlaps a destination of a load whose value is still to be taken (R305). -/
def Group.loading (g : Group) (ops : List Opnd) : Bool :=
  g.mo.loads.any fun h => ops.any fun o => decide (o.base < h.d + h.cnt) && decide (h.d < o.base + o.count)

/-- Bytes of the instruction: an `ext` pair has eight (R55, R63). -/
def Instr.size (i : Instr) : Nat := if i.extOf.isSome then 8 else 4

/-- The illegal fault of an instruction: TRAP.INFO holds its word and its `ext` word (Table 1-10). -/
def illegalTrap (i : Instr) (code : Nat) : Trap := ⟨1, code, none, false, 0, i.extWord ++ i.word, 0⟩

/-- The instruction has completed: the pc moves past it. -/
def State.advance (s : State) (i : Instr) : State :=
  { s with g := { s.g with pc := s.g.pc + BitVec.ofNat 56 (Instr.size i), wait := .none } }

def done (i : Instr) (s : State) : Out := .next (s.advance i)

/-! ### ext payloads (Table 2-3) -/

/-- KIND of an accepted payload. -/
def extKind (x : Option (BitVec 24)) : Option (BitVec 2) := x.map fun p => p.extractLsb' 22 2

/-- Fourth register E of a kind 0b01 payload; v0 without one. -/
def extE (x : Option (BitVec 24)) : Reg := (x.map fun p => p.extractLsb' 0 7).getD 0

/-- SEL of a kind 0b01 payload; 0 without one. -/
def extSel (x : Option (BitVec 24)) : BitVec 3 := (x.map fun p => p.extractLsb' 7 3).getD 0

/-- A kind 0b01 payload breaks its zero rule; `sel` where SEL has a meaning. -/
def extBadE (x : Option (BitVec 24)) (sel : Bool) : Bool :=
  match x with
  | none => false
  | some p => p.extractLsb' 10 12 != 0#12 || (if sel then p.getLsbD 9 else p.extractLsb' 7 3 != 0#3)

/-- IMM of format I, extended by a kind 0b00 payload (R61). -/
def immI (sgn : Bool) (i : BitVec 10) (x : Option (BitVec 24)) : Word :=
  match x with
  | some p => p.extractLsb' 0 22 ++ i
  | none => if sgn then i.signExtend 32 else i.zeroExtend 32

/-- IMM of format L, and the zero rule on PAYLOAD[21:15]. -/
def immL (i : BitVec 17) (x : Option (BitVec 24)) : Word :=
  match x with
  | some p => p.extractLsb' 0 15 ++ i
  | none => i.signExtend 32

def extBadL (x : Option (BitVec 24)) : Bool :=
  match x with
  | some p => p.extractLsb' 15 7 != 0#7
  | none => false

/-- OFF of format P in bytes (R62). -/
def offP (o : BitVec 21) (x : Option (BitVec 24)) : BitVec 56 :=
  let off : BitVec 56 := match x with
    | some p => (p.extractLsb' 0 22 ++ o).signExtend 56
    | none => o.signExtend 56
  off <<< 2

/-! ### Modifier classes (Table 2-2) -/

/-- Class I with M[2] reserved, and further bits as given. -/
def badI (m : BitVec 3) (noSat noUns : Bool) : Bool :=
  m.getLsbD 2 || (noSat && m.getLsbD 0) || (noUns && m.getLsbD 1)

/-- Class C: values 6 and 7 are reserved. -/
def badC (m : BitVec 3) : Bool := 5#3 < m

/-- A lane integer value as class I gives it (R159): exact, then clamped or wrapped. -/
def intRes (m : BitVec 3) (x : Int) : Word := intFit 32 (m.getLsbD 1) (m.getLsbD 0) x

/-- A load's order may be rlx or acq, a store's rlx or rel (Table 2-9). -/
def badLoad (o : BitVec 2) : Bool := decide (2#2 ≤ o)
def badStore (o : BitVec 2) : Bool := o.getLsbD 0

/-- Scope 7 is reserved (R73). -/
def badScope (s : BitVec 3) : Bool := s == 7#3

/-- For `atom`, PAYLOAD[21:7] of a kind 0b10 prefix must be zero (Table 2-3). -/
def extBadAtom (x : Option (BitVec 24)) : Bool :=
  match x with
  | some p => p.extractLsb' 7 15 != 0#15
  | none => false

/-- The instruction has a reserved modifier, selector, order, scope or payload value: illegal fault code 2 (R59, R63,
Tables 2-2, 2-5, 2-7, 2-9). -/
def Instr.reserved (i : Instr) : Bool :=
  match i with
  | .add m _ _ _ => badI m false false
  | .sub m _ _ _ => badI m false false
  | .mul m _ _ _ => badI m false false
  | .mad m _ _ _ => badI m false false
  | .div m _ _ _ => badI m false false
  | .uadd m _ _ _ => badI m false false
  | .usub m _ _ _ => badI m false false
  | .umul m _ _ _ => badI m false false
  | .umad m _ _ _ => badI m false false
  | .udiv m _ _ _ => badI m false false
  | .add64 m _ _ _ => badI m false false
  | .sub64 m _ _ _ => badI m false false
  | .uadd64 m _ _ _ => badI m false false
  | .usub64 m _ _ _ => badI m false false
  | .mulh m _ _ _ => badI m true false
  | .rem m _ _ _ => badI m true false
  | .min m _ _ _ => badI m true false
  | .max m _ _ _ => badI m true false
  | .urem m _ _ _ => badI m true false
  | .umin m _ _ _ => badI m true false
  | .umax m _ _ _ => badI m true false
  | .abs m _ _ => badI m false true
  | .neg m _ _ => badI m false true
  | .cmp m _ _ _ => badC m
  | .cmp64 m _ _ _ => badC m
  | .ucmp m _ _ _ => badC m
  | .ucmp64 m _ _ _ => badC m
  | .cmpF32 m _ _ _ => badC m
  | .cmpF64 m _ _ _ => badC m
  | .cmpF16 m _ _ _ => badC m
  | .cmpBf16 m _ _ _ => badC m
  | .ucmpF32 m _ _ _ => badC m
  | .shfl m _ _ _ x => decide (4#3 ≤ m) || extBadE x false
  | .vote m _ _ _ => decide (3#3 ≤ m)
  | .sel _ _ _ x => extBadE x false
  | .usel _ _ _ x => extBadE x false
  | .perm _ _ _ x => extBadE x false
  | .cpy2d _ _ _ x => extBadE x false
  | .cpyk _ _ _ x => extBadE x false
  | .li _ _ x => extBadL x
  | .cvtToNarrow _ _ _ s t => decide (12#4 ≤ s) || t == 3#2
  | .ldS8 o s _ _ _ _ => badLoad o || badScope s
  | .ldN8 o s _ _ _ _ => badLoad o || badScope s
  | .ldS16 o s _ _ _ _ => badLoad o || badScope s
  | .ldN16 o s _ _ _ _ => badLoad o || badScope s
  | .ld32 o s _ _ _ _ => badLoad o || badScope s
  | .ld64 o s _ _ _ _ => badLoad o || badScope s
  | .ld128 o s _ _ _ _ => badLoad o || badScope s
  | .ldf o s _ _ _ _ => badLoad o || badScope s
  | .st8 o s _ _ _ _ => badStore o || badScope s
  | .st16 o s _ _ _ _ => badStore o || badScope s
  | .st32 o s _ _ _ _ => badStore o || badScope s
  | .st64 o s _ _ _ _ => badStore o || badScope s
  | .st128 o s _ _ _ _ => badStore o || badScope s
  | .stf o s _ _ _ _ => badStore o || badScope s
  | .ldc32 o _ _ _ _ => badLoad o
  | .ldc64 o _ _ _ _ => badLoad o
  | .ldc128 o _ _ _ _ => badLoad o
  | .ldcWK32 o _ _ _ _ => badLoad o
  | .ldcWK64 o _ _ _ _ => badLoad o
  | .ldcWK128 o _ _ _ _ => badLoad o
  | .ldcWC32 o _ _ _ _ => badLoad o
  | .ldcWC64 o _ _ _ _ => badLoad o
  | .ldcWC128 o _ _ _ _ => badLoad o
  | .stc32 o _ _ _ _ => badStore o
  | .stc64 o _ _ _ _ => badStore o
  | .stc128 o _ _ _ _ => badStore o
  | .stcF32 o _ _ _ _ => badStore o
  | .stcF64 o _ _ _ _ => badStore o
  | .stcF128 o _ _ _ _ => badStore o
  | .cwb s _ _ _ => badScope s
  | .cinv s _ _ _ => badScope s
  | .cflush s _ _ _ => badScope s
  | .pref s _ _ _ => badScope s
  | .atom32 _ s _ _ k x => badScope s || decide (10#5 ≤ k) || extBadAtom x
  | .atom64 _ s _ _ k x => badScope s || decide (10#5 ≤ k) || extBadAtom x
  | .atom128 _ s _ _ k x => badScope s || k != 9#5 || extBadAtom x
  | .mmas n _ _ _ _ x => n == 3#2 || extBadE x true
  | .mmaqs n _ _ _ _ x => n == 3#2 || extBadE x true
  | .mstat _ s => decide (2#7 ≤ s ∧ s < 16#7) || decide (32#7 ≤ s)
  | .fence _ s => badScope s
  | _ => false

/-- The operands are ready: no result in flight is among them, of a matrix operation (R214) or of a load; then `k`. -/
def ready (ops : List Opnd) (s : State) (k : Out) : Out :=
  if s.g.hazard ops then waitFor .matrix s else if s.g.loading ops then waitFor .txn s else k

/-- The checks of class 1, then the wait for results in flight (R214), then `k`. -/
def issue (i : Instr) (ops : List Opnd) (more : List (Nat × Bool)) (s : State) (k : Out) : Out :=
  match illegalCode s.g (Instr.reserved i) ops more with
  | some c => takeTrap (illegalTrap i c) s
  | none => ready ops s k

/-- The checks of class 1 of a lane memory instruction; with EXEC all zeros it has no effect and waits for nothing (R146, R183). -/
def issueLane (i : Instr) (ops : List Opnd) (more : List (Nat × Bool)) (s : State) (k : Out) : Out :=
  match illegalCode s.g (Instr.reserved i) ops more with
  | some c => takeTrap (illegalTrap i c) s
  | none => if s.g.exec = 0 then done i s else ready ops s k

/-- Registers written at the end of an instruction whose other effects are in `s`; `s0` is the state before it, to which the
register copy fault returns (R21). -/
def wbOn (i : Instr) (s0 s : State) (ws : List (Nat × Lanes)) : Out :=
  match s.putRegs ws with
  | some s' => done i s'
  | none => rowFault s0

/-- Registers written by an instruction without other effects. -/
def wb (i : Instr) (s : State) (ws : List (Nat × Lanes)) : Out := wbOn i s s ws

/-- The value of a register written in the lanes of EXEC only (R17). -/
def Group.laneVal (g : Group) (d : Nat) (f : Fin 128 → Word) : Lanes :=
  Lanes.tab fun i => if g.exec.getLsbD i.val then f i else (g.rd d)[i]

/-- A lane result in one register; nothing happens while EXEC is all zeros (R146). -/
def laneWb (i : Instr) (s : State) (d : Reg) (f : Fin 128 → Word) : Out :=
  if s.g.exec = 0 then done i s else wb i s [(d.toNat, s.g.laneVal d.toNat f)]

/-- A lane result in a pair (R15). -/
def laneWb64 (i : Instr) (s : State) (d : Reg) (f : Fin 128 → DWord) : Out :=
  if s.g.exec = 0 then done i s
  else wb i s [(d.toNat, s.g.laneVal d.toNat fun j => (f j).extractLsb' 0 32),
    (d.toNat + 1, s.g.laneVal (d.toNat + 1) fun j => (f j).extractLsb' 32 32)]

/-- The two registers that hold a 64-bit value in all lanes. -/
def uniPair (d : Nat) (v : DWord) : List (Nat × Lanes) :=
  [(d, Lanes.uni (v.extractLsb' 0 32)), (d + 1, Lanes.uni (v.extractLsb' 32 32))]

/-- A uniform result, written to all 128 lanes (R17). -/
def uniWb (i : Instr) (s : State) (d : Reg) (v : Word) : Out := wb i s [(d.toNat, Lanes.uni v)]

def uniWb64 (i : Instr) (s : State) (d : Reg) (v : DWord) : Out := wb i s (uniPair d.toNat v)

end Sys2Proof.Machine
end

