-- ==== Sys2Proof/Machine/Access.lean ====
section
/-! DEFINITION. The two stages of a lane memory access (R178): every active lane is checked, with the least fault reported
(R46, R179); lines held elsewhere are asked for (R410); only then is anything performed, piece by piece (R180, R181). -/

namespace Sys2Proof.Machine

/-- One lane's access: its pointer, the address and length of the bytes touched, and faults that the instruction itself finds
in it (class, code). -/
structure LaneReq where
  lane : Fin 128
  ptr : Nat
  at_ : Nat
  n : Nat
  more : List (Nat × Nat)
  deriving DecidableEq, Repr

/-- What an instruction does to memory: its access kind, the checks that apply, and whether an atomic's path to the host
carries it. -/
structure MemOp where
  kind : Kind
  /-- It moves data: the device-register rules and the poison rules apply (R347, R211). -/
  data : Bool
  /-- The tag check of R210 applies. -/
  tags : Bool
  /-- Host memory can carry the atomic (R202, R440). -/
  path : Bool
  /-- A uniform instruction's access, which concerns no lane. -/
  uni : Bool
  deriving DecidableEq, Repr

/-- A lane whose access has been translated. -/
structure LaneAcc where
  lane : Fin 128
  ptr : Nat
  ps : List Piece
  deriving DecidableEq, Repr

/-- A fault found: class, code, virtual and gallery address of the byte, and UNK (R421). -/
structure Hit where
  cls : Nat
  code : Nat
  va : Nat
  ga : Nat
  unk : Bool
  deriving DecidableEq, Repr

/-- The lane that a trap names. -/
def MemOp.lane (m : MemOp) (l : Fin 128) : Option Nat := if m.uni then none else some l.val

/-- The fault of lower class, then code. -/
def Hit.lesser (a b : Hit) : Hit := if b.cls < a.cls ∨ (b.cls = a.cls ∧ b.code < a.code) then b else a

def leastHit : List Hit → Option Hit
  | [] => none
  | h :: t =>
    match leastHit t with
    | some k => some (h.lesser k)
    | none => some h

/-- The trap of a fault in a lane (R179). -/
def Hit.trap (h : Hit) (k : Kind) (lane : Option Nat) (ptr : Nat) : Trap :=
  ⟨h.cls, h.code, lane, false, BitVec.ofNat 64 ptr,
    BitVec.ofNat 64 (k.code + (if h.cls = 4 then h.ga % 2 ^ 54 * 4 else 0) + (if h.unk then 2 ^ 56 else 0)), h.va⟩

/-- The trap of lower class, then code, then lane (R46). -/
def Trap.lesser (a b : Trap) : Trap :=
  if b.cls < a.cls ∨ (b.cls = a.cls ∧ (b.code < a.code ∨ (b.code = a.code ∧ b.lane.getD 128 < a.lane.getD 128))) then b else a

def leastTrap : List Trap → Option Trap
  | [] => none
  | h :: t =>
    match leastTrap t with
    | some k => some (h.lesser k)
    | none => some h

/-! ### Stage 1: translation and the checks of Table 6-1 -/

inductive LaneRes where
  | ok (a : LaneAcc)
  | bad (t : Trap)
  | ats (key : Nat)
  deriving DecidableEq, Repr

/-- The path to the bytes cannot carry the atomic (R202): device registers, or host memory without the operation. -/
def MemOp.pathBad (m : MemOp) (p : Piece) : Bool :=
  m.kind == .rmw && ((p.x.home != 4 && gaRegion p.x.ga == 15) || (p.x.home == 4 && !m.path))

/-- The faults that a translated access meets beyond its translation: tag (code 6), device register (code 10, for an access that
is no legal one of its width, R347), and a walker's mark refused by the firewall (R415), which names the byte of the access. DESIGN
CHOICE: log entry 79. -/
def State.pieceHits (s : State) (m : MemOp) (q : LaneReq) (ps : List Piece) : List Hit :=
  (if m.tags ∧ m.data ∧ !(ps.all (s.tagOk (bits q.ptr 63 60))) then [⟨3, 6, q.at_, 0, false⟩] else []) ++
  (ps.filter fun p => m.kind != .rmw && !q.more.contains (3, 11) && p.x.home != 4 && gaRegion p.x.ga == 15).flatMap (fun p =>
    if m.data ∧ p.len = q.n ∧ devOk (bits p.x.ga 15 0) q.n then [] else [⟨3, 10, p.va, p.x.ga, false⟩]) ++
  (ps.filter fun p =>
    match p.x.mark with
    | some (e, _) => !s.firewall e (s.myCell s.g.dk)
    | none => false).map (fun p => ⟨4, 3, p.va, p.x.ga, false⟩)

/-- The fault of an access that waited for a page of the host which was refused (R343): class 12, or not present where no group frame
could be had (R367). -/
def State.refusedHits (s : State) (m : MemOp) (q : LaneReq) : List Hit :=
  match s.g.hostFail with
  | some (key, code) =>
    match s.refusedAt s.g.ctx q.at_ q.n m.kind key with
    | some va => [if code = 0 then ⟨3, 1, hostVa, 0, false⟩ else ⟨12, code, va, 0, false⟩]
    | none => []
  | none => []

/-- Stage 1 for one lane. -/
def State.laneCheck (s : State) (m : MemOp) (q : LaneReq) : LaneRes :=
  let own := s.refusedHits m q ++ q.more.map fun c => (⟨c.1, c.2, q.at_, 0, false⟩ : Hit)
  let worst := fun (h : List Hit) (r : LaneRes) =>
    match leastHit h with
    | some h => .bad (h.trap m.kind (m.lane q.lane) q.ptr)
    | none => r
  match s.xlat s.g.ctx q.at_ q.n m.kind with
  | .bad cls code va ga =>
    worst (⟨cls, code, va, ga, false⟩ :: (s.pieceHits m q (s.okPieces s.g.ctx q.at_ q.n m.kind) ++ own)) (.ats 0)
  | .ats key => worst own (.ats key)
  | .ok ps => worst (s.pieceHits m q ps ++ own) (.ok ⟨q.lane, q.ptr, ps⟩)

/-! ### Stage 1: the home of each line (Table 13-2) -/

/-- The trap, the translation asked of the host, the translated access that stage 1 came to. -/
def LaneRes.trapOf : LaneRes → Option Trap
  | .bad t => some t
  | _ => none
def LaneRes.askOf : LaneRes → Option Nat
  | .ats key => some key
  | _ => none
def LaneRes.accOf : LaneRes → Option LaneAcc
  | .ok a => some a
  | _ => none

/-- A line touched by a lane: the first byte touched in it, the page's home. -/
structure LineUse where
  lane : Fin 128
  ptr : Nat
  ga : Nat
  va : Nat
  home : Nat
  len : Nat
  deriving DecidableEq, Repr

/-- The lines of `n` bytes from `ga`; `f` bounds their number. -/
def lineUses (lane : Fin 128) (ptr va ga home n : Nat) : Nat → List LineUse
  | 0 => []
  | f + 1 =>
    if n = 0 then []
    else
      let k := min n (128 - ga % 128)
      ⟨lane, ptr, ga, va, home, k⟩ :: lineUses lane ptr (va + k) (ga + k) home (n - k) f

/-- The lines that a lane touches; host memory has none. -/
def LaneAcc.lines (a : LaneAcc) : List LineUse :=
  (a.ps.filter fun p => p.x.home != 4).flatMap fun p =>
    lineUses a.lane a.ptr p.va p.x.ga p.x.home p.len (p.len / 128 + 2)

/-- What a line needs before it can be used. -/
inductive LineRes where
  | ok
  /-- A copy engine owns it (R187), or it lies under a migration block (R345). -/
  | owned
  /-- A transaction of this kind (Table 13-3). -/
  | need (op : Nat)
  | bad (code : Nat)
  deriving DecidableEq, Repr

/-- The four edges around a package in ring order of its dies 0, 1, 3, 2 (R381): `n` of them from position `a`. -/
def State.ringEdges (s : State) (pkg a : Nat) : Nat → List Link
  | 0 => []
  | n + 1 =>
    (match a % 4 with
      | 0 => (s.die (4 * pkg)).edges[0]
      | 1 => (s.die (4 * pkg + 1)).edges[1]
      | 2 => (s.die (4 * pkg + 3)).edges[0]
      | _ => (s.die (4 * pkg)).edges[1]) :: s.ringEdges pkg (a + 1) n

/-- Position of a die in the ring. -/
def ringPos (d : Nat) : Nat :=
  match d % 4 with
  | 0 => 0
  | 1 => 1
  | 3 => 2
  | _ => 3

/-- A route over die edges joins two dies of one package (R381, R384): over their shared edge, or horizontally first; the other
way around where an edge of that route is down. Packets wait while an edge of it retrains. -/
def State.dieRoute (s : State) (a b : Nat) : Bool :=
  let n := (ringPos b + 4 - ringPos a) % 4
  let fwd := s.ringEdges (a / 4) (ringPos a) n
  let bwd := s.ringEdges (a / 4) (ringPos b) (4 - n)
  let near := n = 1 ∨ (n = 2 ∧ ringPos a % 2 = 0)
  let first := if near then fwd else bwd
  let other := if near then bwd else fwd
  n == 0 || (if first.all (·.up) then first.all (!·.training) else other.all fun l => l.up && !l.training)

/-- The transaction that an access of a kind sends to another home. -/
def Kind.op (k : Kind) (cached : Bool) : Nat :=
  match k with
  | .rmw => 7
  | .read => if cached then 1 else 8
  | .fetch => if cached then 1 else 8
  | _ => if cached then 2 else 9

/-- What the line of byte `ga` needs for an access from die `dk`; one that a migration forwards is performed at its destination. -/
def State.lineNeed (s : State) (dk : Nat) (k : Kind) (home ga : Nat) : LineRes :=
  let line := ga / 128
  let p := dk / 4
  let cached := gaRegion ga = 0 ∧ home ≠ 3
  if k = .cache then .ok
  else if s.engineOwns line ∨ (home ≠ 5 ∧ s.blocked ga) then .owned
  else if !s.reachable dk (gaPkg ga) then .bad 5
  else if home = 5 then (if k.writes ∧ !s.firewall (line * 128) (s.myCell dk) then .bad 3 else .ok)
  else if gaPkg ga ≠ p then
    if ¬ cached ∨ k = .rmw then .need (k.op false)
    else if k.writes then
      match s.heldBy line p with
      | 4 => .ok
      | 2 => .need 4
      | 0 => .need 2
      | _ => .need 3
    else if s.heldBy line p = 0 then .need 1 else .ok
  else if !s.dieRoute dk (gaDie ga) then .need (k.op cached)
  else if gaRegion ga ≠ 0 then .ok
  else
    let d := (s.dirAt line).state
    if k.writes then
      if !s.firewall (line * 128) (s.myCell dk) then .bad 3
      else if d = 0 then .ok else .need (k.op cached)
    else if d = 2 ∨ d = 4 ∨ s.ownerMute line then .need (k.op cached) else .ok

/-- The transaction of the group in hand for a line. -/
def State.txnOf (s : State) (line : Nat) : Option Txn :=
  (s.txns.find? fun t => t.2.gk = s.g.key && t.2.ga / 128 = line).map (·.2)

/-- The group's request to another package for the line has not been answered, or its home still awaits acknowledgements for one of
the home's own package (R411). -/
def State.inFlight (s : State) (line : Nat) : Bool :=
  match s.txnOf line with
  | some t => t.phase == 8 || (if gaPkg (line * 128) = t.src then t.phase == 0 && !(t.ask.getD []).isEmpty else decide (t.phase < 2))
  | none => false

/-- The faults that a line's answer brings, and whether it still has to be waited for (R421, R415, R428). -/
inductive LineState where
  | ok
  | owned
  | send (op : Nat)
  | wait
  | bad (code : Nat) (unk : Bool)
  deriving DecidableEq, Repr

def State.lineState (s : State) (k : Kind) (u : LineUse) : LineState :=
  match if s.inFlight (u.ga / 128) then LineRes.need 0 else s.lineNeed s.g.dk k u.home u.ga with
  | .ok => .ok
  | .owned => .owned
  | .bad c => .bad c false
  | .need op =>
    match s.txnOf (u.ga / 128) with
    | none => .send op
    | some t =>
      match t.phase with
      | 2 => .bad 3 false
      | 3 => .bad 1 false
      | 4 => .bad 2 (decide (7 ≤ op) && op != 8)
      | 5 => .bad 5 false
      | 6 => .ok
      | 7 => .bad 2 (decide (7 ≤ op) && op != 8)
      | _ => .wait

/-- The transaction to send. -/
def LineState.opOf : LineState → Option Nat
  | .send op => some op
  | _ => none

/-- TXN.STAT counts an expired transaction (R420). -/
def State.countExpired (s : State) (dk : Nat) : State :=
  s.setDev dk 0x082C (BitVec.ofNat 64 (((s.dev dk 0x082C).toNat + 1) % 2 ^ 32))

/-- The limit of a transaction in cycles (R420). -/
def State.txnLimit (s : State) (dk : Nat) : Nat :=
  let n := bits (s.dev dk 0x0828).toNat 4 0
  2 ^ (if 16 ≤ n ∧ n ≤ 30 then n else 22)

/-- A transaction of a die that left it in cycle `since` has reached its limit (R420). -/
def State.overdue (s : State) (dk since : Nat) : Bool := decide (s.txnLimit dk ≤ s.cycle - since)

/-- A transaction sent for the line, once. -/
def State.sendTxn (s : State) (line op : Nat) : State :=
  if (s.txnOf line).isSome then s
  else { s with fresh := s.fresh + 1
                txns := Store.ins s.fresh ⟨s.g.key, op, line * 128, s.g.dk / 4, 0, 0, s.cycle, none, none⟩ s.txns }

/-- The transactions of the group in hand are over. -/
def State.dropTxns (s : State) : State := { s with txns := s.txns.filter fun t => t.2.gk != s.g.key }

/-! ### Stage 1: poison (R211) -/

/-- Ranges covered by the accesses: first gallery address and length. -/
def covers (accs : List LaneAcc) : List (Nat × Nat) :=
  accs.flatMap fun a => (a.ps.filter fun p => p.x.home != 4).map fun p => (p.x.ga, p.len)

/-- Every byte from `ga` on, `n` of them, lies in some range. -/
def covered (rs : List (Nat × Nat)) (ga n : Nat) : Bool :=
  (List.range n).all fun j => rs.any fun r => decide (r.1 ≤ ga + j) && decide (ga + j < r.1 + r.2)

/-- The lowest byte that the line's poison, or the uncorrectable mark of a core-memory granule, faults (R211). -/
def State.poisonHit (s : State) (k : Kind) (rs : List (Nat × Nat)) (u : LineUse) : Option Nat :=
  if gaRegion u.ga = 0 then
    if s.isPoison (u.ga / 128) && (k.reads || !covered rs (u.ga / 128 * 128) 128) then some u.ga else none
  else if gaRegion u.ga = 1 then
    ((List.range ((u.ga % 16 + u.len + 15) / 16)).find? fun j =>
      s.isBad (u.ga / 16 + j) && (k.reads || !covered rs ((u.ga / 16 + j) * 16) 16)).map fun j => max u.ga ((u.ga / 16 + j) * 16)
  else none

/-! ### Stage 2: pieces (R180) -/

/-- A piece of one lane's access: its place in the order of pieces, its first offset in the access, length, home and address. -/
structure Chunk where
  idx : Nat
  off : Nat
  len : Nat
  home : Nat
  ga : Nat
  deriving DecidableEq, Repr

/-- `n` bytes from `ga` split at 16-byte boundaries. -/
def chunksAt (idx off n home ga : Nat) : Nat → List Chunk
  | 0 => []
  | f + 1 =>
    if n = 0 then []
    else
      let k := min n (16 - ga % 16)
      ⟨idx, off, k, home, ga⟩ :: chunksAt (idx + 1) (off + k) (n - k) home (ga + k) f

/-- The pieces of a lane's access: at most two (R180), the first with twice the lane's number. -/
def LaneAcc.chunks (a : LaneAcc) : List Chunk :=
  a.ps.flatMap fun p => chunksAt (2 * a.lane.val + min p.off 1) p.off p.len p.x.home p.x.ga (p.len / 16 + 2)

/-- Key of a byte of host memory of a package. -/
def hostKey (pkg hpa : Nat) : Nat := pkg * 2 ^ 64 + hpa

def State.hostByte (s : State) (k : Nat) : Byte := Store.get hostDefault s.host k
def State.setHostByte (s : State) (k : Nat) (b : Byte) : State := { s with host := Store.put hostDefault k b s.host }

/-- `n` bytes of host memory from `k`. -/
def State.hostBytes (s : State) (k : Nat) : Nat → List Byte
  | 0 => []
  | n + 1 => s.hostByte k :: State.hostBytes s (k + 1) n

def State.setHostBytes (s : State) (k : Nat) : List Byte → State
  | [] => s
  | b :: t => (s.setHostByte k b).setHostBytes (k + 1) t

/-- Bytes read at a place: host memory, a device register, or memory. -/
def State.readAt (s : State) (dk home ga n : Nat) : List Byte :=
  if home = 4 then s.hostBytes (hostKey (dk / 4) ga) n
  else if gaRegion ga = 15 then bytesLE (s.devRead (gaDie ga) (bits ga 15 0)) n
  else s.bytes ga n

/-- Bytes written at a place by an agent of die `dk`; within one granule. -/
def State.writeAt (s : State) (dk home ga : Nat) (bs : List Byte) : State :=
  if home = 4 then s.setHostBytes (hostKey (dk / 4) ga) bs
  else if gaRegion ga = 15 then s.devWrite (dk / 4) (gaDie ga) (bits ga 15 0) (natLE bs)
  else s.memWrite ga bs []

/-- The bytes of a lane's access. -/
def State.laneBytes (s : State) (a : LaneAcc) : List Byte :=
  a.ps.flatMap fun p => s.readAt s.g.dk p.x.home p.x.ga p.len

/-- `head`, each number once, then the other numbers of `all` in their order. -/
def arrange (head all : List Nat) : List Nat :=
  let h := (head.filter all.contains).eraseDups
  h ++ all.filter fun x => !h.contains x

/-- The order of the pieces of this store or atomic (R181): the next entry of `State.order`, then ascending.
DESIGN CHOICE: log entry 9. -/
def State.orderOf (s : State) (all : List Nat) : List Nat := arrange (s.order.head?.getD []) all

def State.orderUsed (s : State) : State := { s with order := s.order.tail }

/-- The marks of R211 removed from the lines and granules that the stores replaced whole. -/
def State.clearMarks (s : State) (rs : List (Nat × Nat)) : State :=
  { s with poison := s.poison.filter fun p => covered rs (p.1 * 128) 128 == false,
           bad := s.bad.filter fun p => covered rs (p.1 * 16) 16 == false }

/-! ### Stage 2 in the memory model (R288, R297, R304, R305) -/

/-- ORD of an access (R73): its read part acquires, its write part releases. -/
def acquires (o : Nat) : Bool := o == 1 || o == 3
def releases (o : Nat) : Bool := o == 2 || o == 3

/-- A piece that a load reads: its lane and its place. -/
structure Get where
  lane : Nat
  home : Nat
  ga : Nat
  len : Nat
  deriving DecidableEq, Repr

/-- A piece that a store writes: its number as R181 orders them, its place and its bytes; `full` sets the granule full (R308). -/
structure Put where
  idx : Nat
  home : Nat
  ga : Nat
  bytes : List Byte
  full : Bool
  deriving DecidableEq, Repr

/-- A place is memory whose bytes a group's stores and loads may meet later or earlier than their turn: not host memory, no register,
not under the boot mapping, no poisoned line, no granule with uncorrectable data. -/
def State.loose (s : State) (home ga : Nat) : Bool :=
  home != 4 && home != 3 && (gaRegion ga == 0 || gaRegion ga == 1) && !s.isPoison (ga / 128) && !s.isBad (ga / 16)

/-- A piece written now by the group in hand, with its release tags. -/
def State.putNow (s : State) (tags : List Rel) (p : Put) : State :=
  if p.home = 4 ∨ gaRegion p.ga = 15 then s.writeAt s.g.dk p.home p.ga p.bytes
  else
    let s := (if p.home = 3 then s else s.dirtied s.g.dk s.g.core p.ga).memWrite p.ga p.bytes tags
    let s := if p.full then s.setFull (p.ga / 16) true else s
    { s with g := { s.g with mo := s.g.mo.touch (p.idx / 2) (p.ga / 16) } }

/-- Held accesses of the group in hand that an access at a scope must follow are performed: of its lane to the same bytes, and
within the die every one (R304); before a write those that an order puts first, and before a release every one (Table 9-2). -/
def State.beforeAccess (s : State) (write rel : Bool) (sc : Nat) (ps : List Get) : State :=
  s.landWhere s.g.key fun h q => rel || (write && h.wfirst) ||
    ps.any fun p => (q.within && s.g.within sc p.ga) || (q.lane.val == p.lane && meets q.ga q.len p.ga p.len)

/-- Before the group in hand writes pieces, all of them now but `later`: held accesses that these must follow are performed, and
stores held back: of a lane to the same bytes, over a release order to the same bytes, and, within the die, every earlier one
(R304). -/
def State.beforeWrite (s : State) (rel : Bool) (sc : Nat) (ps later : List Put) : State :=
  let k := s.g.key
  let m := s.g.mo
  if m.pend.isEmpty ∧ m.loads.isEmpty then s
  else
    let s := s.beforeAccess true rel sc (ps.map fun p => ⟨p.idx / 2, p.home, p.ga, p.bytes.length⟩)
    let now := ps.filter fun p => !later.contains p
    s.drainTo k (lastOf (fun q => now.any fun p =>
      (q.meets p.ga p.bytes.length && (q.lane == p.idx / 2 || rel || q.code || decide (q.wepoch < m.wepoch))) ||
      (q.within && s.g.within sc p.ga)) s.g.mo.pend)

/-- The pieces of a store of the group in hand: those that the next entry of `State.defer` names, when the store is relaxed, are
held back; the others are performed in the order of R181. DESIGN CHOICE: log entry 9. -/
def State.putPieces (s : State) (o sc : Nat) (ps : List Put) : State :=
  let hold := if o = 0 then s.defer.head?.getD [] else []
  let later := ps.filter fun p => hold.contains p.idx && s.loose p.home p.ga
  let tags := s.g.relTags (releases o) sc
  let s := s.beforeWrite (releases o) sc ps later
  let now := ps.filter fun p => !later.contains p
  let s := (s.orderOf (now.map (·.idx))).foldl (fun s j =>
    match now.find? fun p => p.idx = j with
    | some p => s.putNow tags p
    | none => s) s.orderUsed
  let s := if o = 0 then { s with defer := s.defer.tail } else s
  if later.isEmpty then s
  else
    let m := s.g.mo
    { s with g := { s.g with mo := { m with
      next := m.next + 1
      pend := m.pend ++ later.map fun p =>
        ⟨m.next, p.idx / 2, p.ga, p.bytes, s.g.within sc p.ga, p.full, m.epoch, m.wepoch, tags, false, false⟩ } } }

/-- Lane stores: the pieces of all lanes. -/
def State.storeLanes (s : State) (o sc : Nat) (accs : List LaneAcc) (val : Fin 128 → List Byte) : State :=
  (s.putPieces o sc (accs.flatMap fun a => a.chunks.map fun c =>
    ⟨c.idx, c.home, c.ga, slice (val a.lane) c.off c.len, false⟩)).clearMarks (covers accs)

/-- The pieces of a lane's load. -/
def LaneAcc.gets (a : LaneAcc) : List Get := a.chunks.map fun c => ⟨a.lane.val, c.home, c.ga, c.len⟩

/-- Before the group in hand reads pieces at a scope: held accesses that these must follow are performed, and stores held back that
cover a piece in part (R290). -/
def State.beforeRead (s : State) (sc : Nat) (ps : List Get) : State :=
  let m := s.g.mo
  if m.pend.isEmpty ∧ m.loads.isEmpty then s
  else
    let k := s.g.key
    let s := s.beforeAccess false false sc ps
    ps.foldl (fun s p => if p.home = 4 then s else s.beforePiece k m.next m.epoch p.lane p.ga p.len) s

/-- What a relaxed between-die read of a piece may return from what its lane has seen before. -/
def State.seenAt (s : State) (old : Bool) (sc : Nat) (p : Get) : Option Seen :=
  if !old ∨ p.home = 4 ∨ s.g.within sc p.ga ∨ (s.g.mo.own s.g.mo.next s.g.mo.epoch p.lane p.ga p.len).isSome then none
  else s.g.mo.seen.find? fun e => e.lane == p.lane && e.g16 == p.ga / 16

/-- A piece read by the group in hand: its bytes and their release tags. -/
def State.getPiece (s : State) (old : Bool) (sc : Nat) (p : Get) : List Byte × List Rel :=
  match s.seenAt old sc p with
  | some e => (slice e.bytes (p.ga % 16) p.len, e.tags)
  | none =>
    if p.home = 4 ∨ gaRegion p.ga = 15 then (s.readAt s.g.dk p.home p.ga p.len, [])
    else (s.ownBytes s.g.key s.g.mo.next s.g.mo.epoch p.lane p.ga p.len,
      s.ownTags s.g.key s.g.mo.next s.g.mo.epoch p.lane p.ga p.len)

/-- After the reads: an acquire synchronises, and nothing older of its granules, or of core memory, is returned after it; the
group's own stores that it returned come before every later access (Table 9-2); the tags that a read returns are kept for a fence
(Table 9-3). -/
def State.afterRead (s : State) (o sc : Nat) (old : Bool) (ps : List Get) (tags : List Rel) : State :=
  let kept := fun (p : Get) => (s.seenAt old sc p).isSome
  let touch := fun (m : MemOrder) (p : Get) =>
    if kept p then { m with seen := m.seen.map fun e =>
      if e.g16 = p.ga / 16 ∧ e.lane ≠ p.lane then { e with touched := true } else e }
    else m.read p.lane p.ga p.len
  let m := if s.g.mo.seen.isEmpty ∧ s.g.mo.pend.isEmpty then s.g.mo else ps.foldl touch s.g.mo
  let m := if tags.isEmpty then m else { m with owed := (m.owed ++ tags).eraseDups }
  if acquires o then
    let m := m.ordered fun q => ps.any fun p => q.lane == p.lane && q.meets p.ga p.len
    let m := { m with seen := m.seen.filter fun e => gaRegion (e.g16 * 16) == 0 && !(ps.any fun p => p.ga / 16 == e.g16) }
    ({ s with g := { s.g with mo := m } }).sync tags sc
  else { s with g := { s.g with mo := m } }

/-- The pieces of a load of the group in hand, performed now. `old`: values seen before may be returned. -/
def State.getPieces (s : State) (o sc : Nat) (old : Bool) (ps : List Get) : State × List (List Byte) :=
  let s := s.beforeRead sc ps
  let rs := ps.map (s.getPiece (old && o == 0) sc)
  (s.afterRead o sc (old && o == 0) ps (rs.flatMap (·.2)).eraseDups, rs.map (·.1))

/-- The bytes of the lanes' accesses, read now, lane by lane. DESIGN CHOICE: log entry 40. -/
def State.readLanes (s : State) (o sc : Nat) (accs : List LaneAcc) : State × List (Fin 128 × List Byte) :=
  let r := s.getPieces o sc true (accs.flatMap LaneAcc.gets)
  (r.1, (accs.foldl (fun (q : List (List Byte) × List (Fin 128 × List Byte)) a =>
    (q.1.drop a.chunks.length, q.2 ++ [(a.lane, (q.1.take a.chunks.length).flatten)])) (r.2, [])).2)

/-- Lane loads performed now: the value of each lane. -/
def State.loadLanes (s : State) (o sc : Nat) (accs : List LaneAcc) : State × List (Fin 128 × Nat) :=
  let r := s.readLanes o sc accs
  (r.1, r.2.map fun v => (v.1, natLE v.2))

def State.deferUsed (s : State) : State := { s with defer := s.defer.tail }

/-- The next entry of `State.defer` holds the relaxed load or atomic of the group in hand back: every piece of it is an access of
memory (R287, R305). -/
def State.holds (s : State) (o : Nat) (ps : List Get) : Bool :=
  o == 0 && !(s.defer.head?.getD []).isEmpty && ps.all fun p => s.loose p.home p.ga

/-- A load or an atomic of the group in hand held back at a scope, with rows reserved for its results; none where a row is
missing. -/
def State.hold (s : State) (d cnt : Nat) (kind : HeldKind) (write : Bool) (sc : Nat) (ps : List (Fin 128 × Get)) : Option State :=
  let s := (s.beforeAccess write false sc (ps.map (·.2))).deferUsed
  match s.g.reserve s.freeRows d cnt with
  | some g =>
    let m := g.mo
    some { s with g := { g with mo := { m with
      next := m.next + 1
      loads := m.loads ++ [⟨m.next, d, cnt, kind, m.epoch, false,
        ps.map fun p => ⟨p.1, p.2.ga, p.2.len, g.within sc p.2.ga, none⟩⟩] } } }
  | none => none

/-- The pieces of the lanes' accesses, with their lanes. -/
def lanePieces (accs : List LaneAcc) : List (Fin 128 × Get) := accs.flatMap fun a => a.gets.map fun p => (a.lane, p)

/-- The instruction completes with its destinations in flight where `State.defer` holds it back (R305); else it goes on as `now`. -/
def holdOr (i : Instr) (o sc d cnt : Nat) (kind : HeldKind) (write : Bool) (s : State) (ps : List (Fin 128 × Get)) (now : Out) : Out :=
  if s.holds o (ps.map (·.2)) then
    match s.hold d cnt kind write sc ps with
    | some t => done i t
    | none => now
  else now

/-- The write part of an atomic of the group in hand: at a place of the host or of a device; else at the home of its line. -/
def State.rmwNow (s : State) (tags : List Rel) (lane : Nat) (c : Chunk) (bs : Option (List Byte)) : State :=
  if c.home = 4 ∨ gaRegion c.ga = 15 then
    match bs with
    | some bs => s.writeAt s.g.dk c.home c.ga bs
    | none => s
  else s.rmwAt s.g.key lane c.ga c.len tags bs

/-- Lane atomics performed one lane after another (R199): the old value of each lane. `f` gives the new value of a lane from
the old one, `w` whether it is written: a `cas` whose comparison fails writes nothing. -/
def State.atomicLanes (s : State) (o sc : Nat) (accs : List LaneAcc) (n : Nat) (w : Fin 128 → Nat → Bool)
    (f : Fin 128 → Nat → Nat) : State × List (Fin 128 × Nat) :=
  let cs := accs.flatMap LaneAcc.chunks
  let gs := accs.flatMap LaneAcc.gets
  let tags := s.g.relTags (releases o) sc
  let got := (cs.flatMap fun c => if c.home = 4 then [] else s.tagsAt c.ga c.len).eraseDups
  let s := (s.beforeWrite (releases o) sc (cs.map fun c => ⟨c.idx, c.home, c.ga, List.replicate c.len 0, false⟩) []).beforeRead sc gs
  let r := (s.orderOf (accs.map fun a => 2 * a.lane.val)).foldl (fun r j =>
    match accs.find? fun a => 2 * a.lane.val = j with
    | some a =>
      let t := a.chunks.foldl (fun s c => if c.home = 4 then s else s.atHome c.ga) r.1
      let old := natLE (t.laneBytes a)
      let new := fun (c : Chunk) => if w a.lane old then some (slice (bytesLE (f a.lane old) n) c.off c.len) else none
      (a.chunks.foldl (fun s c => s.rmwNow tags a.lane.val c (new c)) t, r.2 ++ [(a.lane, old)])
    | none => r) (s.orderUsed, [])
  (r.1.afterRead o sc false gs got, r.2)

/-! ### The instruction -/

/-- The translation request of a page of the host, once (R343). -/
def State.askFor (s : State) (dk key : Nat) : State :=
  let p := dk / 4
  let k := s.pkg p
  if (k.ats ++ k.pri).any fun a => a.1 == key then s else s.setPkg p { k with ats := k.ats ++ [(key, s.cycle)] }

/-- The group in hand waits for the host. -/
def State.askHost (s : State) (key : Nat) : State :=
  let s := s.askFor s.g.dk key
  { s with g := { s.g with wait := .page key } }

/-- The parts of a lane's access that lie in lines picked by `f`. -/
def LaneAcc.part (f : Nat → Bool) (a : LaneAcc) : LaneAcc :=
  { a with ps := a.ps.flatMap fun p =>
      ((chunksAt 0 p.off p.len p.x.home p.x.ga (p.len / 16 + 2)).filter fun c => f (c.ga / 128)).map fun c =>
        { p with off := c.off, len := c.len, va := p.va + (c.off - p.off), x := { p.x with ga := c.ga } } }

/-- What the home of an expired write of the group in hand had performed before the answer was lost (R421). -/
def State.goneParts (s : State) (accs : List LaneAcc) : List LaneAcc :=
  (accs.map (LaneAcc.part fun line => ((s.txnOf line).map fun t => t.phase == 7 && (t.op == 7 || t.op == 9)).getD false)).filter
    fun a => !a.ps.isEmpty

/-- The end of the transactions, of an expired walk and of a refusal that an access waited on. -/
def State.settled (s : State) : State := { s.dropTxns with g := { s.g with hostFail := none, late := false } }

/-- An access that faults because its walk has expired counts in TXN.STAT (R420, R421). -/
def State.lateCount (s : State) (cls code : Nat) : State := if s.g.late ∧ cls = 4 ∧ code = 2 then s.countExpired s.g.dk else s

/-- The trap of a line: what its answer brings, or the poison in it (R421, R211). -/
def State.useTrap (s : State) (m : MemOp) (rs : List (Nat × Nat)) (u : LineUse) (l : LineState) : Option Trap :=
  match l with
  | .bad c unk => some ((⟨4, c, u.va, u.ga, unk⟩ : Hit).trap m.kind (m.lane u.lane) u.ptr)
  | _ =>
    if m.data then
      (s.poisonHit m.kind rs u).map fun ga => (⟨4, 1, u.va, ga, false⟩ : Hit).trap m.kind (m.lane u.lane) u.ptr
    else none

/-- The atomic paths that cannot carry a lane's access (R202); the gallery address of a byte of host memory is a free value.
DESIGN CHOICE: log entry 6. -/
def State.pathTraps (s : State) (m : MemOp) (a : LaneAcc) : List Trap :=
  (a.ps.filter m.pathBad).map fun p =>
    (⟨4, 4, p.va, if p.x.home = 4 then (Config.free 3 s.steps).toNat else p.x.ga, false⟩ : Hit).trap m.kind (m.lane a.lane) a.ptr

/-- The lines that a lane's access asks for: those that a path carries. -/
def LaneAcc.linesFor (m : MemOp) (a : LaneAcc) : List LineUse :=
  LaneAcc.lines (if m.kind = .rmw then { a with ps := a.ps.filter fun p => !m.pathBad p } else a)

/-- The dies where a write of a firewall register has not completed, and none was pending in state `s`. -/
def State.firewallNew (t s : State) : Option Nat :=
  (t.dies.find? fun d => decide ((s.die d.1).fwPend.length < (t.die d.1).fwPend.length)).map (·.1)

/-- After an access that wrote a firewall register, the group waits until that write has completed (R416). -/
def afterFirewall (s : State) (o : Out) : Out :=
  match o with
  | .next t =>
    match t.firewallNew s with
    | some dk => .next { t with g := { t.g with wait := .firewall dk } }
    | none => o
  | _ => o

/-- A lane memory access. Lost lines, timeouts and atomic paths are found together, as the access is performed (R178). `k` performs
stage 2 and completes; `late` performs what an expired write had performed at its home before its answer was lost, where the fault
that is reported says so (R178, R421). -/
def State.access (s : State) (m : MemOp) (qs : List LaneReq) (late : State → List LaneAcc → State)
    (k : State → List LaneAcc → Out) : Out :=
  let rs := qs.map (s.laneCheck m)
  match leastTrap (rs.filterMap LaneRes.trapOf) with
  | some t => takeTrap t (s.lateCount t.cls t.code).settled
  | none =>
    match rs.findSome? LaneRes.askOf with
    | some key => .next (s.askHost key)
    | none =>
      let accs := rs.filterMap LaneRes.accOf
      let us := accs.flatMap (LaneAcc.linesFor m)
      let ls := us.map fun u => (u, s.lineState m.kind u)
      let sends := ls.filterMap fun l => l.2.opOf.map fun op => (l.1.ga / 128, op)
      if !sends.isEmpty then waitFor .txn ((sends.filter fun x => !s.portHeld s.g.dk (128 * x.1)).foldl (fun s x => s.sendTxn x.1 x.2) s)
      else if ls.any fun l => l.2 == .wait then waitFor .txn s
      else if ls.any fun l => l.2 == .owned then waitFor .owned s
      else
        let rs := covers accs
        let bad := ls.filterMap (fun l => s.useTrap m rs l.1 l.2) ++ accs.flatMap (s.pathTraps m)
        match leastTrap bad with
        | some t =>
          let gone := if t.cls = 4 ∧ t.code = 2 ∧ t.info.getLsbD 56 then s.goneParts accs else []
          takeTrap t (if gone.isEmpty then s else late s gone).settled
        | none => afterFirewall s (k (s.mark (accs.flatMap (·.ps))).settled accs)

end Sys2Proof.Machine
end

