-- ==== Sys2Proof/Machine/Coherence.lean ====
section
/-! DEFINITION. Gallery coherence (R405 to R416): the home's service of a request by Table 13-2, recalls and invalidations,
copies dropped by their holders, and the arrival of responses. Values stand in the one memory of the gallery, so a copy
carries permissions only. -/

namespace Sys2Proof.Machine

/-! ### Copies and the directory -/

/-- The bit of a package's cell in a cell vector, by the cell map of the home die. -/
def State.cellBit (s : State) (dk p : Nat) : BitVec 64 := BitVec.twoPow 64 ((s.cellOf dk p).getD 0)

/-- Packages that hold a copy of a line. -/
def State.holders (s : State) (line : Nat) : List Nat :=
  (s.held.filter fun p => p.1 / 1024 = line).map fun p => p.1 % 1024

/-- The line is one that the home keeps directory state for. -/
def lineCached (ga : Nat) : Bool := gaRegion ga == 0

/-- The request takes the line from every other holder (Table 13-2). -/
def Txn.takes (t : Txn) : Bool := t.op == 2 || t.op == 3 || t.op == 7 || t.op == 9 || t.op == 10

/-- The requests that the home of a line has still to serve. -/
def State.openTxns (s : State) (line : Nat) : List (Nat × Txn) := s.txns.filter fun t => t.2.ga / 128 = line && t.2.phase = 0

/-- The request whose recall or invalidation is on its way to a package (R411). -/
def State.asking (s : State) (p line : Nat) : Option (Nat × Txn) :=
  (s.openTxns line).find? fun t => (t.2.ask.getD []).contains p

/-- A request whose service the home has begun, and not completed, on the line. -/
def State.begun (s : State) (line : Nat) : Option (Nat × Txn) :=
  (s.openTxns line).find? fun t =>
    match t.2.ask with
    | some ps => !ps.isEmpty || t.2.src != gaPkg t.2.ga
    | none => false

/-- Every earlier request on the line has been completed (R410). -/
def State.turnOf (s : State) (key : Nat) (t : Txn) : Bool :=
  (s.openTxns (t.ga / 128)).all fun o => o.1 == key ||
    match o.2.seq, t.seq with
    | some a, some b => decide (b < a) || (o.2.src == gaPkg o.2.ga && o.2.op != 10 && o.2.ask == some [])
    | none, _ => true
    | some _, none => false

/-- The directory entry once its owner is gone: read-only copies may remain. -/
def State.ownerGone (s : State) (line : Nat) : State :=
  let d := s.dirAt line
  s.setDir line (if (s.holders line).isEmpty then Dir.none else ⟨1, 0, d.cells⟩)

/-- A package's copies of a line are gone: its stores to it have been performed, its caches hold nothing of it. -/
def State.dropAt (s : State) (p line : Nat) : State :=
  let s := s.flushLine line
  let s := if s.dirtyIn line fun u => unitDie u / 4 == p then s.writtenHome line else s
  (s.dropInner line fun u => unitDie u / 4 == p).setHeld line p 0

/-- A package drops its copy of a line (R408): its stores to it have been performed; dirty data is on its way to the home, whose DRAM
stays as it was until PutM brings it. -/
def State.copyLeaves (s : State) (p line : Nat) : State :=
  ((s.flushLine line).dropInner line fun u => unitDie u / 4 == p).setHeld line p 0

/-- The owner returns its data (R410, R411): dropped when the request takes the line, else kept in S from E, in O from M. -/
def State.recall (s : State) (takes : Bool) (p line : Nat) : State :=
  let d := s.dirAt line
  if d.owner ≠ p ∨ d.state < 2 then s
  else if takes then
    let s := s.dropAt p line
    (if d.state = 2 then s else s.writtenHome line).ownerGone line
  else if d.state = 2 then
    ((s.flushLine line).setHeld line p (if s.heldBy line p = 0 then 0 else 1)).setDir line ⟨1, 0, d.cells⟩
  else if d.state = 4 then
    ((s.flushLine line).setHeld line p (if s.heldBy line p = 0 then 0 else 3)).setDir line ⟨3, p, d.cells⟩
  else s

/-- A package drops its read-only copy (R411). DEDUCED: log entry 15. -/
def State.invalidate (s : State) (p line : Nat) : State :=
  let d := s.dirAt line
  let s := s.dropAt p line
  if d.state = 1 then s.ownerGone line else s

/-- A package that an engine's or the host's access must ask, one of a cell that the line's vector names (R411), gives no answer: the
access waits until the declaration of its cell resolves the line (R425, Table 13-5). DEDUCED: log entry 36. -/
def State.recallStuck (s : State) (line : Nat) (w : Bool) : Bool :=
  (w && (s.holders line ++ s.vectorPackages (gaDie (line * 128)) (s.dirAt line).cells).any (s.mute line)) || s.ownerMute line

/-- Every copy is recalled and dropped in one step: a write of an engine or of the host. -/
def State.dropCopies (s : State) (line : Nat) : State :=
  let s := s.flushLine line
  ((((s.holders line).foldl (fun s p => s.setHeld line p 0) s).setDir line Dir.none).uncached line)

/-- The line's dirty or exclusive copy is recalled for a read of an engine or of the host. -/
def State.shareCopies (s : State) (line : Nat) : State :=
  let d := s.dirAt line
  match d.state with
  | 2 => ((s.flushLine line).setHeld line d.owner 1).setDir line ⟨1, 0, d.cells⟩
  | 4 => ((s.flushLine line).setHeld line d.owner 3).setDir line ⟨3, d.owner, d.cells⟩
  | _ => s

/-! ### A declared cell (Table 13-5) -/

/-- Table 13-5 for one line of a die and a dead cell: the line as it is afterwards, and whether it was poisoned. -/
def State.resolveLine (s : State) (dk c line : Nat) : State × Bool :=
  let d := s.dirAt line
  let mine := fun p => s.cellOf dk p == some c
  let gone := (s.holders line).filter mine
  let drop := fun (s : State) (ps : List Nat) => ps.foldl (fun s p => s.dropAt p line) s
  if 2 ≤ d.state ∧ mine d.owner then
    if d.state = 2 then (((drop s gone).setDir line Dir.none), false)
    else ((((drop s (s.holders line)).setDir line Dir.none).setPoison line true), true)
  else if d.state = 0 then (s, false)
  else
    let s := drop s gone
    let cells := d.cells &&& ~~~BitVec.twoPow 64 c
    (s.setDir line (if d.state = 1 ∧ cells = 0 then Dir.none else { d with cells := cells }), false)

/-- Poisoned lines counted for the declaration (R425). -/
def State.countLost (s : State) (dk n : Nat) : State :=
  let d := s.die dk
  s.setDie dk { d with recov := { d.recov with lost := d.recov.lost + n } }

/-- The acknowledgements that a request awaits from the packages of a dead cell count as given (Table 13-5). -/
def State.answered (s : State) (dk c line : Nat) : State :=
  let left := fun (t : Txn) => { t with ask := t.ask.map fun ps => ps.filter fun p => s.cellOf dk (p % 1024) != some c }
  { s with txns := s.txns.map fun (t : Nat × Txn) => if t.2.ga / 128 = line ∧ t.2.phase = 0 then (t.1, left t.2) else t }

/-- The line resolved at its home for cell `c`. -/
def State.resolveOne (s : State) (dk c line : Nat) : State :=
  let r := s.resolveLine dk c line
  (if r.2 then r.1.countLost dk 1 else r.1).answered dk c line

/-- A request touches a line that the sweep has not reached: it is resolved first (R425). -/
def State.early (s : State) (line : Nat) : State :=
  let dk := gaDie (line * 128)
  let r := (s.die dk).recov
  if r.phase = 0 then s else s.resolveOne dk r.cell line

/-! ### The home's service (R410, Table 13-2) -/

/-- A copy that its package has dropped and whose return is on its way: the home still records the package as owner. -/
def State.returning (s : State) (p line : Nat) : Bool :=
  let d := s.dirAt line
  decide (2 ≤ d.state) && d.owner == p && s.heldBy line p == 0 &&
  !(s.txns.any fun t => t.2.src == p && t.2.ga / 128 == line && t.2.phase == 1)

/-- The home serves nothing of the request now: the line is owned by an engine, lies under a migration block, or is on its way back
from the package that asks (R408, R410). -/
def State.cannotServe (s : State) (t : Txn) : Bool :=
  s.engineOwns (t.ga / 128) || s.blocked t.ga || s.returning t.src (t.ga / 128)

/-- The home receives nothing of the request: it has lost power, no port of it carries gallery packets (R402), or it has declared
the requester's cell dead (R424). -/
def State.unheard (s : State) (t : Txn) : Bool := (s.pkg (gaPkg t.ga)).dead || !s.hears (gaDie t.ga) t.src

/-- The transaction answered with a granted state. -/
def State.answer (s : State) (key : Nat) (t : Txn) (grant : Nat) : State :=
  { s with txns := Store.ins key { t with phase := 1, grant := grant } s.txns }

/-- Service of GetS: copies inside the home package give way to an exclusive one, or are shared (R406). A request of the recorded
owner itself, which Table 13-2 does not list, is answered with the state it holds. DESIGN CHOICE: log entry 89. -/
def State.homeGetS (s : State) (key : Nat) (t : Txn) : State :=
  let line := t.ga / 128
  let dk := gaDie t.ga
  let d := s.dirAt line
  let c := s.cellBit dk t.src
  if s.isPoison line then s.answer key t 5
  else if 2 ≤ d.state ∧ d.owner = t.src then s.answer key t d.state
  else if d.state = 0 then
    let s := s.flushLine line
    if s.firewall t.ga ((s.cellOf dk t.src).getD 0) ∧ (s.holders line).isEmpty then
      (((s.homeDropped line).setHeld line t.src 2).setDir line ⟨2, t.src, c⟩).answer key t 2
    else (((s.homeShared line).setHeld line t.src 1).setDir line ⟨1, 0, d.cells ||| c⟩).answer key t 1
  else if d.state = 1 ∨ (d.state = 3 ∧ !s.ownerMute line) then
    ((((s.flushLine line).homeShared line).setHeld line t.src 1).setDir line { d with cells := d.cells ||| c }).answer key t 1
  else s

/-- Nobody but the requester holds the line. -/
def State.clearFor (s : State) (line p : Nat) : Bool :=
  let d := s.dirAt line
  (s.holders line).all (· == p) && (decide (d.state < 2) || d.owner == p)

/-- Service of GetM and Upgrade: no copy stays inside the home package either (R406). -/
def State.homeGetM (s : State) (key : Nat) (t : Txn) : State :=
  let line := t.ga / 128
  let dk := gaDie t.ga
  if !s.firewall t.ga ((s.cellOf dk t.src).getD 0) then s.answer key t 7
  else if s.clearFor line t.src then
    ((((s.flushLine line).homeDropped line).setHeld line t.src 4).setDir line ⟨4, t.src, s.cellBit dk t.src⟩).answer key t 4
  else s

/-- Service of an atomic or an uncached write: every copy is gone first. -/
def State.homeTake (s : State) (key : Nat) (t : Txn) : State :=
  let line := t.ga / 128
  if !lineCached t.ga then s.answer key t 0
  else if !s.firewall t.ga ((s.cellOf (gaDie t.ga) t.src).getD 0) then s.answer key t 7
  else if t.op = 7 ∧ s.isPoison line then s.answer key t 5
  else if (s.holders line).all (· == t.src) ∧ (decide ((s.dirAt line).state < 2) ∨ (s.dirAt line).owner = t.src) then
    (s.dropCopies line).answer key t 0
  else s

/-! #### Directory sets (R407) -/

/-- The set of the remote directory that an entry of a line stands in: the spec gives no index function. DESIGN CHOICE: log
entry 6. -/
def dirSet (line : Nat) : Nat := (Config.free 18 line).toNat % 2 ^ 20

/-- The lines of a die's directory that stand in the set of a line. -/
def State.setLines (s : State) (line : Nat) : List Nat :=
  let mine := (s.dir.map (·.1)).filter fun l => gaDie (l * 128) == gaDie (line * 128)
  if mine.length < 16 then mine else mine.filter fun l => dirSet l == dirSet line

/-- The least recently used of some lines. -/
def State.oldest (s : State) : List Nat → Option Nat
  | [] => none
  | l :: ls =>
    match s.oldest ls with
    | some m => if Store.get (fun _ => 0) s.dirUse m < Store.get (fun _ => 0) s.dirUse l then some m else some l
    | none => some l

/-- The set of a line is being evicted: the eviction of one of its entries has not completed. -/
def State.evicting (s : State) (line : Nat) : Bool :=
  s.txns.any fun t => t.2.op == 10 && gaDie t.2.ga == gaDie (line * 128) && dirSet (t.2.ga / 128) == dirSet line

/-- The request needs an entry that its line does not have; one of a poisoned line that is only read makes none (Table 13-2). -/
def State.needsEntry (s : State) (t : Txn) : Bool :=
  t.src != gaPkg t.ga && (t.op == 1 || t.op == 2 || t.op == 3) && lineCached t.ga && (s.dirAt (t.ga / 128)).state == 0 &&
  !(t.op == 1 && s.isPoison (t.ga / 128))

/-! #### Order of arrival and acknowledgements (R410, R411) -/

/-- The packages whose acknowledgement the service of a request awaits: those of every cell that an invalidation or recall is
addressed to, whether they hold a copy or not; of the requester's own cell, the others. DEDUCED: log entry 15. -/
def State.addressed (s : State) (t : Txn) : List Nat :=
  let line := t.ga / 128
  let dk := gaDie t.ga
  let d := s.dirAt line
  let owner := match s.cellOf dk d.owner with
    | some c => BitVec.twoPow 64 c
    | none => 0
  if d.state = 0 ∨ !lineCached t.ga ∨ (d.owner = t.src ∧ 2 ≤ d.state ∧ !t.takes) then []
  else if t.takes then
    if t.op ≠ 10 ∧ !s.firewall t.ga ((s.cellOf dk t.src).getD 0) then []
    else (s.vectorPackages dk (d.cells ||| (if 2 ≤ d.state then owner else 0))).filter (· != t.src)
  else if 2 ≤ d.state then (s.vectorPackages dk owner).filter (· != t.src)
  else []

/-- A request as its home holds it. -/
def State.setTxn (s : State) (key : Nat) (t : Txn) : State := { s with txns := Store.ins key t s.txns }

/-- The eviction of a directory entry is complete once every holder has answered (R407). -/
def State.evicted (s : State) (key : Nat) : State :=
  match Store.find key s.txns with
  | some t =>
    if t.op = 10 ∧ t.ask = some [] then { s.dropCopies (t.ga / 128) with txns := Store.erase key s.txns } else s
  | none => s

/-- The home turns to a request: it resolves the line (R425) and sends what Table 13-2 asks for. The service of a request is the use of
the line's entry that the choice of the least recently used one counts; write notices, PutM, PutE and the accesses of engines and of
the host are none. DESIGN CHOICE: log entry 86. -/
def State.beginTxn (s : State) (key : Nat) (t : Txn) : State :=
  let line := t.ga / 128
  let s := s.early line
  let s := s.setTxn key { t with ask := some (s.addressed t) }
  ({ s with dirUse := Store.ins line s.fresh s.dirUse }).evicted key

/-- The eviction of the least recently used entry of a full set begins (R407). -/
def State.beginEviction (s : State) (line : Nat) : State :=
  match s.oldest (s.setLines line) with
  | some v =>
    let t : Txn := ⟨15, 10, v * 128, gaPkg (v * 128), 0, 0, s.cycle, some s.fresh, none⟩
    let key := s.fresh
    let s : State := { s.setTxn key t with fresh := s.fresh + 1 }
    if s.turnOf key t ∧ !s.cannotServe t then s.beginTxn key t else s
  | none => s

/-- An eviction that waited for an earlier request on its line begins. -/
def State.nextEviction (s : State) (line : Nat) : State :=
  match s.txns.find? fun t => t.2.op == 10 && t.2.ask == none && gaDie t.2.ga == gaDie (line * 128) && s.turnOf t.1 t.2 &&
      !s.cannotServe t.2 with
  | some (key, t) => s.beginTxn key t
  | none => s

/-- A request arrives at its home, or its turn there comes (R410): it takes its place in the order of arrival; one of the home's own
package that has been answered before the line was lost again takes a new one. -/
def State.arrive (s : State) (key : Nat) (t : Txn) : State × Txn :=
  let st := (s.dirAt (t.ga / 128)).state
  let again := t.src == gaPkg t.ga && t.ask == some [] && (if t.takes then st != 0 else st == 2 || st == 4)
  if t.seq.isSome ∧ !again then (s, t)
  else
    let t := { t with seq := some s.fresh, ask := none }
    ({ s.setTxn key t with fresh := s.fresh + 1 }, t)

/-- The service of a request begins when its turn has come and its set has room. -/
def State.enrol (s : State) (key : Nat) (t : Txn) : State :=
  let line := t.ga / 128
  let s := s.nextEviction line
  if t.ask.isSome ∨ !s.turnOf key t ∨ s.cannotServe t then s
  else if s.needsEntry t ∧ s.evicting line then s
  else if s.needsEntry t ∧ 16 ≤ (s.setLines line).length then s.beginEviction line
  else s.beginTxn key t

/-- A request of one kind that its home has not served is served, once every package that it was to ask has acknowledged (R411). A
request whose SRCCELL is not that of its package is discarded (R418). -/
def State.serve (s : State) (key : Nat) (ops : List Nat) (f : State → Txn → State) : State :=
  match Store.find key s.txns with
  | some t =>
    if t.phase ≠ 0 ∨ !ops.contains t.op ∨ s.unheard t then s
    else if !s.srcOk (gaDie t.ga) t.src then (s.countBad (gaDie t.ga)).setTxn key { t with phase := 8, grant := 9 }
    else
      let (s, t) := s.arrive key t
      let s := s.enrol key t
      match Store.find key s.txns with
      | some t => if t.ask = some [] ∧ t.src ≠ gaPkg t.ga ∧ !s.cannotServe t then f s t else s
      | none => s
  | none => s

/-- HOME_GETS (R410). -/
def execHomeGets (s : State) : Out := .next (s.serve s.arg.key [1] fun s' t => s'.homeGetS s.arg.key t)

/-- HOME_GETM (R410). -/
def execHomeGetm (s : State) : Out := .next (s.serve s.arg.key [2] fun s' t => s'.homeGetM s.arg.key t)

/-- HOME_UPGRADE (R410). -/
def execHomeUpgrade (s : State) : Out := .next (s.serve s.arg.key [3] fun s' t => s'.homeGetM s.arg.key t)

/-- HOME_ATOMIC (R201, R410). -/
def execHomeAtomic (s : State) : Out := .next (s.serve s.arg.key [7] fun s' t => s'.homeTake s.arg.key t)

/-- UNCACHED_READ (R410). -/
def execUncachedRead (s : State) : Out :=
  .next (s.serve s.arg.key [8] fun s' t =>
    if lineCached t.ga ∧ s'.isPoison (t.ga / 128) then s'.answer s.arg.key t 5
    else if lineCached t.ga ∧ ((s'.dirAt (t.ga / 128)).state = 2 ∨ (s'.dirAt (t.ga / 128)).state = 4 ∨
        s'.ownerMute (t.ga / 128)) then s'
    else s'.answer s.arg.key t 0)

/-- UNCACHED_WRITE (R410). -/
def execUncachedWrite (s : State) : Out := .next (s.serve s.arg.key [9] fun s' t => s'.homeTake s.arg.key t)

/-! ### Write notices and copies given back (R408, R409) -/

/-- The home records the line as M, held by the sender, in the notice's turn (R410); the notice of a package that owns it no longer
records nothing. One whose SRCCELL is not that of its package is discarded (R418). -/
def State.noticed (s : State) (p line : Nat) : State :=
  match s.txns.find? fun t => t.2.op = 4 && t.2.phase = 0 && t.2.src = p && t.2.ga / 128 = line with
  | some (key, t) =>
    if s.unheard t then s
    else if !s.srcOk (gaDie t.ga) p then (s.countBad (gaDie t.ga)).setTxn key { t with phase := 8, grant := 9 }
    else
      let (s, t) := s.arrive key t
      if !s.turnOf key t ∨ s.cannotServe t then s
      else
        let s := s.early line
        let d := s.dirAt line
        if d.state = 2 ∧ d.owner = p then ((s.setDir line { d with state := 4 }).setHeld line p 4).answer key t 4
        else s.answer key t 0
  | none => s

/-- WRITE_NOTICE (R409). -/
def execWriteNotice (s : State) : Out := .next (s.noticed s.arg.key s.arg.sub)

/-- PutM or PutE of a package reaches the home (R408, R410), in its turn behind a request whose service has begun; nothing of a
package that the home does not hear (R402, R424); one with a wrong SRCCELL is discarded (R418). -/
def State.putArrives (s : State) (p line : Nat) (f : State → State) : State :=
  let dk := gaDie (line * 128)
  if !s.returning p line ∨ (s.pkg (gaPkg (line * 128))).dead ∨ !s.hears dk p ∨ (s.begun line).isSome ∨ s.engineOwns line ∨
      s.blocked (line * 128) then s
  else if !s.srcOk dk p then s.countBad dk
  else f (s.early line)

/-- PUTM: the data stands in the home's memory. -/
def execPutm (s : State) : Out :=
  let line := s.arg.sub
  .next (if dirtyState (s.dirAt line).state then
      s.putArrives s.arg.key line fun s =>
        let d := s.dirAt line
        match d.state with
        | 4 => (s.writtenHome line).setDir line Dir.none
        | 3 => (s.writtenHome line).setDir line ⟨1, 0, d.cells⟩
        | _ => s
    else s)

/-- PUTE: the line's memory is current (R409). -/
def execPute (s : State) : Out :=
  let line := s.arg.sub
  .next (if (s.dirAt line).state = 2 then
      s.putArrives s.arg.key line fun s => if (s.dirAt line).state = 2 then s.setDir line Dir.none else s
    else s)

/-- CACHE_EVICT (R408): the package's copy is gone; from E, O and M its return goes to the home. -/
def execCacheEvict (s : State) : Out := .next (s.copyLeaves s.arg.key s.arg.sub)

/-- A package answers what the home has sent it for a request (R411): `owns` says whether as the owner, by a recall, or by an
invalidation. A dead or unreachable package answers nothing; the answer of one whose SRCCELL is wrong is discarded (R418). -/
def State.acknowledge (s : State) (owns : Bool) (p line : Nat) : State :=
  let d := s.dirAt line
  let dk := gaDie (line * 128)
  match s.asking p line with
  | some (key, t) =>
    let own := d.owner == p && decide (2 ≤ d.state)
    if (s.pkg p).dead ∨ !s.reachable dk p ∨ !s.hears dk p ∨ (if t.takes then own != owns else !owns) then s
    else if !s.srcOk dk p then
      (s.countBad dk).setTxn key { t with ask := t.ask.map fun ps => ps.map fun q => if q = p then p + 1024 else q }
    else
      let s := if own then s.recall t.takes p line else if t.takes then s.invalidate p line else s
      (s.setTxn key { t with ask := t.ask.map fun ps => ps.filter (· != p) }).evicted key
  | none => s

/-- RECALL (R411). -/
def execRecall (s : State) : Out := .next (s.acknowledge true s.arg.key s.arg.sub)

/-- INVALIDATE (R411). -/
def execInvalidate (s : State) : Out := .next (s.acknowledge false s.arg.key s.arg.sub)

/-! ### Responses -/

/-- A response that nobody waits for is discarded, and what it granted is handed back (R422). -/
def State.handBack (s : State) (t : Txn) : State :=
  let line := t.ga / 128
  let d := s.dirAt line
  let s := s.dropAt t.src line
  if d.owner = t.src ∧ 2 ≤ d.state then s.ownerGone line else s

/-- A response arrives: `ok` says of a served request whether it is of this kind, `f` is its effect. -/
def State.respond (s : State) (key : Nat) (ok : Txn → Bool) (f : State → Txn → State) : State :=
  match Store.find key s.txns with
  | some t =>
    if t.phase = 1 ∧ ok t ∧ s.portsOpen t.src ∧ !(s.pkg t.src).dead then
      if !s.srcOk (4 * t.src) (gaPkg t.ga) then (s.countBad (4 * t.src)).setTxn key { t with phase := 8 }
      else if t.gk = noGroup then { s.handBack t with txns := Store.erase key s.txns } else f s t
    else s
  | none => s

/-- The request is over, its issuer goes on. -/
def State.txnOver (s : State) (key : Nat) : State := { s with txns := Store.erase key s.txns }

/-- The request stands answered until its issuer's instruction completes. -/
def State.txnPhase (s : State) (key ph : Nat) (t : Txn) : State :=
  { s with txns := Store.ins key { t with phase := ph } s.txns }

/-- RESPONSE_DATA (R410). -/
def execResponseData (s : State) : Out :=
  let key := s.arg.key
  .next (s.respond key (fun t => (t.op = 1 || t.op = 7 || t.op = 8) && decide (t.grant < 5)) fun s t =>
    if t.op = 1 then s.txnOver key else s.txnPhase key 6 t)

/-- RESPONSE_GRANT (R410). -/
def execResponseGrant (s : State) : Out :=
  let key := s.arg.key
  .next (s.respond key (fun t => (t.op = 2 || t.op = 3) && decide (t.grant < 5)) fun s _ => s.txnOver key)

/-- RESPONSE_ACKNOWLEDGE (R411): of a write notice or an uncached write. -/
def execResponseAcknowledge (s : State) : Out :=
  let key := s.arg.key
  .next (s.respond key (fun t => (t.op = 4 || t.op = 9) && decide (t.grant < 5)) fun s t =>
    if t.op = 4 then s.txnOver key else s.txnPhase key 6 t)

/-- RESPONSE_REFUSED (R415): the requester faults with code 3. -/
def execResponseRefused (s : State) : Out :=
  let key := s.arg.key
  .next (s.respond key (fun t => t.grant = 7) fun s t => s.txnPhase key 2 t)

/-- RESPONSE_POISONED (R428): the requester faults with code 1. -/
def execResponsePoisoned (s : State) : Out :=
  let key := s.arg.key
  .next (s.respond key (fun t => t.grant = 5) fun s t => s.txnPhase key 3 t)

end Sys2Proof.Machine
end

