-- ==== Sys2Proof/Machine/Control.lean ====
section
/-! DEFINITION. Prepared branches, masks, ending and the breakpoint: uniform majors 0x30 to 0x4A (R124 to R154). -/

namespace Sys2Proof.Machine

/-- A target register by number. -/
def Group.target (g : Group) (n : BitVec 3) : Target := g.targets[n.toNat]

def Group.setTarget (g : Group) (n : BitVec 3) (t : Target) : Group :=
  { g with targets := g.targets.set n.toNat t }

/-- bN prepared for a code address: valid, its window empty. -/
def State.prepare (s : State) (n : BitVec 3) (addr : BitVec 56) : State :=
  { s with g := s.g.setTarget n ⟨addr.extractLsb' 2 54, true, []⟩ }

/-- `prep` (R127). -/
def execPrep (n : BitVec 3) (o : BitVec 21) (x : Option (BitVec 24)) (s : State) : Out :=
  let i : Instr := .prep n o x
  issue i [] [] s (done i (s.prepare n (s.g.pc + offP o x)))

/-- `prepv` (R128). DEDUCED: log entry 10. -/
def execPrepv (n : BitVec 3) (c : Reg) (s : State) : Out :=
  let i : Instr := .prepv n c
  let p := s.g.u64 c.toNat
  issue i [pair c] [] s
    (if p.getLsbD 1 then takeTrap (plainTrap 2 2) s
     else if p.extractLsb' 56 4 ≠ 0#4 then takeTrap { plainTrap 3 8 with addr := p, info := 3 } s
     else done i (s.prepare n (p.extractLsb' 0 56)))

/-- A transfer taken: the words that follow come from the window of the target register (R135, R137). -/
def State.transfer (s : State) (t : Target) : State :=
  let pc := t.addr ++ 0#2
  let s := s.emit 3 (bytesLE pc.toNat 7)
  { s with g := { s.g with pc := pc, run := t.buf, wait := .none } }

/-- A transfer not taken: the next instruction. -/
def State.fallThrough (s : State) (i : Instr) : State := (s.emit 2 []).advance i

/-- The operation shared by the transfers (R132): `s'` is the state with the transfer's other effects. -/
def transferOn (i : Instr) (n : BitVec 3) (c : Bool) (s s' : State) : Out :=
  let t := s.g.target n
  if !t.v then takeTrap (plainTrap 2 1) s
  else if c then .next (s'.transfer t) else .next (s'.fallThrough i)

/-- `br` (Table 4-2). -/
def execBr (n : BitVec 3) (s : State) : Out := issue (.br n) [] [] s (transferOn (.br n) n true s s)

/-- `brt` (Table 4-2). -/
def execBrt (n : BitVec 3) (c : Reg) (s : State) : Out :=
  issue (.brt n c) [one c] [] s (transferOn (.brt n c) n ((s.g.u c.toNat).getLsbD 0) s s)

/-- `brf` (Table 4-2). -/
def execBrf (n : BitVec 3) (c : Reg) (s : State) : Out :=
  issue (.brf n c) [one c] [] s (transferOn (.brf n c) n (!(s.g.u c.toNat).getLsbD 0) s s)

/-- `brnone` (Table 4-2). -/
def execBrnone (n : BitVec 3) (s : State) : Out :=
  issue (.brnone n) [] [] s (transferOn (.brnone n) n (s.g.exec == 0) s s)

/-- `brany` (Table 4-2). -/
def execBrany (n : BitVec 3) (s : State) : Out :=
  issue (.brany n) [] [] s (transferOn (.brany n) n (s.g.exec != 0) s s)

/-- `call` (R132, R133). -/
def execCall (n m : BitVec 3) (s : State) : Out :=
  issue (.call n m) [] [] s (transferOn (.call n m) n true s (s.prepare m (s.g.pc + 4)))

/-- `bloop` (R132 to R134). -/
def execBloop (n : BitVec 3) (c : Reg) (s : State) : Out :=
  let v := s.g.u c.toNat - 1
  issue (.bloop n c) [one c] [] s
    (if !(s.g.target n).v then takeTrap (plainTrap 2 1) s
     else
      match s.putRegs [(c.toNat, Lanes.uni v)] with
      | some s' => transferOn (.bloop n c) n (v != 0) s s'
      | none => rowFault s)

/-- `binv` (R131). -/
def execBinv (n : BitVec 3) (s : State) : Out :=
  issue (.binv n) [] [] s (done (.binv n) { s with g := s.g.setTarget n Target.none })

/-- `bmov` (R129). -/
def execBmov (n m : BitVec 3) (s : State) : Out :=
  issue (.bmov n m) [] [] s (done (.bmov n m) { s with g := s.g.setTarget n (s.g.target m) })

/-- A target register as read into a pair (Table 1-3). -/
def Target.value (t : Target) : DWord := 0#8 ++ t.addr ++ 0#1 ++ (if t.v then 1#1 else 0#1)

/-- `brd` (R130). -/
def execBrd (n : BitVec 3) (c : Reg) (s : State) : Out :=
  issue (.brd n c) [pair c] [] s (uniWb64 (.brd n c) s c (s.g.target n).value)

/-- `isync` (R143). -/
def execIsync (s : State) : Out := issue .isync [] [] s (let t := s.stored s.g.key
     done .isync { t with g := t.g.refetch })

/-- `nop` (R150). -/
def execNop (s : State) : Out := issue .nop [] [] s (done .nop s)

/-- `yield` (R150): the other groups of the partition come first once, and the team becomes a preferred candidate for the next
swap. -/
def execYield (s : State) : Out :=
  let others := ((s.partGroups s.g.dk s.g.core s.g.part).map Group.key).filter (· != s.g.key)
  let s' := s.setTeam s.g.tid { s.myTeam with yielded := true }
  issue .yield [] [] s (done .yield { s' with g := { s'.g with passed := others } })

/-! ### Masks (R144) -/

/-- EXEC written after the D value (R144): `s0` is the state before the instruction. -/
def maskWb (i : Instr) (s : State) (ws : List (Nat × Lanes)) (f : Group → Group) : Out :=
  match s.putRegs ws with
  | some s' => done i { s' with g := f s'.g }
  | none => rowFault s

/-- `msave`. -/
def execMsave (d : Reg) (s : State) : Out :=
  issue (.msave d) [one d] [] s (wb (.msave d) s [(d.toNat, lanesOfMask s.g.exec)])

/-- `mload`. -/
def execMload (a : Reg) (s : State) : Out :=
  issue (.mload a) [one a] [] s (done (.mload a) { s with g := s.g.setExec (maskOf (s.g.rd a.toNat)) })

/-- A mask instruction with two sources: `m` is its mask. -/
def maskTwo (i : Instr) (d a b : Reg) (s : State) (m : Mask) : Out :=
  issue i [one d, one a, one b] [] s
    (maskWb i s [(d.toNat, lanesOfMask (m &&& s.g.live))] fun g => g.setExec m)

/-- `mand`. -/
def execMand (d a b : Reg) (s : State) : Out :=
  maskTwo (.mand d a b) d a b s (maskOf (s.g.rd a.toNat) &&& maskOf (s.g.rd b.toNat))

/-- `mandn`. -/
def execMandn (d a b : Reg) (s : State) : Out :=
  maskTwo (.mandn d a b) d a b s (maskOf (s.g.rd a.toNat) &&& ~~~maskOf (s.g.rd b.toNat))

/-- `mor`. -/
def execMor (d a b : Reg) (s : State) : Out :=
  maskTwo (.mor d a b) d a b s (maskOf (s.g.rd a.toNat) ||| maskOf (s.g.rd b.toNat))

/-- `mrestore` (R145): it orders every earlier access before every later one, as `fence.ar.grp`. -/
def execMrestore (a : Reg) (s : State) : Out :=
  issue (.mrestore a) [one a] [] s
    (done (.mrestore a) (({ s with g := s.g.setExec (maskOf (s.g.rd a.toNat)) } : State).fullOrder s.g.key))

/-- `mall`. -/
def execMall (d : Reg) (s : State) : Out :=
  issue (.mall d) [one d] [] s
    (maskWb (.mall d) s [(d.toNat, lanesOfMask s.g.exec)] fun g => g.setExec g.live)

/-- `mcount`. -/
def execMcount (d a : Reg) (s : State) : Out :=
  issue (.mcount d a) [one d, one a] [] s
    (uniWb (.mcount d a) s d (BitVec.ofNat 32 (maskCount (maskOf (s.g.rd a.toNat)))))

/-- `mfirst`. -/
def execMfirst (d a : Reg) (s : State) : Out :=
  issue (.mfirst d a) [one d, one a] [] s
    (uniWb (.mfirst d a) s d (BitVec.ofNat 32 ((lowestBit (maskOf (s.g.rd a.toNat))).getD 128)))

/-! ### Unreported faults and the end of a group (R147, R148, R232) -/

/-- Whether fault `a` is reported before `b`: lower batch (none last), lower INDEX, then R46; both counted from MB.DONE. -/
def EngFault.before (base : Word) (a b : EngFault) : Bool :=
  let rank := fun (n : Option Word) =>
    match n with
    | some n => (n - base - 0x80000000#32).toNat
    | none => 2 ^ 32
  let key := fun (f : EngFault) => [rank f.num, f.index, f.cls, f.code, f.lane.getD 0]
  decide (key a < key b)

/-- The first to be reported of the faults. -/
def firstFault (base : Word) : List EngFault → Option EngFault
  | [] => none
  | f :: t =>
    match firstFault base t with
    | some k => some (if k.before base f then k else f)
    | none => some f

/-- The trap that reports an asynchronous fault (R232, Table 7-5). -/
def EngFault.trap (f : EngFault) : Trap :=
  ⟨f.cls, f.code, f.lane, true, f.addr,
    BitVec.ofNat 64 ((f.num.getD 0).toNat + f.index % 2 ^ 16 * 2 ^ 32 + f.queue % 16 * 2 ^ 48 + f.sub % 256 * 2 ^ 52), 0⟩

/-- A fault reported: it is consumed, and the queue it voids serves requests again once no other fault voids it (R245). -/
def State.report (s : State) (f : EngFault) : State :=
  let g := { s.g with faults := s.g.faults.erase f }
  let s := { s with g := g }
  if f.voids then
    let others := (s.teamGroups s.g.tid).any fun h => h.faults.any fun e => e.voids && e.queue == f.queue
    if others then s
    else
      let t := s.myTeam
      s.setTeam s.g.tid { t with queues := t.queues.mapFinIdx fun i q _ => if i = f.queue then { q with void := false } else q }
  else s

/-- Copy requests, messages and collectives of the group that are not complete. -/
def State.pendingWork (s : State) (k : Nat) : Bool :=
  let g := s.group k
  (s.team g.tid).queues.toList.any (fun q => q.reqs.any fun r => r.gk == k) ||
  (s.msgs.any fun m => m.2.gk == k && !m.2.sent) ||
  g.colls.any fun c => !c.done

/-- The drain of R148: waits as `w`, a fault to report, or neither. `k` is what follows. -/
def drain (w : Wait) (s : State) (k : Out) : Out :=
  if !s.g.mat.isEmpty ∨ s.pendingWork s.g.key then waitFor w s
  else
    let coll := s.g.colls.filterMap (·.fault)
    match firstFault s.g.done (s.g.faults ++ coll) with
    | some f =>
      let s' := s.report f
      takeTrap f.trap { s' with g := { s'.g with colls := s'.g.colls.map fun c => if c.fault = some f then { c with fault := none } else c } }
    | none => k

/-- The group stands at its end; GROUP_END frees its slot. -/
def State.ending (s : State) : State :=
  let s := s.emit 6 []
  { s with g := { s.g with status := .ending, wait := .none, exited := true } }

/-- What follows the drain of an instruction that ends the group or freezes it: its memory accesses are performed (R148, R249). -/
def drainAll (w : Wait) (s : State) (k : State → Out) : Out :=
  let t := s.settleMem s.g.key
  drain w t (k t)

/-- `exit` (R148, R149). -/
def execExit (s : State) : Out :=
  issue .exit [] [] s (if s.g.priv then done .exit s else drainAll .drain s fun t => .next t.ending)

/-- `lexit` (R147, R149). -/
def execLexit (s : State) : Out :=
  issue .lexit [] [] s
    (if s.g.priv then done .lexit s
     else
      let live := s.g.live &&& ~~~s.g.exec
      if live = 0 then drainAll .drain s fun t => .next { t with g := { t.g with live := 0, exec := 0 } }.ending
      else done .lexit { s with g := { s.g with live := live, exec := 0 } })

/-- `brk` (R151). -/
def execBrk (n : BitVec 10) (s : State) : Out :=
  issue (.brk n) [] [] s (takeTrap { plainTrap 10 1 with info := n.zeroExtend 64 } s)

end Sys2Proof.Machine
end

