-- ==== Sys2Proof/Machine/Engine.lean ====
section
/-! DEFINITION. What the engines share (R339, R343, R415, R422, R428): an engine's access to a range through a pointer, with the
conditions that it meets, its page requests, and the bytes that it reads and writes. -/

namespace Sys2Proof.Machine

/-- What an engine's access comes to: places; a fault (engine code 2 with the class 3 code, 3 with the class 4 code, 4) at an
address; a page to be requested, or asked of the host; a line that cannot be had yet. -/
inductive EngRes where
  | ok (ps : List Piece)
  | bad (code sub ptr : Nat)
  | page (va : Nat) (k : Kind)
  | ask (key : Nat)
  | wait
  deriving DecidableEq, Repr

/-- Two accesses of one request: the lesser fault (R46), at the lowest faulting byte (R232), then a page, the host, a wait.
DEDUCED: log entry 37. -/
def EngRes.join (a b : EngRes) : EngRes :=
  match a, b with
  | .bad c k p, .bad c' k' p' => if c' < c ∨ (c' = c ∧ (k' < k ∨ (k' = k ∧ p' < p))) then .bad c' k' p' else .bad c k p
  | .bad c k p, _ => .bad c k p
  | _, .bad c k p => .bad c k p
  | .page v k, _ => .page v k
  | _, .page v k => .page v k
  | .ask k, _ => .ask k
  | _, .ask k => .ask k
  | .wait, _ => .wait
  | _, .wait => .wait
  | .ok p, .ok q => .ok (p ++ q)

/-- The least of the conditions met by several accesses. -/
def engAll (rs : List EngRes) : EngRes := rs.foldl EngRes.join (.ok [])

/-- The lines of a translated range (R419, R413, R428): class 4 code of each, in address order; a home that does not act on the packets
of the engine's package leaves it without an answer (R402, R418, R424). -/
def State.engLine (s : State) (dk : Nat) (k : Kind) (u : LineUse) : EngRes :=
  let line := u.ga / 128
  if !s.reachable dk (gaPkg u.ga) then .bad 3 5 u.va
  else if k.writes ∧ gaRegion u.ga = 0 ∧ !s.firewall u.ga (s.myCell dk) then .bad 3 3 u.va
  else if k.reads ∧ (s.poisonHit k [] u).isSome then .bad 3 1 ((s.poisonHit k [] u).getD 0 - u.ga + u.va)
  else if !s.hears (gaDie u.ga) (dk / 4) ∨ !s.srcOk (gaDie u.ga) (dk / 4) then .wait
  else if (u.home ≠ 5 ∧ s.blocked u.ga) ∨ !(gaPkg u.ga != dk / 4 || s.dieRoute dk (gaDie u.ga)) ∨ (s.pkg (gaPkg u.ga)).dead then .wait
  else if s.engineOwns line ∨ s.recallStuck line k.writes ∨ s.portHeld dk u.ga then .wait
  else .ok []

/-- The pieces of a translated range of `n` bytes against the tags of their granules (R210), the device registers, which only an
access of a register's width reaches (R347), then line by line. -/
def State.engPieces (s : State) (dk tag : Nat) (k : Kind) (n : Nat) (ps : List Piece) : EngRes :=
  match ps.find? fun p => !s.tagOk tag p with
  | some p => .bad 2 6 p.va
  | none =>
    match ps.find? fun p => p.x.home != 4 && gaRegion p.x.ga == 15 && !(p.len == n && devOk (bits p.x.ga 15 0) n) with
    | some p => .bad 2 10 p.va
    | none =>
      engAll ((ps.filter fun p => p.x.home != 4).flatMap fun p =>
        (match p.x.mark with
          | some (e, _) => if s.firewall e (s.myCell dk) then [] else [EngRes.bad 3 3 p.va]
          | none => []) ++
        (lineUses 0 0 p.va p.x.ga p.x.home p.len (p.len / 128 + 2)).map (s.engLine dk k))

/-- An engine's access of `n` bytes through pointer `p`; `fail` is a page that the host refused to it (R343). -/
def State.engXlat (s : State) (c : Ctx) (fail : Option Nat) (p n : Nat) (k : Kind) : EngRes :=
  let tag := bits p 63 60 * 2 ^ 60
  let other := fun (r : EngRes) =>
    match (s.okPieces c p n k).find? fun q => !s.tagOk (bits p 63 60) q with
    | some q => r.join (.bad 2 6 (tag + q.va))
    | none => r
  let met := match s.xlat c p n k with
    | .bad 3 1 va _ => if s.ringCount c.dk = 0 then .bad 2 1 (tag + va) else .page va k
    | .bad 3 code va _ => other (.bad 2 code (tag + va))
    | .bad 4 code va _ => other (.bad 3 code (tag + va))
    | .bad _ _ va _ => other (.bad 2 14 (tag + va))
    | .ats key => .ask key
    | .ok ps =>
      match s.engPieces c.dk (bits p 63 60) k n ps with
      | .ok _ => .ok ps
      | .bad code sub va => .bad code sub (tag + va)
      | r => r
  match fail.bind (s.refusedAt c p n k) with
  | some va => EngRes.join (.bad 2 14 (tag + va)) met
  | none => met

/-- The first pieces of places, `len` bytes from offset `off`: (home, address, length). -/
def placesOf (ps : List Piece) (off len : Nat) : List (Nat × Nat × Nat) :=
  ps.filterMap fun p =>
    let a := max off p.off
    let b := min (off + len) (p.off + p.len)
    if a < b then some (p.x.home, p.x.ga + (a - p.off), b - a) else none

/-- A request for a page posted for an engine (R339): SRC 1 copy queue, 2 message unit, 3 parser or collective. -/
def State.engPage (s : State) (dk va asn : Nat) (k : Kind) (src core : Nat) : State × Nat :=
  s.requestPage dk va asn k.code src core

/-- The key under which an engine waits for a page of the host. -/
def hostPage (key : Nat) : Nat := 2 ^ 32 + key

/-- Bytes that an engine of die `dk` reads at places. -/
def State.engRead (s : State) (dk : Nat) (src : List (Nat × Nat × Nat)) : List Byte :=
  src.flatMap fun p => s.readAt dk p.1 p.2.1 p.2.2

/-- Bytes that an engine of die `dk` writes at places, granule by granule. -/
def State.engWrite (s : State) (dk : Nat) (dst : List (Nat × Nat × Nat)) (bs : List Byte) : State :=
  (dst.foldl (fun (r : State × List Byte) p =>
    ((chunksAt 0 0 p.2.2 p.1 p.2.1 (p.2.2 / 16 + 2)).foldl
        (fun s c => s.writeAt dk c.home c.ga (slice r.2 c.off c.len)) r.1, r.2.drop p.2.2)) (s, bs)).1

/-- Remote copies of the lines of a range are recalled: dropped for a write, shared for a read (Table 13-2); of core memory, stores
that are held back come before a write. -/
def State.engLines (s : State) (w : Bool) (home ga n : Nat) : State :=
  if home = 4 ∨ n = 0 then s
  else if gaRegion ga ≠ 0 then (if w then s.flushRange ga n else s)
  else (List.range ((ga % 128 + n + 127) / 128)).foldl (fun s j =>
    if w then s.dropCopies (ga / 128 + j) else s.shareCopies (ga / 128 + j)) s

/-- The lowest byte of the pieces that lies in a poisoned line, or in a granule with uncorrectable data: no engine but a copy
replaces such a line (R429). -/
def State.engPoison (s : State) (ps : List Piece) : Option Nat :=
  (ps.filter fun p => p.x.home != 4).findSome? fun p =>
    (lineUses 0 0 p.va p.x.ga p.x.home p.len (p.len / 128 + 2)).findSome? fun u =>
      (s.poisonHit .read [] u).map fun ga => ga - u.ga + u.va

/-- An engine's write of bytes to translated pieces: the walker's marks, the copies recalled, the bytes (R335). -/
def State.engStore (s : State) (dk : Nat) (ps : List Piece) (bs : List Byte) : State :=
  let s := s.mark ps
  let s := ps.foldl (fun s p => s.engLines true p.x.home p.x.ga p.len) s
  s.engWrite dk (ps.map fun p => (p.x.home, p.x.ga, p.len)) bs

/-- A place as the engine that holds its translation meets it: of the host while the TDI refuses (R442); out of reach (code 8 on the
window's side of a `cpyk`, R242; else code 3); or not to be had while its package is silent or, for a read, a migration blocks it.
DEDUCED: log entry 73. -/
def State.placeRes (s : State) (dk : Nat) (key w : Bool) (ptr : Nat) (p : Nat × Nat × Nat) : EngRes :=
  if p.1 = 4 then (if (s.pkg (dk / 4)).tdi = 1 ∨ (s.pkg (dk / 4)).tdi = 3 then .bad 2 14 ptr else .ok [])
  else if !s.reachable dk (gaPkg p.2.1) then (if key then .bad 8 (s.fabricPort dk p.2.1) 0 else .bad 3 5 ptr)
  else if !s.hears (gaDie p.2.1) (dk / 4) ∨ !s.srcOk (gaDie p.2.1) (dk / 4) ∨ (s.pkg (gaPkg p.2.1)).dead ∨
      !(gaPkg p.2.1 != dk / 4 || s.dieRoute dk (gaDie p.2.1)) ∨ (!w ∧ p.1 ≠ 5 ∧ s.blocked p.2.1) then .wait
  else .ok []

/-- Bytes `n` from a gallery address, as pieces of 64 KiB at most, each where a migration forwards it (R345). -/
def State.physPieces (s : State) (off va ga n : Nat) : Nat → List Piece
  | 0 => []
  | f + 1 =>
    if n = 0 then []
    else
      let k := min n (65536 - ga % 65536)
      ⟨off, k, va, s.forward ⟨ga, 0, 0, 0, false, 0, none⟩⟩ :: s.physPieces (off + k) (va + k) (ga + k) (n - k) f

/-- The walker's marks for the pages that an engine translated (R335). -/
def State.engMark (s : State) (r : EngRes) : State :=
  match r with
  | .ok ps => s.mark ps
  | _ => s

end Sys2Proof.Machine
end

