-- ==== Sys2Proof/Machine/Approx.lean ====
section
/-! DEFINITION. The approximate functions of lane major 0x37 (R167 to R169). The special values and the exact cases are
computed; every other result is taken from the unpublished values of `Config.approx` that lie within the bound of Table 5-8,
which is checked on an enclosure of the exact value computed in integer arithmetic, and made monotone as R169 states. Log
entry 3. -/

namespace Sys2Proof.Machine

/-- The greatest `r` with `r² ≤ n`, found bit by bit below bit `k` on top of `r`. -/
def isqrtFrom (n r : Nat) : Nat → Nat
  | 0 => r
  | k + 1 => isqrtFrom n (if (r + 2 ^ k) * (r + 2 ^ k) ≤ n then r + 2 ^ k else r) k

/-- Integer square root. -/
def isqrt (n : Nat) : Nat := isqrtFrom n 0 (Nat.log2 n / 2 + 1)

/-- `m × 2^e` counted in units of `2^-300`, rounded down. -/
def units (m : Nat) (e : Int) : Nat :=
  if 0 ≤ e + 300 then m * 2 ^ (e + 300).toNat else m / 2 ^ (-(e + 300)).toNat

/-- 2^f for a fraction `f` of `k` binary digits (most significant first in `f`), scaled by 2^p; `r` is the running root. -/
def exp2Frac (p f r acc : Nat) : Nat → Nat
  | 0 => acc
  | k + 1 =>
    let r' := isqrt (r * 2 ^ p)
    exp2Frac p f r' (if f.testBit k then acc * r' / 2 ^ p else acc) k

/-- 2^(f / 2^k), scaled by 2^p. -/
def exp2At (p k f : Nat) : Nat := exp2Frac p f (2 * 2 ^ p) (2 ^ p) k

/-- The binary digits of log2 t for 1 ≤ t < 2 scaled by 2^256, `k` digits appended to `acc`. -/
def log2Digits (t acc : Nat) : Nat → Nat
  | 0 => acc
  | k + 1 =>
    let s := t * t / 2 ^ 256
    if 2 ^ 257 ≤ s then log2Digits (s / 2) (2 * acc + 1) k else log2Digits s (2 * acc) k

/-- log2 e × 2^200, rounded down. -/
def log2e200 : Nat := 2318321547468254865173387471183990171487108758923299108729110

/-- The exact value of a non-special case of `exp2`, `log2` or `tanh` lies within `slack` of `±mag`, all counted in units
of `2^-300`. -/
structure Enclosure where
  neg : Bool
  mag : Nat
  slack : Nat
  deriving DecidableEq, Repr

/-- One unit in the last place of a value of magnitude `mag × 2^-300` (Table 5-8), in units of `2^-300`. -/
def ulpUnits (mag : Nat) : Nat :=
  2 ^ ((max ((Nat.log2 mag : Int) - 300) (-126) - 23 + 300).toNat)

/-- Enclosure of 2^x for x = ±m × 2^e, |x| below 160. Below 2^-40 the result lies closer to 1 than any bound can tell;
above, x is a whole number of 2^-64. -/
def exp2Enc (neg : Bool) (m : Nat) (e : Int) : Enclosure :=
  if m * 2 ^ (e + 400).toNat < 2 ^ 360 then ⟨false, if neg then 2 ^ 300 - 1 else 2 ^ 300 + 1, 0⟩
  else
    let u : Nat := m * 2 ^ (e + 400).toNat / 2 ^ 336
    let x : Int := if neg then -(u : Int) else (u : Int)
    let v := units (exp2At 128 64 (x % 2 ^ 64).toNat) (x / 2 ^ 64 - 128)
    ⟨false, v, v / 2 ^ 110 + 2⟩

/-- Enclosure of log2 of m × 2^e. -/
def log2Enc (m : Nat) (e : Int) : Enclosure :=
  let l := Nat.log2 m
  let t := m * 2 ^ 256 / 2 ^ l
  let y : Int := (e + l) * 2 ^ 110 + (log2Digits t 0 110 : Nat)
  ⟨decide (y < 0), y.natAbs * 2 ^ 190, 2 ^ 192⟩

/-- Enclosure of tanh of m × 2^e with 2^-12 ≤ value < 9. -/
def tanhEnc (neg : Bool) (m : Nat) (e : Int) : Enclosure :=
  -- 2x log2 e in units of 2^-128
  let u := m * 2 ^ (e + 128).toNat * 2 * log2e200 / 2 ^ 200
  let ex := units (exp2At 192 128 (u % 2 ^ 128)) (((u / 2 ^ 128 : Nat) : Int) - 192)
  let one := 2 ^ 300
  ⟨neg, (ex - one) * one / (ex + one), 2 ^ 185⟩

/-- A finite f32 result as a signed count of `2^-300`. -/
def resultUnits (r : Word) : Option (Bool × Nat) :=
  match f32.dec r.toNat with
  | .fin neg m e => some (neg, units m e)
  | _ => none

/-- The result lies within `bound` of every value of the enclosure. -/
def nearEnc (c : Enclosure) (bound : Nat) (r : Word) : Bool :=
  match resultUnits r with
  | some (neg, u) =>
    let x : Int := if neg then -(u : Int) else u
    let y : Int := if c.neg then -(c.mag : Int) else c.mag
    decide ((x - y).natAbs + c.slack ≤ bound)
  | none => false

/-- The enclosure's middle, rounded toward zero to f32: a value within every bound. -/
def encLow (c : Enclosure) : Word := BitVec.ofNat 32 (f32.round 1#2 c.neg c.mag (-300))

/-- The unpublished value where it satisfies the bound. DESIGN CHOICE: log entry 3. -/
def pick (fn : BitVec 3) (x : Word) (ok : Word → Bool) (low : Word) : Word :=
  if ok (Config.approx fn x) then Config.approx fn x else low

/-- The place of a finite f32 code in the order of the values. -/
def ordKey (r : Word) : Int := if r.msb then -((r.toNat % 2 ^ 31 : Nat) : Int) else (r.toNat : Int)

/-- A result between the exact results on the two sides of the input, which the monotonicity of R169 asks for. -/
def between (a b : Word) (r : Word) : Bool :=
  (decide (ordKey a ≤ ordKey r) && decide (ordKey r ≤ ordKey b)) ||
    (decide (ordKey b ≤ ordKey r) && decide (ordKey r ≤ ordKey a))

/-- ±2^k rounded toward zero to f32. -/
def powWord (neg : Bool) (k : Int) : Word := BitVec.ofNat 32 (f32.round 1#2 neg 1 k)

/-- The integer `k` in f32. -/
def wholeWord (k : Int) : Word := BitVec.ofNat 32 (f32.round 1#2 (decide (k < 0)) k.natAbs 0)

/-- |m × 2^e − 1/y| ≤ 1 ulp(1/y) with 1/y = a / (n × 2^f), all positive: `rcp`. -/
def rcpOk (n : Nat) (f : Int) (neg : Bool) (r : Word) : Bool :=
  match f32.dec r.toNat with
  | .fin rneg m e =>
    -- ⌊log2 (1/(n 2^f))⌋ for n not a power of two
    let p : Int := -(f + Nat.log2 n) - 1
    let u := max p (-126) - 23
    -- r = m 2^e; compare |m 2^e n 2^f − 1| ≤ 2^u n 2^f, all scaled by 2^400
    let lhs : Int := (m * n * 2 ^ (e + f + 600).toNat : Nat) - (2 ^ 600 : Nat)
    rneg == neg && decide (lhs.natAbs ≤ n * 2 ^ (u + f + 600).toNat)
  | _ => false

/-- 1/(n × 2^f) rounded toward zero. -/
def rcpLow (neg : Bool) (n : Nat) (f : Int) : Word :=
  BitVec.ofNat 32 (f32.round 1#2 neg (2 ^ 200 / n) (-f - 200))

/-- `rsq`: (r − ulp)² x ≤ 1 ≤ (r + ulp)² x with x = n × 2^f. -/
def rsqOk (n : Nat) (f : Int) (r : Word) : Bool :=
  match f32.dec r.toNat with
  | .fin false m e =>
    -- x = n 2^f lies in [4^h, 4^(h+1)); 1/√x lies in (2^(-h-1), 2^-h]
    let h := (f + (Nat.log2 n : Int)) / 2
    let p := if n * 2 ^ (f + 600).toNat = 2 ^ (2 * h + 600).toNat then -h else -h - 1
    let u := p - 23
    let rr := m * 2 ^ (e + 300).toNat
    let uu := 2 ^ (u + 300).toNat
    let xx := n * 2 ^ (f + 300).toNat
    decide ((rr - uu) * (rr - uu) * xx ≤ 2 ^ 900) && decide (2 ^ 900 ≤ (rr + uu) * (rr + uu) * xx)
  | _ => false

/-- 1/√(n × 2^f) rounded toward zero. -/
def rsqLow (n : Nat) (f : Int) : Word :=
  let s := isqrt (2 ^ 900 / (n * 2 ^ (f + 300).toNat))
  BitVec.ofNat 32 (f32.round 1#2 false s (-300))

/-- √(m × 2^e) correctly rounded to nearest: the root to 2^-k with a sticky last bit. -/
def sqrtBits (m : Nat) (e : Int) : Word :=
  let x := m * 2 ^ (e + 400).toNat
  let s := isqrt x
  let st := if s * s = x then 2 * s else 2 * s + 1
  BitVec.ofNat 32 (f32.round 0#2 false st (-201))

/-- The integer that a value equals, if it is one. -/
def wholeOf (neg : Bool) (m : Nat) (e : Int) : Option Int :=
  if m * 2 ^ (e + 400).toNat % 2 ^ 400 = 0 then
    some (if neg then -((m * 2 ^ (e + 400).toNat / 2 ^ 400 : Nat) : Int) else (m * 2 ^ (e + 400).toNat / 2 ^ 400 : Nat))
  else none

/-- |m × 2^e| compared with an integer: at least `k`. -/
def geWhole (m : Nat) (e : Int) (k : Nat) : Bool := decide (k * 2 ^ 400 ≤ m * 2 ^ (e + 400).toNat)

/-- What one approximate function answers to one f32 value: settled by the tables, or one value within the bound. -/
inductive ApproxRes where
  | exact (r : Word)
  | loose (r : Word)
  deriving DecidableEq, Repr

/-- One approximate function on one f32 value (Tables 5-7 and 5-8): 0 rcp, 1 rsq, 2 sqrt, 3 exp2, 4 log2, 5 tanh. -/
def approxBase (fn : BitVec 3) (x : Word) : ApproxRes :=
  let nanW := 0x7FC00000#32
  let infW := 0x7F800000#32
  let one := 0x3F800000#32
  match fn, f32.dec x.toNat with
  | _, .nan => .exact nanW
  | 0#3, .inf neg => .exact <| if neg then 0x80000000#32 else 0#32
  | 1#3, .inf neg => .exact <| if neg then nanW else 0#32
  | 2#3, .inf neg => .exact <| if neg then nanW else infW
  | 3#3, .inf neg => .exact <| if neg then 0#32 else infW
  | 4#3, .inf neg => .exact <| if neg then nanW else infW
  | _, .inf neg => .exact <| if neg then 0xBF800000#32 else one
  | 0#3, .fin neg m e =>
    let k : Int := e + Nat.log2 m
    if m = 0 then .exact (if neg then 0xFF800000#32 else infW)
    else if m = 2 ^ Nat.log2 m then .exact (BitVec.ofNat 32 (f32.round 0#2 neg 1 (-k)))
    -- |1/x| above the largest finite value gives the infinity
    else if decide ((2 ^ 24 - 1) * m * 2 ^ (e + 104 + 300).toNat < 2 ^ 300) then
      .exact (if neg then 0xFF800000#32 else infW)
    else .loose (pick 0#3 x (fun r => rcpOk m e neg r && between (powWord neg (-k - 1)) (powWord neg (-k)) r) (rcpLow neg m e))
  | 1#3, .fin neg m e =>
    let h : Int := (e + (Nat.log2 m : Int)) / 2
    if m = 0 then .exact (if neg then 0xFF800000#32 else infW)
    else if neg then .exact nanW
    else if m = 2 ^ Nat.log2 m ∧ (e + (Nat.log2 m : Int)) % 2 = 0 then .exact (BitVec.ofNat 32 (f32.round 0#2 false 1 (-h)))
    else .loose (pick 1#3 x (fun r => rsqOk m e r && between (powWord false (-h - 1)) (powWord false (-h)) r) (rsqLow m e))
  | 2#3, .fin neg m e => .exact (if m = 0 then x else if neg then nanW else sqrtBits m e)
  | 3#3, .fin neg m e =>
    if m = 0 then .exact one
    else if !neg && geWhole m e 128 then .exact infW
    else if neg && geWhole m e 150 && !(wholeOf neg m e == some (-150)) then .exact 0#32
    else
      let w := wholeOf neg m e
      if w.any fun k => decide (-149 ≤ k) then .exact (BitVec.ofNat 32 (f32.round 0#2 false 1 (w.getD 0)))
      else
        let c := exp2Enc neg m e
        -- 2^x lies between 2^⌊x⌋ and 2^(⌊x⌋+1); below x = -149, between +0 and 2^-149
        let n : Int := (Nat.log2 c.mag : Int) - 300
        .loose (pick 3#3 x
          (fun r => nearEnc c (2 * ulpUnits c.mag) r && between (powWord false n) (powWord false (n + 1)) r) (encLow c))
  | 4#3, .fin neg m e =>
    let k : Int := e + Nat.log2 m
    if m = 0 then .exact 0xFF800000#32
    else if neg then .exact nanW
    else if m = 2 ^ Nat.log2 m then .exact (wholeWord k)
    else
      let c := log2Enc m e
      let mid := decide (m * 2 ^ (e + 400).toNat ≤ 2 ^ 401) && decide (2 ^ 399 ≤ m * 2 ^ (e + 400).toNat)
      .loose (pick 4#3 x
        (fun r => nearEnc c (if mid then 2 ^ 278 else 2 * ulpUnits c.mag) r && between (wholeWord k) (wholeWord (k + 1)) r)
        (encLow c))
  | _, .fin neg m e =>
    let limit := if neg then 0xBF800000#32 else one
    if decide (m * 2 ^ (e + 400).toNat < 2 ^ 388) then .exact x
    else if geWhole m e 9 then .exact limit
    else
      let c := tanhEnc neg m e
      -- from the tanh of the last value below 2^-12, which is that value, to 1
      .loose (pick fn x
        (fun r => nearEnc c (2 * ulpUnits c.mag) r && between (if neg then 0xB97FFFFF#32 else 0x397FFFFF#32) limit r)
        (encLow c))

/-- Of two results the greater, or with `up` clear the lesser. -/
def extreme (up : Bool) (a b : Word) : Word := if decide (ordKey a ≤ ordKey b) == up then b else a

/-- The extreme of `first` and of the loose results of the inputs of one sign whose codes lie below `k`. -/
def runExtreme (fn : BitVec 3) (sign : Nat) (up : Bool) (first : Word) : Nat → Word
  | 0 => first
  | k + 1 =>
    let r := runExtreme fn sign up first k
    match approxBase fn (BitVec.ofNat 32 (sign * 2 ^ 31 + k)) with
    | .exact _ => r
    | .loose v => extreme up r v

/-- One approximate function (R167 to R169): a settled result as it is; else, so that the function is monotone for each
sign of input, the extreme of the values chosen for the inputs of that sign up to this one in magnitude, which keeps the
bound. DESIGN CHOICE: log entry 3. -/
def approxF32 (fn : BitVec 3) (x : Word) : Word :=
  match approxBase fn x with
  | .exact r => r
  | .loose v =>
    -- rcp and rsq fall and the others rise with the value; the code of a negative input rises as its value falls
    let falls := fn == 0#3 || fn == 1#3
    runExtreme fn (if x.msb then 1 else 0) (falls == x.msb) v (x.toNat % 2 ^ 31)

end Sys2Proof.Machine
end

