-- ==== Sys2Proof/Machine/LaneInt.lean ====
section
/-! DEFINITION. Lane integer arithmetic, logic, shifts, bit fields, selection and the immediate forms: lane majors 0x00 to
0x27 (R159 to R165), and the functions on values that the uniform forms share with them. -/

namespace Sys2Proof.Machine

/-! ### Values -/

/-- Class I arithmetic on two values and the addend `c` (Table 5-1). -/
def aluAdd (m : BitVec 3) (a b : Word) : Word := intRes m (intOf (m.getLsbD 1) a + intOf (m.getLsbD 1) b)
def aluSub (m : BitVec 3) (a b : Word) : Word := intRes m (intOf (m.getLsbD 1) a - intOf (m.getLsbD 1) b)
def aluMul (m : BitVec 3) (a b : Word) : Word := intRes m (intOf (m.getLsbD 1) a * intOf (m.getLsbD 1) b)
def aluMulh (m : BitVec 3) (a b : Word) : Word :=
  BitVec.ofInt 32 (intOf (m.getLsbD 1) a * intOf (m.getLsbD 1) b / 2 ^ 32)
def aluMad (m : BitVec 3) (a b c : Word) : Word :=
  intRes m (intOf (m.getLsbD 1) a * intOf (m.getLsbD 1) b + intOf (m.getLsbD 1) c)
def aluDiv (m : BitVec 3) (a b : Word) : Word :=
  intDiv 32 (m.getLsbD 1) (m.getLsbD 0) (intOf (m.getLsbD 1) a) (intOf (m.getLsbD 1) b)
def aluRem (m : BitVec 3) (a b : Word) : Word := intRem 32 (intOf (m.getLsbD 1) a) (intOf (m.getLsbD 1) b)
def aluMin (m : BitVec 3) (a b : Word) : Word := if intOf (m.getLsbD 1) b < intOf (m.getLsbD 1) a then b else a
def aluMax (m : BitVec 3) (a b : Word) : Word := if intOf (m.getLsbD 1) a < intOf (m.getLsbD 1) b then b else a
def aluAbs (m : BitVec 3) (a : Word) : Word := intRes m (a.toInt.natAbs : Int)
def aluNeg (m : BitVec 3) (a : Word) : Word := intRes m (-a.toInt)

/-- Pair add and subtract (Table 5-5). -/
def aluAdd64 (m : BitVec 3) (a b : DWord) : DWord :=
  intFit 64 (m.getLsbD 1) (m.getLsbD 0) (intOf (m.getLsbD 1) a + intOf (m.getLsbD 1) b)
def aluSub64 (m : BitVec 3) (a b : DWord) : DWord :=
  intFit 64 (m.getLsbD 1) (m.getLsbD 0) (intOf (m.getLsbD 1) a - intOf (m.getLsbD 1) b)
def aluLea (h : BitVec 3) (a : DWord) (b : Word) : DWord := a + (b.signExtend 64 <<< h.toNat)

/-- Shifts by a register count (Table 5-2). -/
def aluShl (a b : Word) : Word := if b.toNat < 32 then a <<< b.toNat else 0#32
def aluShr (a b : Word) : Word := a >>> b.toNat
def aluSar (a b : Word) : Word := a.sshiftRight b.toNat
def aluRol (a b : Word) : Word := a.rotateLeft (b.toNat % 32)
def aluRor (a b : Word) : Word := a.rotateRight (b.toNat % 32)

/-- Ones among bits 0 to `n - 1`. -/
def popCount (a : Word) : Nat → Nat
  | 0 => 0
  | n + 1 => popCount a n + (if a.getLsbD n then 1 else 0)

/-- Zero bits from bit `n - 1` downward. -/
def leadZeros (a : Word) : Nat → Nat
  | 0 => 0
  | n + 1 => if a.getLsbD n then 0 else leadZeros a n + 1

/-- Zero bits from bit `i` upward, `n` bits left. -/
def trailZeros (a : Word) (i : Nat) : Nat → Nat
  | 0 => 0
  | n + 1 => if a.getLsbD i then 0 else trailZeros a (i + 1) n + 1

def aluPopc (a : Word) : Word := BitVec.ofNat 32 (popCount a 32)
def aluClz (a : Word) : Word := BitVec.ofNat 32 (leadZeros a 32)
def aluCtz (a : Word) : Word := BitVec.ofNat 32 (trailZeros a 0 32)
def aluBrev (a : Word) : Word := a.reverse

/-- The width of a bit field: min(W, 32 − P) (R162). -/
def fieldWidth (b : Word) : Nat := min (b.extractLsb' 8 6).toNat (32 - (b.extractLsb' 0 5).toNat)

/-- The mask of a bit field. -/
def fieldMask (b : Word) : Word := BitVec.ofNat 32 ((2 ^ fieldWidth b - 1) * 2 ^ (b.extractLsb' 0 5).toNat)

/-- `bfx` (R162). -/
def aluBfx (sgn : Bool) (a b : Word) : Word :=
  let w := fieldWidth b
  let f := (a &&& fieldMask b) >>> (b.extractLsb' 0 5).toNat
  if sgn && decide (0 < w) && f.getLsbD (w - 1) then f ||| (0xFFFFFFFF#32 <<< w) else f

/-- `bfi` (R162). -/
def aluBfi (d a b : Word) : Word :=
  (d &&& ~~~fieldMask b) ||| ((a <<< (b.extractLsb' 0 5).toNat) &&& fieldMask b)

/-- `sel` (R163). -/
def aluSel (a b e : Word) : Word := if e.getLsbD 0 then a else b

/-! ### Lane forms -/

/-- A lane instruction on two single registers. -/
def laneTwo (i : Instr) (d a b : Reg) (s : State) (f : Word → Word → Word) : Out :=
  issue i [one d, one a, one b] [] s
    (laneWb i s d fun j => f (s.g.rd a.toNat)[j] (s.g.rd b.toNat)[j])

/-- A lane instruction on two single registers that also reads its destination. -/
def laneThree (i : Instr) (d a b : Reg) (s : State) (f : Word → Word → Word → Word) : Out :=
  issue i [one d, one a, one b] [] s
    (laneWb i s d fun j => f (s.g.rd a.toNat)[j] (s.g.rd b.toNat)[j] (s.g.rd d.toNat)[j])

/-- A lane instruction on one single register. -/
def laneOne (i : Instr) (d a : Reg) (s : State) (f : Word → Word) : Out :=
  issue i [one d, one a] [] s (laneWb i s d fun j => f (s.g.rd a.toNat)[j])

/-- A lane instruction on two pairs. -/
def lanePairs (i : Instr) (d a b : Reg) (s : State) (f : DWord → DWord → DWord) : Out :=
  issue i [pair d, pair a, pair b] [] s
    (laneWb64 i s d fun j => f (s.g.rd64 a.toNat j) (s.g.rd64 b.toNat j))

/-- A lane comparison of two pairs into a single register. -/
def lanePairCmp (i : Instr) (d a b : Reg) (s : State) (f : DWord → DWord → Bool) : Out :=
  issue i [one d, pair a, pair b] [] s
    (laneWb i s d fun j => predWord (f (s.g.rd64 a.toNat j) (s.g.rd64 b.toNat j)))

/-- `add` (R159): a + b. -/
def execAdd (m : BitVec 3) (d a b : Reg) (s : State) : Out :=
  laneTwo (.add m d a b) d a b s (aluAdd m)

/-- `sub` (R159): a − b. -/
def execSub (m : BitVec 3) (d a b : Reg) (s : State) : Out :=
  laneTwo (.sub m d a b) d a b s (aluSub m)

/-- `mul` (R159): a × b. -/
def execMul (m : BitVec 3) (d a b : Reg) (s : State) : Out :=
  laneTwo (.mul m d a b) d a b s (aluMul m)

/-- `mulh` (R159): bits [63:32] of a × b. -/
def execMulh (m : BitVec 3) (d a b : Reg) (s : State) : Out :=
  laneTwo (.mulh m d a b) d a b s (aluMulh m)

/-- `div` (R159): Table 3-1. -/
def execDiv (m : BitVec 3) (d a b : Reg) (s : State) : Out :=
  laneTwo (.div m d a b) d a b s (aluDiv m)

/-- `rem` (R159): Table 3-1. -/
def execRem (m : BitVec 3) (d a b : Reg) (s : State) : Out :=
  laneTwo (.rem m d a b) d a b s (aluRem m)

/-- `min` (R159): the smaller. -/
def execMin (m : BitVec 3) (d a b : Reg) (s : State) : Out :=
  laneTwo (.min m d a b) d a b s (aluMin m)

/-- `max` (R159): the larger. -/
def execMax (m : BitVec 3) (d a b : Reg) (s : State) : Out :=
  laneTwo (.max m d a b) d a b s (aluMax m)

/-- `mad` (R159): a × b + d, narrowed once. -/
def execMad (m : BitVec 3) (d a b : Reg) (s : State) : Out :=
  laneThree (.mad m d a b) d a b s (aluMad m)

/-- `abs` (R159). -/
def execAbs (m : BitVec 3) (d a : Reg) (s : State) : Out := laneOne (.abs m d a) d a s (aluAbs m)

/-- `neg` (R159). -/
def execNeg (m : BitVec 3) (d a : Reg) (s : State) : Out := laneOne (.neg m d a) d a s (aluNeg m)

/-- `cmp` on 32 bits (R160). -/
def execCmp (m : BitVec 3) (d a b : Reg) (s : State) : Out :=
  laneTwo (.cmp m d a b) d a b s fun x y => predWord (intCond m x y)

/-- `add.64` (R165). -/
def execAdd64 (m : BitVec 3) (d a b : Reg) (s : State) : Out :=
  lanePairs (.add64 m d a b) d a b s (aluAdd64 m)

/-- `sub.64` (R165). -/
def execSub64 (m : BitVec 3) (d a b : Reg) (s : State) : Out :=
  lanePairs (.sub64 m d a b) d a b s (aluSub64 m)

/-- `cmp` on 64 bits (R160). -/
def execCmp64 (m : BitVec 3) (d a b : Reg) (s : State) : Out :=
  lanePairCmp (.cmp64 m d a b) d a b s (intCond m)

/-- `lea` (R165): a + (sign-extended b << sh). -/
def execLea (h : BitVec 3) (d a b : Reg) (s : State) : Out :=
  issue (.lea h d a b) [pair d, pair a, one b] [] s
    (laneWb64 (.lea h d a b) s d fun j => aluLea h (s.g.rd64 a.toNat j) (s.g.rd b.toNat)[j])

/-- `and` (R161). -/
def execAnd (d a b : Reg) (s : State) : Out := laneTwo (.and d a b) d a b s (· &&& ·)

/-- `or` (R161). -/
def execOr (d a b : Reg) (s : State) : Out := laneTwo (.or d a b) d a b s (· ||| ·)

/-- `xor` (R161). -/
def execXor (d a b : Reg) (s : State) : Out := laneTwo (.xor d a b) d a b s (· ^^^ ·)

/-- `andn` (R161). -/
def execAndn (d a b : Reg) (s : State) : Out := laneTwo (.andn d a b) d a b s (fun x y => x &&& ~~~y)

/-- `shl` (R161). -/
def execShl (d a b : Reg) (s : State) : Out := laneTwo (.shl d a b) d a b s aluShl

/-- `shr` (R161). -/
def execShr (d a b : Reg) (s : State) : Out := laneTwo (.shr d a b) d a b s aluShr

/-- `sar` (R161). -/
def execSar (d a b : Reg) (s : State) : Out := laneTwo (.sar d a b) d a b s aluSar

/-- `rol` (R161). -/
def execRol (d a b : Reg) (s : State) : Out := laneTwo (.rol d a b) d a b s aluRol

/-- `ror` (R161). -/
def execRor (d a b : Reg) (s : State) : Out := laneTwo (.ror d a b) d a b s aluRor

/-- `popc` (R161). -/
def execPopc (d a : Reg) (s : State) : Out := laneOne (.popc d a) d a s aluPopc

/-- `clz` (R161). -/
def execClz (d a : Reg) (s : State) : Out := laneOne (.clz d a) d a s aluClz

/-- `ctz` (R161). -/
def execCtz (d a : Reg) (s : State) : Out := laneOne (.ctz d a) d a s aluCtz

/-- `brev` (R161). -/
def execBrev (d a : Reg) (s : State) : Out := laneOne (.brev d a) d a s aluBrev

/-- `bfx` (R162): bit 0 of `sg` selects the signed extract. -/
def execBfx (sg : BitVec 1) (d a b : Reg) (s : State) : Out :=
  laneTwo (.bfx sg d a b) d a b s (aluBfx (sg == 1#1))

/-- `bfi` (R162). -/
def execBfi (d a b : Reg) (s : State) : Out :=
  laneThree (.bfi d a b) d a b s fun x y z => aluBfi z x y

/-- `sel` (R163): E is the fourth register of the prefix, v0 without one. -/
def execSel (d a b : Reg) (x : Option (BitVec 24)) (s : State) : Out :=
  issue (.sel d a b x) [one d, one a, one b, one (extE x)] [] s
    (laneWb (.sel d a b x) s d fun j =>
      aluSel (s.g.rd a.toNat)[j] (s.g.rd b.toNat)[j] (s.g.rd (extE x).toNat)[j])

/-- `addi` (R164). -/
def execAddi (d a : Reg) (i : BitVec 10) (x : Option (BitVec 24)) (s : State) : Out :=
  laneOne (.addi d a i x) d a s fun v => v + immI true i x

/-- `andi` (R164). -/
def execAndi (d a : Reg) (i : BitVec 10) (x : Option (BitVec 24)) (s : State) : Out :=
  laneOne (.andi d a i x) d a s fun v => v &&& immI false i x

/-- `ori` (R164). -/
def execOri (d a : Reg) (i : BitVec 10) (x : Option (BitVec 24)) (s : State) : Out :=
  laneOne (.ori d a i x) d a s fun v => v ||| immI false i x

/-- `xori` (R164). -/
def execXori (d a : Reg) (i : BitVec 10) (x : Option (BitVec 24)) (s : State) : Out :=
  laneOne (.xori d a i x) d a s fun v => v ^^^ immI false i x

/-- `muli` (R164). -/
def execMuli (d a : Reg) (i : BitVec 10) (x : Option (BitVec 24)) (s : State) : Out :=
  laneOne (.muli d a i x) d a s fun v => v * immI true i x

/-- `shli` (R164). -/
def execShli (d a : Reg) (i : BitVec 5) (s : State) : Out := laneOne (.shli d a i) d a s fun v => v <<< i.toNat

/-- `shri` (R164). -/
def execShri (d a : Reg) (i : BitVec 5) (s : State) : Out := laneOne (.shri d a i) d a s fun v => v >>> i.toNat

/-- `sari` (R164). -/
def execSari (d a : Reg) (i : BitVec 5) (s : State) : Out := laneOne (.sari d a i) d a s fun v => v.sshiftRight i.toNat

end Sys2Proof.Machine
end

