-- ==== Sys2Proof/Machine/LaneFloat.lean ====
section
/-! DEFINITION. Lane floating-point arithmetic, the approximate functions and the conversions: lane majors 0x30 to 0x54
(R98 to R104, R115 to R117, R166 to R171), and the functions on values that the uniform forms share with them. -/

namespace Sys2Proof.Machine

/-! ### Values -/

/-- The four arithmetic operations of a format on bits: exact, rounded once, clamped by `.sat` (R100, R104). -/
def fpAdd (f : Fp) (m : BitVec 3) (a b : Nat) : Nat := f.encM m (Val.add (m.extractLsb' 0 2) (f.dec a) (f.dec b))
def fpSub (f : Fp) (m : BitVec 3) (a b : Nat) : Nat := f.encM m (Val.add (m.extractLsb' 0 2) (f.dec a) (f.dec b).opp)
def fpMul (f : Fp) (m : BitVec 3) (a b : Nat) : Nat := f.encM m (Val.mul (f.dec a) (f.dec b))
def fpMac (f : Fp) (m : BitVec 3) (a b d : Nat) : Nat :=
  f.encM m (Val.fma (m.extractLsb' 0 2) (f.dec a) (f.dec b) (f.dec d))
def fpCmp (f : Fp) (m : BitVec 3) (a b : Nat) : Bool := fltCond m (Val.cmp (f.dec a) (f.dec b))

/-- An operation on f32 bits as one on words. -/
def w32 (f : Nat → Nat → Nat) (a b : Word) : Word := BitVec.ofNat 32 (f a.toNat b.toNat)
def w32m (f : Nat → Nat → Nat → Nat) (a b d : Word) : Word := BitVec.ofNat 32 (f a.toNat b.toNat d.toNat)
/-- An operation on f64 bits as one on pairs. -/
def w64 (f : Nat → Nat → Nat) (a b : DWord) : DWord := BitVec.ofNat 64 (f a.toNat b.toNat)
/-- The low half of a word. -/
def lo16 (a : Word) : Nat := (a.extractLsb' 0 16).toNat
def hi16 (a : Word) : Nat := (a.extractLsb' 16 16).toNat
/-- A scalar half: bits [15:0] of each source, zero above the result (R99). -/
def wHalf (f : Nat → Nat → Nat) (a b : Word) : Word := BitVec.ofNat 32 (f (lo16 a) (lo16 b))
def wHalfm (f : Nat → Nat → Nat → Nat) (a b d : Word) : Word := BitVec.ofNat 32 (f (lo16 a) (lo16 b) (lo16 d))
/-- Two independent halves (R99). -/
def halves (h l : Nat) : Word := BitVec.ofNat 16 h ++ BitVec.ofNat 16 l
def wPack (f : Nat → Nat → Nat) (a b : Word) : Word := halves (f (hi16 a) (hi16 b)) (f (lo16 a) (lo16 b))
def wPackm (f : Nat → Nat → Nat → Nat) (a b d : Word) : Word :=
  halves (f (hi16 a) (hi16 b) (hi16 d)) (f (lo16 a) (lo16 b) (lo16 d))

/-- `fmin` and `fmax` of major 0x4C by its type field: 0 f16, 1 bf16, 2 f16x2, 3 bf16x2. -/
def minmaxHalf (t : BitVec 2) (mx : Bool) (a b : Word) : Word :=
  match t with
  | 0#2 => wHalf (f16.minmax mx) a b
  | 1#2 => wHalf (bf16.minmax mx) a b
  | 2#2 => wPack (f16.minmax mx) a b
  | _ => wPack (bf16.minmax mx) a b

/-- The IEEE format of a conversion's destination selector (R72). -/
def floatDest (t : BitVec 2) : Fp :=
  match t with
  | 0#2 => f64
  | 1#2 => f32
  | 2#2 => f16
  | _ => bf16

/-- Width and signedness of an integer type code (Table 2-8, codes 0 to 7). -/
def intWidth (t : Nat) : Nat :=
  match t % 4 with
  | 0 => 8
  | 1 => 16
  | 2 => 32
  | _ => 64

/-- The source type code names a 64-bit type. -/
def wideSrc (s : BitVec 4) : Bool := s == 3#4 || s == 7#4 || s == 8#4

/-- The value of a conversion to float, to integer, to narrow, from the 64 bits at A (R115, R116). -/
def toFloat (m : BitVec 3) (s : BitVec 4) (t : BitVec 2) (x : DWord) : DWord :=
  BitVec.ofNat 64 (cvtFloat (floatDest t) m (cvtSrc s.toNat x))
def toInteger (m : BitVec 3) (s : BitVec 4) (t : BitVec 3) (x : DWord) : DWord :=
  cvtInt (intWidth t.toNat) (t.getLsbD 2) m (cvtSrc s.toNat x)
def toNarrow (m : BitVec 3) (s : BitVec 4) (t : BitVec 2) (x : DWord) : DWord :=
  BitVec.ofNat 64 (cvtNarrow t.toNat m (cvtSrc s.toNat x))

/-- Both halves of a packed conversion from f32 (R117). -/
def packTo (f : Fp) (m : BitVec 3) (a b : Word) : Word :=
  halves (cvtFloat f m (.flt (f32.dec b.toNat))) (cvtFloat f m (.flt (f32.dec a.toNat)))

/-! ### Lane forms -/

/-- A lane instruction on two pairs that also reads its destination pair. -/
def lanePairs3 (i : Instr) (d a b : Reg) (s : State) (f : Nat → Nat → Nat → Nat) : Out :=
  issue i [pair d, pair a, pair b] [] s
    (laneWb64 i s d fun j =>
      BitVec.ofNat 64 (f (s.g.rd64 a.toNat j).toNat (s.g.rd64 b.toNat j).toNat (s.g.rd64 d.toNat j).toNat))

/-- The operand of a source or destination of a conversion: a pair when it is 64 bits wide (R171). -/
def wideOpnd (wide : Bool) (r : Reg) : Opnd := if wide then pair r else one r

/-- The 64 bits at A of one lane: the pair, or the register alone. -/
def Group.srcBits (g : Group) (wide : Bool) (a : Reg) (j : Fin 128) : DWord :=
  if wide then g.rd64 a.toNat j else ((g.rd a.toNat)[j]).zeroExtend 64

/-- A lane conversion (R171). -/
def laneCvt (i : Instr) (srcWide dstWide : Bool) (d a : Reg) (s : State) (f : DWord → DWord) : Out :=
  issue i [wideOpnd dstWide d, wideOpnd srcWide a] [] s
    (if dstWide then laneWb64 i s d fun j => f (s.g.srcBits srcWide a j)
     else laneWb i s d fun j => (f (s.g.srcBits srcWide a j)).extractLsb' 0 32)


/-- `fadd.f32` (R166). -/
def execFaddF32 (m : BitVec 3) (d a b : Reg) (s : State) : Out :=
  laneTwo (.faddF32 m d a b) d a b s (w32 (fpAdd f32 m))

/-- `fsub.f32` (R166). -/
def execFsubF32 (m : BitVec 3) (d a b : Reg) (s : State) : Out :=
  laneTwo (.fsubF32 m d a b) d a b s (w32 (fpSub f32 m))

/-- `fmul.f32` (R166). -/
def execFmulF32 (m : BitVec 3) (d a b : Reg) (s : State) : Out :=
  laneTwo (.fmulF32 m d a b) d a b s (w32 (fpMul f32 m))

/-- `fmac.f32` (R166): a × b + d, rounded once. -/
def execFmacF32 (m : BitVec 3) (d a b : Reg) (s : State) : Out :=
  laneThree (.fmacF32 m d a b) d a b s (w32m (fpMac f32 m))

/-- `fmin.f32` (R102). -/
def execFminF32 (d a b : Reg) (s : State) : Out :=
  laneTwo (.fminF32 d a b) d a b s (w32 (f32.minmax false))

/-- `fmax.f32` (R102). -/
def execFmaxF32 (d a b : Reg) (s : State) : Out :=
  laneTwo (.fmaxF32 d a b) d a b s (w32 (f32.minmax true))

/-- `cmp.f32` (R103). -/
def execCmpF32 (m : BitVec 3) (d a b : Reg) (s : State) : Out :=
  laneTwo (.cmpF32 m d a b) d a b s fun x y => predWord (fpCmp f32 m x.toNat y.toNat)

/-- `rcp.f32` (R167, R168). -/
def execRcpF32 (d a : Reg) (s : State) : Out := laneOne (.rcpF32 d a) d a s (approxF32 0#3)

/-- `rsq.f32` (R167, R168). -/
def execRsqF32 (d a : Reg) (s : State) : Out := laneOne (.rsqF32 d a) d a s (approxF32 1#3)

/-- `sqrt.f32` (R167, R168). -/
def execSqrtF32 (d a : Reg) (s : State) : Out := laneOne (.sqrtF32 d a) d a s (approxF32 2#3)

/-- `exp2.f32` (R167, R168). -/
def execExp2F32 (d a : Reg) (s : State) : Out := laneOne (.exp2F32 d a) d a s (approxF32 3#3)

/-- `log2.f32` (R167, R168). -/
def execLog2F32 (d a : Reg) (s : State) : Out := laneOne (.log2F32 d a) d a s (approxF32 4#3)

/-- `tanh.f32` (R167, R168). -/
def execTanhF32 (d a : Reg) (s : State) : Out := laneOne (.tanhF32 d a) d a s (approxF32 5#3)

/-- `fadd.f64` (R166), on pairs. -/
def execFaddF64 (m : BitVec 3) (d a b : Reg) (s : State) : Out :=
  lanePairs (.faddF64 m d a b) d a b s (w64 (fpAdd f64 m))

/-- `fsub.f64` (R166), on pairs. -/
def execFsubF64 (m : BitVec 3) (d a b : Reg) (s : State) : Out :=
  lanePairs (.fsubF64 m d a b) d a b s (w64 (fpSub f64 m))

/-- `fmul.f64` (R166), on pairs. -/
def execFmulF64 (m : BitVec 3) (d a b : Reg) (s : State) : Out :=
  lanePairs (.fmulF64 m d a b) d a b s (w64 (fpMul f64 m))

/-- `fmac.f64` (R166), on pairs. -/
def execFmacF64 (m : BitVec 3) (d a b : Reg) (s : State) : Out :=
  lanePairs3 (.fmacF64 m d a b) d a b s (fpMac f64 m)

/-- `fmin.f64` (R102), on pairs. -/
def execFminF64 (d a b : Reg) (s : State) : Out :=
  lanePairs (.fminF64 d a b) d a b s (w64 (f64.minmax false))

/-- `fmax.f64` (R102), on pairs. -/
def execFmaxF64 (d a b : Reg) (s : State) : Out :=
  lanePairs (.fmaxF64 d a b) d a b s (w64 (f64.minmax true))

/-- `cmp.f64` (R103): pairs compared into one register. -/
def execCmpF64 (m : BitVec 3) (d a b : Reg) (s : State) : Out :=
  lanePairCmp (.cmpF64 m d a b) d a b s fun x y => fpCmp f64 m x.toNat y.toNat

/-- `fadd.f16` (R166, R99). -/
def execFaddF16 (m : BitVec 3) (d a b : Reg) (s : State) : Out :=
  laneTwo (.faddF16 m d a b) d a b s (wHalf (fpAdd f16 m))

/-- `fmul.f16` (R166, R99). -/
def execFmulF16 (m : BitVec 3) (d a b : Reg) (s : State) : Out :=
  laneTwo (.fmulF16 m d a b) d a b s (wHalf (fpMul f16 m))

/-- `fmac.f16` (R166, R99). -/
def execFmacF16 (m : BitVec 3) (d a b : Reg) (s : State) : Out :=
  laneThree (.fmacF16 m d a b) d a b s (wHalfm (fpMac f16 m))

/-- `fadd.bf16` (R166, R99). -/
def execFaddBf16 (m : BitVec 3) (d a b : Reg) (s : State) : Out :=
  laneTwo (.faddBf16 m d a b) d a b s (wHalf (fpAdd bf16 m))

/-- `fmul.bf16` (R166, R99). -/
def execFmulBf16 (m : BitVec 3) (d a b : Reg) (s : State) : Out :=
  laneTwo (.fmulBf16 m d a b) d a b s (wHalf (fpMul bf16 m))

/-- `fmac.bf16` (R166, R99). -/
def execFmacBf16 (m : BitVec 3) (d a b : Reg) (s : State) : Out :=
  laneThree (.fmacBf16 m d a b) d a b s (wHalfm (fpMac bf16 m))

/-- `fadd.f16x2` (R166, R99). -/
def execFaddF16x2 (m : BitVec 3) (d a b : Reg) (s : State) : Out :=
  laneTwo (.faddF16x2 m d a b) d a b s (wPack (fpAdd f16 m))

/-- `fmul.f16x2` (R166, R99). -/
def execFmulF16x2 (m : BitVec 3) (d a b : Reg) (s : State) : Out :=
  laneTwo (.fmulF16x2 m d a b) d a b s (wPack (fpMul f16 m))

/-- `fmac.f16x2` (R166, R99). -/
def execFmacF16x2 (m : BitVec 3) (d a b : Reg) (s : State) : Out :=
  laneThree (.fmacF16x2 m d a b) d a b s (wPackm (fpMac f16 m))

/-- `fadd.bf16x2` (R166, R99). -/
def execFaddBf16x2 (m : BitVec 3) (d a b : Reg) (s : State) : Out :=
  laneTwo (.faddBf16x2 m d a b) d a b s (wPack (fpAdd bf16 m))

/-- `fmul.bf16x2` (R166, R99). -/
def execFmulBf16x2 (m : BitVec 3) (d a b : Reg) (s : State) : Out :=
  laneTwo (.fmulBf16x2 m d a b) d a b s (wPack (fpMul bf16 m))

/-- `fmac.bf16x2` (R166, R99). -/
def execFmacBf16x2 (m : BitVec 3) (d a b : Reg) (s : State) : Out :=
  laneThree (.fmacBf16x2 m d a b) d a b s (wPackm (fpMac bf16 m))

/-- `fmin` and `fmax` of the half and packed formats (R102). -/
def execFminFmaxHalf (t : BitVec 2) (x : BitVec 1) (d a b : Reg) (s : State) : Out :=
  laneTwo (.fminFmaxHalf t x d a b) d a b s (minmaxHalf t (x == 1#1))

/-- `cmp.f16` (R103). -/
def execCmpF16 (m : BitVec 3) (d a b : Reg) (s : State) : Out :=
  laneTwo (.cmpF16 m d a b) d a b s fun x y => predWord (fpCmp f16 m (lo16 x) (lo16 y))

/-- `cmp.bf16` (R103). -/
def execCmpBf16 (m : BitVec 3) (d a b : Reg) (s : State) : Out :=
  laneTwo (.cmpBf16 m d a b) d a b s fun x y => predWord (fpCmp bf16 m (lo16 x) (lo16 y))

/-- `cvt` to f64, f32, f16 or bf16 (R171). -/
def execCvtToFloat (m : BitVec 3) (d a : Reg) (c : BitVec 4) (t : BitVec 2) (s : State) : Out :=
  laneCvt (.cvtToFloat m d a c t) (wideSrc c) (t == 0#2) d a s (toFloat m c t)

/-- `cvt` to an integer type (R171). -/
def execCvtToInteger (m : BitVec 3) (d a : Reg) (c : BitVec 4) (t : BitVec 3) (s : State) : Out :=
  laneCvt (.cvtToInteger m d a c t) (wideSrc c) (t.extractLsb' 0 2 == 3#2) d a s (toInteger m c t)

/-- `cvt` to t8, t6 or e8 (R171). -/
def execCvtToNarrow (m : BitVec 3) (d a : Reg) (c : BitVec 4) (t : BitVec 2) (s : State) : Out :=
  laneCvt (.cvtToNarrow m d a c t) (wideSrc c) false d a s (toNarrow m c t)

/-- `cvt.bf16x2.f32` (R117). -/
def execCvtBf16x2F32 (m : BitVec 3) (d a b : Reg) (s : State) : Out :=
  laneTwo (.cvtBf16x2F32 m d a b) d a b s (packTo bf16 m)

/-- `cvt.f16x2.f32` (R117). -/
def execCvtF16x2F32 (m : BitVec 3) (d a b : Reg) (s : State) : Out :=
  laneTwo (.cvtF16x2F32 m d a b) d a b s (packTo f16 m)

end Sys2Proof.Machine
end

