-- ==== Sys2Proof/Machine/Collectives.lean ====
section
/-! DEFINITION. Collectives (R271 to R274, R395 to R400): uniform majors 0x74 to 0x77, and the steps of the collective
engines. -/

namespace Sys2Proof.Machine

/-! ### The control pair (Table 8-7) -/

def collLen (ctl : DWord) : Nat := bits ctl.toNat 31 0
def collGid (ctl : DWord) : Nat := bits ctl.toNat 43 32
def collType (ctl : DWord) : Nat := bits ctl.toNat 47 44
def collOp (ctl : DWord) : Nat := bits ctl.toNat 49 48
def collRoot (ctl : DWord) : Nat := bits ctl.toNat 61 50

/-- Element bytes of a TYPE of `coll.red`, 0 for a reserved one. -/
def collBytes (ty : Nat) : Nat :=
  match ty with
  | 2 => 4
  | 6 => 4
  | 3 => 8
  | 8 => 8
  | 9 => 4
  | 10 => 2
  | 11 => 2
  | _ => 0

/-- The control pair breaks Table 8-7. -/
def badColl (oper : Nat) (ctl : DWord) : Bool :=
  bits ctl.toNat 63 62 != 0 ||
  (match oper with
   | 0 => collBytes (collType ctl) == 0 || collOp ctl == 3 || collRoot ctl != 0
   | 1 => collType ctl != 0 || collOp ctl != 0
   | _ => collType ctl != 0 || collOp ctl != 0 || collRoot ctl != 0)

/-- Source bytes of one member. -/
def collSrc (oper : Nat) (ctl : DWord) : Nat := if oper = 0 then collLen ctl * collBytes (collType ctl) else collLen ctl

/-- Node operation of a TYPE and OP (R272). -/
def collNode (ty op : Nat) (a b : Nat) : Nat :=
  let int := fun (n : Nat) (uns : Bool) =>
    let x := intOf uns (BitVec.ofNat n a)
    let y := intOf uns (BitVec.ofNat n b)
    if op = 0 then (a + b) % 2 ^ n else if op = 1 then (if x ≤ y then a else b) else (if x ≤ y then b else a)
  let flt := fun (f : Fp) => if op = 0 then fpAdd f 0 a b else f.minmax (op == 2) a b
  match ty with
  | 2 => int 32 false
  | 6 => int 32 true
  | 3 => int 64 false
  | 8 => flt f64
  | 9 => flt f32
  | 10 => flt f16
  | _ => flt bf16

/-! ### The collective table (R395, R396) -/

/-- An absolute place word that R80 refuses. -/
def badAbsPlace (w : Nat) : Bool := !placeOk w

/-- The die and core that a place word means on a die. -/
def State.absPlace (s : State) (dk w : Nat) : Nat × Nat :=
  let n := bits w 19 8
  (if n / 4 = (s.galId dk).1 then dk / 4 * 4 + n % 4 else n, placeCore w)

/-- The absolute place word of a core as its die sees it. -/
def State.placeWord (s : State) (dk core : Nat) : Nat :=
  (s.galId dk).1 * 2 ^ 10 + dk % 4 * 2 ^ 8 + core / 12 * 16 + core % 12

/-- The registered entry of a GID for a core: TABTAG and the place words; none when the GID counts as not registered. -/
def State.collTable (s : State) (dk core gid : Nat) : Option (Word × List Nat) :=
  let at_ := bits (s.dev dk 0x0300).toNat 53 12 * 4096 + 16 * gid
  let list := s.rdN at_ 8
  let ctl := s.rdN (at_ + 8) 4
  let p := bits ctl 13 1
  let places := (List.range p).map fun j => s.rdN (list + 4 * j) 4
  if bits (s.dev dk 0x0308).toNat 12 0 ≤ gid ∨ !tableOk at_ ∨ bits ctl 0 0 = 0 ∨ p = 0 ∨ 4096 < p ∨ bits ctl 31 14 ≠ 0 ∨
      list % 4 ≠ 0 ∨ 2 ^ 54 ≤ list ∨ !tableOk list ∨ !tableOk (list + 4 * p - 1) then none
  else if places.any badAbsPlace ∨ places.eraseDups.length ≠ p ∨ !places.contains (s.placeWord dk core) then none
  else some (BitVec.ofNat 32 (s.rdN (at_ + 12) 4), places)

/-! ### Issue (R273, R397) -/

/-- The precise faults of an issue (R273, R396). DEDUCED: log entry 20. -/
def State.collTraps (s : State) (dk core oper : Nat) (d a ctl : DWord) : List Trap :=
  let tab := s.collTable dk core (collGid ctl)
  let rank := tab.map fun t => t.2.idxOf (s.placeWord dk core)
  let high := fun (p : DWord) (k : Kind) =>
    if p.extractLsb' 56 4 ≠ 0#4 then
      [(⟨3, 8, none, false, p, BitVec.ofNat 64 k.code, p.toNat % 2 ^ 56⟩ : Trap)] else []
  high d .write ++ (if oper = 1 ∧ rank ≠ some (collRoot ctl) then [] else high a .read) ++
  (if badColl oper ctl then [plainTrap 6 2] else []) ++
  (match tab with
   | none => [plainTrap 6 5]
   | some t => if oper = 1 ∧ t.2.length ≤ collRoot ctl then [plainTrap 6 2] else [])

/-- An instance in which a core of a die is a member. -/
def Coll.has (c : Coll) (dk core : Nat) : Bool := c.members.any fun m => m.dk == dk && m.core == core

/-- The fault of an ended instance, as the member's `cwait` reports it (R274). DEDUCED: log entry 19. -/
def Member.fault (m : Member) (cls code sub : Nat) (addr : DWord) : EngFault :=
  ⟨none, m.tag.index, cls, code, none, 0, sub, addr, false⟩

/-- The issue of a member is complete, with its fault: the group's `cwait`, or the parser's run, sees it. -/
def State.collDone (s : State) (key : Nat) (m : Member) (f : Option EngFault) : State :=
  match m.gk with
  | some gk =>
    let g := s.group gk
    if g.status = .ended then s
    else s.setGroup gk { g with colls := g.colls.map fun c => if c.ci = key then { c with done := true, fault := f } else c }
  | none =>
    let d := s.die m.dk
    let res := (f.map fun f => (true, f.cls, f.code)).getD (false, 0, 0)
    s.setDie m.dk { d with runs := d.runs.map fun r =>
      if r.phase = 3 ∧ r.on = key ∧ r.handle.toNat = m.tag.index then { r with ended := some res } else r }

/-- The k-th issue of a GID by a core of a die, counted anew when the entry carries another TABTAG: the key of its instance once it has joined it; none while it must wait for the
instance before to be drained, or for room in the engine (R273, R395, R398). DEDUCED: log entry 49. -/
def State.collJoin (s : State) (m : Member) : Option (State × Nat) :=
  match s.collTable m.dk m.core (collGid m.ctl) with
  | none => none
  | some (tag, places) =>
    let gid := collGid m.ctl
    let ck := coreKey m.dk m.core
    let c := s.core ck
    let n := match Store.find gid c.counts with
      | some (t, n) => if t = tag then n + 1 else 1
      | none => 1
    let key := (s.colls.find? fun x => x.2.gid = gid && x.2.tabtag == tag && x.2.inst = n && x.2.places == places).map (·.1)
    let before := s.colls.any fun x => x.2.gid = gid && x.2.tabtag == tag && x.2.inst + 1 = n &&
      x.2.members.any fun o => o.dk == m.dk && o.core == m.core && !o.noticed
    let flying := s.colls.filter fun x => x.2.members.any fun o => o.dk == m.dk && !o.noticed
    let here := flying.any fun x => some x.1 == key
    if before ∨ (64 ≤ flying.length ∧ !here) then none
    else
      let m := { m with rank := places.idxOf (s.placeWord m.dk m.core) }
      let s := s.setCore ck { c with counts := Store.ins gid (tag, n) c.counts }
      match key with
      | some k =>
        match Store.find k s.colls with
        | some x =>
          let ended := x.performed
          let m := { m with drained := ended, noticed := ended }
          some ({ s with colls := Store.ins k { x with members := x.members ++ [m], since := s.cycle } s.colls }, k)
        | none => none
      | none =>
        let k := s.fresh
        some ({ s with fresh := s.fresh + 1, colls := Store.ins k ⟨gid, tag, n, places, [m], false, 0, [], none, s.cycle⟩ s.colls }, k)

/-- A member that joins an instance which has ended receives the code that ended it (R274). -/
def State.collLate (s : State) (key : Nat) (m : Member) : State :=
  match Store.find key s.colls with
  | some x =>
    if x.performed then
      s.collDone key m (if x.code = 0 then none else some (m.fault 6 x.code 0 m.tag.pc)) else s
  | none => s

/-- A collective instruction. -/
def execColl (i : Instr) (oper : Nat) (d a b : Reg) (s : State) : Out :=
  let g := s.g
  let dp := g.u64 d.toNat
  let ap := g.u64 a.toNat
  let ctl := g.u64 b.toNat
  issue i [pair d, pair a, pair b] [] s
    (match leastTrap (s.collTraps g.dk g.core oper dp ap ctl) with
     | some t => takeTrap t s
     | none =>
      let m : Member := {
        rank := 0, dk := g.dk, core := g.core, gk := some g.key, lk := s.myTeam.lk, oper := oper, ctl := ctl, d := dp, a := ap, heap := g.heap,
        asn := g.asn, priv := g.priv, tag := ⟨none, 0, g.pc.zeroExtend 64, g.mo.next⟩, page := none, hostFail := none,
        drained := false, noticed := false }
      let s' := s.setTeam g.tid { s.myTeam with pinned := true }
      match s'.collJoin m with
      | none => waitFor .busy s
      | some (t, key) =>
        let t := { t with g := { t.g with colls := t.g.colls ++ [(⟨collGid ctl, key, false, none⟩ : CollIssue)] } }
        done i (t.collLate key m))

/-- `coll.red` (R272). -/
def execCollRed (d a b : Reg) (s : State) : Out := execColl (.collRed d a b) 0 d a b s

/-- `coll.bcast` (R272). -/
def execCollBcast (d a b : Reg) (s : State) : Out := execColl (.collBcast d a b) 1 d a b s

/-- `coll.gath` (R272). -/
def execCollGath (d a b : Reg) (s : State) : Out := execColl (.collGath d a b) 2 d a b s

/-- `cwait` (R274). -/
def execCwait (a : Reg) (s : State) : Out :=
  let i : Instr := .cwait a
  let gid := bits (s.g.u a.toNat).toNat 11 0
  issue i [one a] [] s
    (let mine := s.g.colls.filter fun c => c.gid = gid
     if mine.any fun c => !c.done then waitFor .cwait s
     else
      match mine.findSome? (·.fault) with
      | some f =>
        takeTrap f.trap { s with g := { s.g with colls := s.g.colls.map fun c => if c.gid = gid ∧ c.fault = some f then { c with fault := none } else c } }
      | none => done i { s.acquired with g := { s.acquired.g with colls := s.g.colls.filter fun c => c.gid != gid } })

/-! ### The engines -/

/-- A member's issue is complete: none of its chunks is still to be written. -/
def Coll.finished (x : Coll) (rank : Nat) : Bool :=
  match x.todo with
  | some ts => !(ts.any fun t => t.1 == rank)
  | none => false

/-- An instance ends with a fault; it counts as drained (R274, R400). A lost member's code goes to every member, and is kept for the
later instances of the registration; another fault to those whose issue is not complete. -/
def State.endColl (s : State) (key cls code sub : Nat) (addr : Option DWord) : State :=
  match Store.find key s.colls with
  | some x =>
    if x.performed then s
    else
      let lost := cls = 6 ∧ code = 7
      let s := { s with
        lostRegs := if lost ∧ !s.lostRegs.contains (x.gid, x.tabtag, x.places) then s.lostRegs ++ [(x.gid, x.tabtag, x.places)]
          else s.lostRegs
        colls := Store.ins key { x with
          performed := true, code := if cls = 6 then code else 0, nodes := []
          members := x.members.map fun m => { m with drained := true, noticed := true } } s.colls }
      let s := x.members.foldl (fun s m =>
        if !lost ∧ x.finished m.rank then s else s.collDone key m (some (m.fault cls code sub (addr.getD m.tag.pc)))) s
      if x.members.length = x.places.length then { s with colls := Store.erase key s.colls } else s
  | none => s

/-- Members whose control words disagree (R274). -/
def Coll.disagree (c : Coll) : Bool :=
  match c.members with
  | [] => false
  | m :: t => t.any fun o => o.oper != m.oper || o.ctl != m.ctl

/-- Another instance of the GID with a member at one of the places, under another TABTAG, or with the same instance number and
another list (R396). DEDUCED: log entry 23. -/
def State.collClash (s : State) (x : Coll) (dk : Nat) : Option Nat :=
  let at_ := x.places.map (s.absPlace dk)
  (s.colls.find? fun y => y.2.gid = x.gid && !y.2.performed &&
    (y.2.tabtag != x.tabtag || (y.2.inst == x.inst && y.2.places != x.places)) &&
    y.2.members.any fun m => at_.contains (m.dk, m.core)).map (·.1)

/-- A member's engine gets no answer from a place: no route (R384), its package gone (R420), or a package that does not act on the
other's packets (R402, R418). -/
def State.collMute (s : State) (x : Coll) : Bool :=
  x.members.any fun m => x.places.any fun w =>
    let p := (s.absPlace m.dk w).1
    (s.pkg (p / 4)).dead || !(p / 4 != m.dk / 4 || s.dieRoute m.dk p) || !s.hears p (m.dk / 4) || !s.srcOk p (m.dk / 4)

/-- A place that a member's engine cannot reach, or whose cell is declared dead, or a registration of which an instance has lost a
member before (R400, R424). -/
def State.collLost (s : State) (x : Coll) : Bool :=
  s.lostRegs.contains (x.gid, x.tabtag, x.places) ||
  x.members.any fun m => x.places.any fun w =>
    let p := (s.absPlace m.dk w).1
    !s.reachable m.dk (p / 4) ||
    (match s.cellOf m.dk (bits w 19 10) with
      | some c => (s.dev m.dk 0x0808).getLsbD c
      | none => false)

def Member.ctx (m : Member) : Ctx := ⟨m.dk, m.asn, m.priv, m.heap, false⟩

/-- A member's access of `n` bytes through a pointer. -/
def State.collXlat (s : State) (m : Member) (p : DWord) (n : Nat) (k : Kind) : EngRes :=
  if n = 0 then .ok [] else s.engXlat m.ctx m.hostFail p.toNat n k

/-- The member read at: every member's own source, but for `coll.bcast` the root's alone. -/
def Member.reads (m : Member) : Bool := m.oper != 1 || m.rank == collRoot m.ctl

/-- A page that the access of the member of a rank waits for is asked for (R339, R343). -/
def State.collAsk (s : State) (key : Nat) (x : Coll) (m : Member) (r : EngRes) : State :=
  let put := fun (s : State) (n : Nat) =>
    { s with colls := Store.ins key { x with members := x.members.map fun o =>
      if o.rank = m.rank then { o with page := some n } else o } s.colls }
  match r with
  | .page va k => let q := s.engPage m.dk va m.asn k 3 m.core; put q.1 q.2
  | .ask k => put (s.askFor m.dk k) (hostPage k)
  | _ => s

/-! #### Chunks (R399) -/

/-- Elements of `n` bytes of two children of a node, with the result of the node's operation. -/
def nodeBytes (op : Nat → Nat → Nat) (n : Nat) (a b : List Byte) : List Byte :=
  (List.range (a.length / n)).flatMap fun e => bytesLE (op (natLE (slice a (n * e) n)) (natLE (slice b (n * e) n))) n

/-- A node of the tree: its right child has been formed, or it has none and its left child passes up (R121, R123). -/
def formNode (op : Nat → Nat → Nat) (n : Nat) (a : List Byte) (b : Option (List Byte)) : List Byte :=
  match b with
  | some b => nodeBytes op n a b
  | none => a

/-- The level of the root over `p` members. -/
def topLevel (p : Nat) : Nat := Nat.log2 (2 * p - 1)

/-- The chunks of `n` bytes: the offsets of up to 256 bytes each. -/
def chunkOffs (n : Nat) : List Nat := (List.range ((n + 255) / 256)).map (256 * ·)

/-- A step of an instance: a member reads a chunk of its source; a node is formed at the level and number; a chunk of the result is
written to the member of a rank. -/
inductive CollAct where
  | leaf (rank off : Nat)
  | form (level m off : Nat)
  | write (rank off : Nat)
  deriving DecidableEq, Repr

/-- The chunk formed at a node. -/
def Coll.node (x : Coll) (level m off : Nat) : Option (List Byte) := (x.nodes.find? fun e => e.1 == (level, m, off)).map (·.2)

/-- The node whose chunk stands at an offset of the result: the root of `coll.red`, the root member's source of `coll.bcast`, the
block of a member of `coll.gath`. -/
def Coll.resultAt (x : Coll) (oper : Nat) (ctl : DWord) (o : Nat) : Nat × Nat × Nat :=
  match oper with
  | 0 => (topLevel x.places.length, 0, o)
  | 1 => (0, collRoot ctl, o)
  | _ => (0, o / collLen ctl, o % collLen ctl)

/-- Bytes of a result, and the offsets of its chunks: for `coll.gath` those of each member's block. -/
def resultLen (oper : Nat) (ctl : DWord) (p : Nat) : Nat := if oper = 2 then p * collLen ctl else collSrc oper ctl
def resultOffs (oper : Nat) (ctl : DWord) (p : Nat) : List Nat :=
  if oper = 2 then (List.range p).flatMap fun r => (chunkOffs (collLen ctl)).map (r * collLen ctl + ·) else chunkOffs (collSrc oper ctl)

/-- The nodes of a chunk of `coll.red` that can be formed now. -/
def Coll.forms (x : Coll) (off : Nat) : List CollAct :=
  let p := x.places.length
  (List.range (topLevel p)).flatMap fun l =>
    ((List.range ((p + 2 ^ (l + 1) - 1) / 2 ^ (l + 1))).filter fun m =>
      (x.node (l + 1) m off).isNone && (x.node l (2 * m) off).isSome &&
      ((x.node l (2 * m + 1) off).isSome || decide (p ≤ (2 * m + 1) * 2 ^ l))).map fun m => .form (l + 1) m off

/-- What can happen next in an instance: members that have issued read their sources, nodes are formed, chunks of the result are
written, in any order (R399). -/
def Coll.acts (x : Coll) : List CollAct :=
  (x.members.filter Member.reads).flatMap (fun m =>
    ((chunkOffs (collSrc m.oper m.ctl)).filter fun o => (x.node 0 m.rank o).isNone).map fun o => .leaf m.rank o) ++
  (match x.members with
    | [] => []
    | m :: _ =>
      (if m.oper = 0 then (chunkOffs (collSrc m.oper m.ctl)).flatMap x.forms else []) ++
      (((x.todo.getD []).filter fun t =>
        let k := x.resultAt m.oper m.ctl t.2
        (x.node k.1 k.2.1 k.2.2).isSome).map fun t => .write t.1 t.2))

/-- An instance with another record of it. -/
def State.setColl (s : State) (key : Nat) (x : Coll) : State := { s with colls := Store.ins key x s.colls }

/-- Every member has issued the instance: the chunks of the result are set out for every member (R399). -/
def State.collOpen (s : State) (key : Nat) (x : Coll) : State :=
  match x.members with
  | [] => s
  | m0 :: _ =>
    let offs := resultOffs m0.oper m0.ctl x.places.length
    let todo := (List.range x.places.length).flatMap fun r => offs.map fun o => (r, o)
    let s := s.setColl key { x with todo := some todo, performed := todo.isEmpty, since := s.cycle }
    if todo.isEmpty then x.members.foldl (fun s m => s.collDone key m none) s else s

/-- A member reads a chunk of its source, after every access of its group before the issue (R273). -/
def State.collLeaf (s : State) (key : Nat) (x : Coll) (m : Member) (off : Nat) : State :=
  let s := match m.gk with
    | some gk => s.issuedBy gk m.tag.ord
    | none => s
  match s.collXlat m (m.a + BitVec.ofNat 64 off) (min 256 (collSrc m.oper m.ctl - off)) .read with
  | .ok ps =>
    let s := s.mark ps
    let bs := s.engRead m.dk (ps.map fun p => (p.x.home, p.x.ga, p.len))
    s.setColl key { x with nodes := x.nodes ++ [((0, m.rank, off), bs)], since := s.cycle }
  | .bad code sub ptr => s.endColl key 5 code sub (some (BitVec.ofNat 64 ptr))
  | w => s.collAsk key x m w

/-- A node is formed at the member of its rank (R123, R399). -/
def State.collForm (s : State) (key : Nat) (x : Coll) (level m off : Nat) : State :=
  match x.members, x.node (level - 1) (2 * m) off with
  | m0 :: _, some a =>
    let ty := collType m0.ctl
    let bs := formNode (collNode ty (collOp m0.ctl)) (collBytes ty) a (x.node (level - 1) (2 * m + 1) off)
    s.setColl key { x with nodes := x.nodes ++ [((level, m, off), bs)], since := s.cycle }
  | _, _ => s

/-- The chunks that `ts` lists are left, and the instance is over with the last; the member of a rank has its result or its fault. -/
def State.collLeft (s : State) (key : Nat) (x : Coll) (m : Member) (ts : List (Nat × Nat)) (f : Option EngFault) : State :=
  let x := { x with todo := some ts, performed := ts.isEmpty, nodes := if ts.isEmpty then [] else x.nodes, since := s.cycle }
  let s := s.setColl key x
  if x.finished m.rank then s.collDone key m f else s

/-- A chunk of the result reaches a member and is written (R399); poison that it meets stays, and the member faults (R428, R429). -/
def State.collWrite (s : State) (key : Nat) (x : Coll) (m : Member) (off : Nat) (bs : List Byte) : State :=
  let ts := x.todo.getD []
  let fail := fun (code sub ptr : Nat) =>
    s.collLeft key x m (ts.filter fun t => t.1 != m.rank) (some (m.fault 5 code sub (BitVec.ofNat 64 ptr)))
  match s.collXlat m (m.d + BitVec.ofNat 64 off) bs.length .write with
  | .ok ps =>
    match s.engPoison ps with
    | some va => fail 3 1 (bits m.d.toNat 63 60 * 2 ^ 60 + va)
    | none => ((s.workDone m.lk 0 bs.length 0).engStore m.dk ps bs).collLeft key x m (ts.filter (· != (m.rank, off))) none
  | .bad code sub ptr => fail code sub ptr
  | w => s.collAsk key x m w

/-- One step of an instance. DESIGN CHOICE: log entry 42. -/
def State.collAct (s : State) (key : Nat) (x : Coll) (a : CollAct) : State :=
  let at_ := fun (r : Nat) => x.members.find? fun m => m.rank = r
  match a with
  | .leaf r off =>
    match at_ r with
    | some m => s.collLeaf key x m off
    | none => s
  | .form l m off => s.collForm key x l m off
  | .write r off =>
    match at_ r, x.members with
    | some m, m0 :: _ =>
      let k := x.resultAt m0.oper m0.ctl off
      match x.node k.1 k.2.1 k.2.2 with
      | some bs => s.collWrite key x m off bs
      | none => s
    | _, _ => s

/-- A member's access waits behind the block of a migration (R346). -/
def State.collBlocked (s : State) (x : Coll) : Bool :=
  x.members.any fun m =>
    (s.okPieces m.ctx m.a.toNat (if m.reads then collSrc m.oper m.ctl else 0) .read ++
      s.okPieces m.ctx m.d.toNat (resultLen m.oper m.ctl x.places.length) .write).any fun q =>
        q.x.home != 4 && q.x.home != 5 && s.blocked q.x.ga

/-- COLLECTIVE_PACKET: the exchange of an instance, then its step `i` (R396, R399, R400). -/
def State.collPacket (s : State) (key i : Nat) : State :=
  match Store.find key s.colls with
  | some x =>
    if x.performed ∨ x.members.any fun m => m.page.isSome then s
    else
      match s.collClash x ((x.members.head?.map (·.dk)).getD 0) with
      | some other => (s.endColl key 6 6 0 none).endColl other 6 6 0 none
      | none =>
        if x.disagree then s.endColl key 6 6 0 none
        else if s.collLost x then s.endColl key 6 7 0 none
        else if s.collMute x then s
        else if x.todo.isNone ∧ x.members.length = x.places.length then s.collOpen key x
        else
          match x.acts[i]? with
          | some a => s.collAct key x a
          | none => s
  | none => s

/-- COLLECTIVE_PACKET (R399). -/
def execCollectivePacket (s : State) : Out := .next (s.collPacket s.arg.key s.arg.sub)

/-- A member of a rank changed, and the record dropped once every member has its notice. -/
def State.collMember (s : State) (key rank : Nat) (f : Member → Member) : State :=
  match Store.find key s.colls with
  | some x =>
    let ms := x.members.map fun m => if m.rank = rank then f m else m
    if ms.length = x.places.length ∧ ms.all fun m => m.noticed then { s with colls := Store.erase key s.colls }
    else { s with colls := Store.ins key { x with members := ms } s.colls }
  | none => s

/-- COLLECTIVE_DRAIN_REPORT (R398): the member's report reaches rank 0. -/
def execCollectiveDrainReport (s : State) : Out :=
  .next (match Store.find s.arg.key s.colls with
    | some x => if x.performed then s.collMember s.arg.key s.arg.sub fun m => { m with drained := true } else s
    | none => s)

/-- COLLECTIVE_DRAINED_NOTICE (R398): the member learns that the instance is drained everywhere. -/
def execCollectiveDrainedNotice (s : State) : Out :=
  .next (match Store.find s.arg.key s.colls with
    | some x =>
      if x.performed ∧ x.members.all fun m => m.drained then s.collMember s.arg.key s.arg.sub fun m => { m with noticed := true }
      else s
    | none => s)

end Sys2Proof.Machine
end

