-- ==== Sys2Proof/Machine/Matrix.lean ====
section
/-! DEFINITION. Matrix operations, scale state and batches: uniform majors 0x50 to 0x5F (R213 to R233), and the step in which
an issued operation completes. -/

namespace Sys2Proof.Machine

/-! ### Forms (Table 7-1) -/

/-- The shape of a matrix operation: operand type (0 bf16, 1 f16, 2 t8, 3 t6, 4 i4), `n` of 16 kept (0 dense), quad. -/
structure MatForm where
  ty : Nat
  n : Nat
  quad : Bool
  deriving DecidableEq, Repr

/-- The form of an operation of OP 0x50 to 0x5B. -/
def matForm (op : Nat) (m sel : BitVec 3) : MatForm :=
  let base := if 0x56 ≤ op then op - 0x56 else op - 0x50
  if base = 5 then ⟨sel.toNat, 2 ^ ((m.extractLsb' 1 2).toNat + 1), decide (0x56 ≤ op)⟩
  else ⟨base, 0, decide (0x56 ≤ op)⟩

/-- Stored elements per row in a sparse row, and the K positions of a step. -/
def MatForm.stored (f : MatForm) : Nat := if f.ty < 2 then 16 else 32
def MatForm.kd (f : MatForm) : Nat := if f.n = 0 then f.stored else 16 * f.stored / f.n
def MatForm.kr (f : MatForm) : Nat := f.stored

/-- Registers of A, B, E, and columns. -/
def MatForm.aRegs (f : MatForm) : Nat := if f.ty = 3 then 6 else if f.ty = 4 then 16 else 8
def MatForm.bRegs (f : MatForm) : Nat := f.kd / f.kr
def MatForm.eRegs (f : MatForm) : Nat := if f.n = 0 then 0 else f.stored / f.n
def MatForm.wc (f : MatForm) : Nat := if f.quad then 64 else 16

/-- Element widths of A and B. -/
def MatForm.aBits (f : MatForm) : Nat :=
  match f.ty with
  | 2 => 8
  | 3 => 6
  | _ => 16
def MatForm.bBits (f : MatForm) : Nat := if f.ty = 4 then 4 else f.aBits

/-! ### Scale state (Table 1-4, R222) -/

def scaleMode (s : DWord) : Nat := (s.extractLsb' 0 4).toNat
def scaleA (s : DWord) : Nat := (s.extractLsb' 4 7).toNat
def scaleB (s : DWord) : Nat := (s.extractLsb' 11 7).toNat
def scaleK (s : DWord) : Nat := (s.extractLsb' 18 14).toNat

/-- The scale block of K offset `k`. -/
def scaleBlock (s : DWord) (k : Nat) : Nat := (16 * scaleK s + k) / 128

/-- Blocks that a step of `kd` positions touches, from its first. -/
def scaleBlocks (s : DWord) (kd : Nat) : List Nat :=
  (List.range (scaleBlock s (kd - 1) + 1 - scaleBlock s 0)).map fun j => scaleBlock s 0 + j

/-- The mode fits the operation (R223). -/
def scaleFits (f : MatForm) (s : DWord) : Bool := if f.ty = 4 then scaleMode s == 4 else decide (scaleMode s < 4)

/-- The A-side and B-side scale registers of a step, one per block. -/
def scaleRegsA (s : DWord) (kd : Nat) : List Nat :=
  if scaleMode s = 1 ∨ scaleMode s = 3 then (scaleBlocks s kd).map fun b => scaleA s + b / 4 else []
def scaleRegsB (s : DWord) (kd : Nat) : List Nat :=
  if scaleMode s = 2 ∨ scaleMode s = 3 then (scaleBlocks s kd).map fun b => scaleB s + b / 4
  else if scaleMode s = 4 then (scaleBlocks s kd).map fun b => scaleB s + b
  else []

/-- KPOS advanced by a step. -/
def scaleAdvance (s : DWord) (kd : Nat) : DWord :=
  s.extractLsb' 32 32 ++ BitVec.ofNat 14 (scaleK s + kd / 16) ++ s.extractLsb' 0 18

/-! ### Issue (R214, R215) -/

/-- `count` registers from `base`, whose base must be a multiple of 4 and not v0. -/
def matOpnd (r : Reg) (count : Nat) : Opnd := ⟨r.toNat, count, 4⟩

/-- A member of the group's quad has ended without issuing its part of step `j`, and can issue it no longer (R227). -/
def State.quadOrphan (s : State) (g : Group) (j : Nat) : Bool :=
  (List.range (s.team g.tid).size).any fun n =>
    let h := s.group (16 * g.tid + n)
    h.role == g.role && h.ridx / 4 == g.ridx / 4 && h.status == .ended && decide (h.quads ≤ j)

/-- A matrix operation issued: the rows of its destination come before the checks of class 8, the lower class (R46). Scale
registers are checked against the budget only where MODE fits the operation. DESIGN CHOICE: log entry 60. A quad part whose
partner has ended faults at once, asynchronously (R227). -/
def execMatrix (i : Instr) (op : Nat) (m sel : BitVec 3) (d a b e : Reg) (s : State) : Out :=
  let f := matForm op m sel
  let g := s.g
  let fits := scaleFits f g.mscl
  let sa := if fits then scaleRegsA g.mscl f.kd else []
  let sb := if fits then scaleRegsB g.mscl f.kd else []
  let ops := [matOpnd d f.wc, matOpnd a f.aRegs, matOpnd b f.bRegs] ++ (if f.n = 0 then [] else [matOpnd e f.eRegs]) ++
    (sa ++ sb).map fun r => (⟨r, 1, 1⟩ : Opnd)
  issue i ops [] s
    (match g.reserve s.freeRows d.toNat f.wc with
     | none => rowFault s
     | some g' =>
      if !fits then takeTrap (plainTrap 8 3) s
      else if f.quad ∧ (g.quadOf s.myTeam).isNone then takeTrap (plainTrap 8 4) s
      else
        let regs := fun (r n : Nat) => (List.range n).map fun j => g.rd (r + j)
        let o : MatOp :=
          { tag := ⟨none, g.index, g.pc.zeroExtend 64, g.mo.next⟩
            op := op
            m := m
            sel := sel
            d := d.toNat
            a := regs a.toNat f.aRegs
            b := regs b.toNat f.bRegs
            e := regs e.toNat f.eRegs
            c := if m.getLsbD 0 then List.replicate f.wc zeroLanes else regs d.toNat f.wc
            mscl := g.mscl
            sa := sa.map g.rd
            sb := sb.map g.rd
            step := if f.quad then g.quads else 0 }
        let lost := f.quad ∧ s.quadOrphan g g.quads
        done i { s with g := { g' with mat := if lost then g.mat else g.mat ++ [o]
                                       faults := if lost then g.faults ++ [⟨none, g.index, 8, 6, none, 0, 0, o.tag.pc, false⟩] else g.faults
                                       index := g.index + 1, mscl := scaleAdvance g.mscl f.kd
                                       quads := if f.quad then g.quads + 1 else g.quads } })

/-- `mma.bf16` (R219). -/
def execMmaBf16 (z : BitVec 1) (d a b : Reg) (s : State) : Out :=
  execMatrix (.mmaBf16 z d a b) 0x50 (z.zeroExtend 3) 0 d a b 0 s

/-- `mma.f16` (R219). -/
def execMmaF16 (z : BitVec 1) (d a b : Reg) (s : State) : Out :=
  execMatrix (.mmaF16 z d a b) 0x51 (z.zeroExtend 3) 0 d a b 0 s

/-- `mma.t8` (R219). -/
def execMmaT8 (z : BitVec 1) (d a b : Reg) (s : State) : Out :=
  execMatrix (.mmaT8 z d a b) 0x52 (z.zeroExtend 3) 0 d a b 0 s

/-- `mma.t6` (R219). -/
def execMmaT6 (z : BitVec 1) (d a b : Reg) (s : State) : Out :=
  execMatrix (.mmaT6 z d a b) 0x53 (z.zeroExtend 3) 0 d a b 0 s

/-- `mma.i4` (R219). -/
def execMmaI4 (z : BitVec 1) (d a b : Reg) (s : State) : Out :=
  execMatrix (.mmaI4 z d a b) 0x54 (z.zeroExtend 3) 0 d a b 0 s

/-- `mmas` (R220). -/
def execMmas (n : BitVec 2) (z : BitVec 1) (d a b : Reg) (x : Option (BitVec 24)) (s : State) : Out :=
  execMatrix (.mmas n z d a b x) 0x55 (n ++ z) (extSel x) d a b (extE x) s

/-- `mmaq.bf16` (R219). -/
def execMmaqBf16 (z : BitVec 1) (d a b : Reg) (s : State) : Out :=
  execMatrix (.mmaqBf16 z d a b) 0x56 (z.zeroExtend 3) 0 d a b 0 s

/-- `mmaq.f16` (R219). -/
def execMmaqF16 (z : BitVec 1) (d a b : Reg) (s : State) : Out :=
  execMatrix (.mmaqF16 z d a b) 0x57 (z.zeroExtend 3) 0 d a b 0 s

/-- `mmaq.t8` (R219). -/
def execMmaqT8 (z : BitVec 1) (d a b : Reg) (s : State) : Out :=
  execMatrix (.mmaqT8 z d a b) 0x58 (z.zeroExtend 3) 0 d a b 0 s

/-- `mmaq.t6` (R219). -/
def execMmaqT6 (z : BitVec 1) (d a b : Reg) (s : State) : Out :=
  execMatrix (.mmaqT6 z d a b) 0x59 (z.zeroExtend 3) 0 d a b 0 s

/-- `mmaq.i4` (R219). -/
def execMmaqI4 (z : BitVec 1) (d a b : Reg) (s : State) : Out :=
  execMatrix (.mmaqI4 z d a b) 0x5a (z.zeroExtend 3) 0 d a b 0 s

/-- `mmaqs` (R220). -/
def execMmaqs (n : BitVec 2) (z : BitVec 1) (d a b : Reg) (x : Option (BitVec 24)) (s : State) : Out :=
  execMatrix (.mmaqs n z d a b x) 0x5b (n ++ z) (extSel x) d a b (extE x) s

/-! ### The exact dot product (R118, R119, R216 to R222) -/

/-- Lane `j` of a register, by number. -/
def laneWord (v : Lanes) (j : Nat) : Word := (v[j]?).getD 0#32

/-- The value of little-endian words. -/
def wordsVal : List Word → Nat
  | [] => 0
  | w :: t => w.toNat + 2 ^ 32 * wordsVal t

/-- The packed sequence of row `i` of A. -/
def MatOp.rowSeq (o : MatOp) (i : Fin 128) : Nat := wordsVal (o.a.map fun r => r[i])

/-- The packed sequence of column `n` (0 to 15) in register `r` of B: eight lanes, or four for i4 (Table 7-2). -/
def MatOp.colSeq (o : MatOp) (f : MatForm) (r n : Nat) : Nat :=
  let v := (o.b[r]?).getD zeroLanes
  let per := if f.ty = 4 then 4 else 8
  wordsVal ((List.range per).map fun j => laneWord v (per * n + j))

/-- A value decoded from its code (R107). -/
def matDec (ty code : Nat) : Val :=
  match ty with
  | 1 => f16.dec code
  | 2 => t8.dec code
  | 3 => t6.dec code
  | _ => bf16.dec code

/-- Field `k` of width `w` in a packed sequence. -/
def field (seq w k : Nat) : Nat := seq / 2 ^ (w * k) % 2 ^ w

/-- The scale code of a block: byte `b % 4` of the block's register in a lane. -/
def scaleCode (s : DWord) (regs : List Lanes) (k lane : Nat) : Nat :=
  let b := scaleBlock s k
  field (laneWord ((regs[b - scaleBlock s 0]?).getD zeroLanes) lane).toNat 8 (b % 4)

/-- SA(i, k) of the rows' member (R222). -/
def MatOp.scaleOfA (o : MatOp) (i : Fin 128) (k : Nat) : Option Val :=
  if scaleMode o.mscl = 1 ∨ scaleMode o.mscl = 3 then some (e8Dec (scaleCode o.mscl o.sa k i.val)) else none

/-- SB(k, n) of the member that owns column `n`. -/
def MatOp.scaleOfB (o : MatOp) (n k : Nat) : Option Val :=
  if scaleMode o.mscl = 2 ∨ scaleMode o.mscl = 3 then some (e8Dec (scaleCode o.mscl o.sb k n)) else none

/-- B'[k][n]: decoded, or expanded from i4 (R111). -/
def MatOp.elemB (o : MatOp) (f : MatForm) (n k : Nat) : Val :=
  let code := field (o.colSeq f (k / f.kr) n) f.bBits (k % f.kr)
  if f.ty = 4 then
    let p := laneWord ((o.sb[scaleBlock o.mscl k - scaleBlock o.mscl 0]?).getD zeroLanes) n
    bf16.dec (i4Expand (BitVec.ofNat 4 code).toInt (p.extractLsb' 16 8).toInt (p.extractLsb' 0 16).toNat)
  else matDec f.ty code

/-- A term with its scales. -/
def matTerm (a b : Val) (sa sb : Option Val) : Val :=
  let t := Val.mul a b
  let t := match sa with
    | some v => Val.mul t v
    | none => t
  match sb with
  | some v => Val.mul t v
  | none => t

/-- K positions of a row that form terms, with the place of their stored element. -/
def MatOp.rowKeeps (o : MatOp) (f : MatForm) (i : Fin 128) : List (Nat × Nat) :=
  if f.n = 0 then (List.range f.kd).map fun k => (k, k)
  else
    (List.range f.eRegs).flatMap fun g => (List.range f.n).map fun j =>
      (16 * g + field ((((o.e[g]?).getD zeroLanes)[i]).toNat) 4 j, g * f.n + j)

/-- One element of the result: row `i` of operation `o`, column `n` of the member `w` that owns it, into C element `c`. -/
def matDot (o w : MatOp) (f : MatForm) (i : Fin 128) (n : Nat) (c : Word) : Word :=
  let row := o.rowSeq i
  let aTy := if f.ty = 4 then 0 else f.ty
  BitVec.ofNat 32 (dotRound (f32.dec c.toNat) ((o.rowKeeps f i).map fun p =>
    matTerm (matDec aTy (field row f.aBits p.2)) (w.elemB f n p.1) (o.scaleOfA i p.1) (w.scaleOfB n p.1)))

/-- The result registers of `o`, the columns of quarter q supplied by `parts[q]` (R226). -/
def MatOp.result (o : MatOp) (f : MatForm) (parts : List MatOp) : List Lanes :=
  (List.range f.wc).map fun c =>
    let w := (parts[c / 16]?).getD o
    Lanes.tab fun i => matDot o w f i (c % 16) ((o.c[c]?).getD zeroLanes)[i]

/-- A metadata word is valid: indices strictly ascending, higher bits zero (R114). -/
def metaOk (n : Nat) (w : Word) : Bool :=
  w.toNat / 2 ^ (4 * n) == 0 && (List.range (n - 1)).all fun j => decide (field w.toNat 4 j < field w.toNat 4 (j + 1))

/-- The lowest lane with an invalid metadata word (R221). -/
def MatOp.badLane (o : MatOp) (f : MatForm) : Option Nat :=
  if f.n = 0 then none else (allLanes.find? fun i => o.e.any fun r => !metaOk f.n r[i]).map (·.val)

/-! ### Completion (R214, R225 to R227) -/

def MatOp.form (o : MatOp) : MatForm := matForm o.op o.m o.sel

/-- An asynchronous fault of a matrix operation (R232). -/
def MatOp.fault (o : MatOp) (cls code : Nat) (lane : Option Nat) : EngFault :=
  ⟨o.tag.num, o.tag.index, cls, code, lane, 0, 0, o.tag.pc, false⟩

/-- One operation leaves the pending list of its group: its results are written, each in the full row that its issue reserved
(R214), which is as wide as any class (R20); or its fault is recorded. -/
def Group.finishOp (g : Group) (o : MatOp) (parts : List MatOp) : Group :=
  let g := { g with mat := g.mat.erase o }
  match o.badLane o.form with
  | some l => { g with faults := g.faults ++ [o.fault 8 1 (some l)] }
  | none => ((o.result o.form parts).mapIdx fun j v => (j, v)).foldl (fun g p => g.wr (o.d + p.1) p.2) g

/-- The members of a group's quad, by member number. -/
def State.quadKeys (s : State) (g : Group) : List Nat :=
  ((s.teamGroups g.tid).filter fun h => h.role = g.role && h.ridx / 4 = g.ridx / 4).map Group.key

/-- The parts of quad step `j` that the members have issued: group key and part, in member order; the part of a member in a
frame rejoins its step when the frame is restored (R228). -/
def State.quadParts (s : State) (g : Group) (j : Nat) : List (Nat × MatOp) :=
  ((s.quadKeys g).filter fun k => s.resident (s.group k)).filterMap fun k => ((s.group k).mat.find? fun o => 0x56 ≤ o.op && o.step = j).map fun o => (k, o)

/-- The operation can complete: every part of its quad step has been issued (R225). -/
def State.canFinish (s : State) (g : Group) (o : MatOp) : Bool :=
  if o.op < 0x56 then true else (s.quadParts g o.step).length == 4

/-- One operation leaves the pending list with a fault. -/
def Group.failOp (g : Group) (o : MatOp) (cls code : Nat) : Group :=
  { g with mat := g.mat.erase o, faults := g.faults ++ [o.fault cls code none] }

/-- One operation of the group completes; a quad step completes for all its members (R225, R227). `fails`: the array of this
group fails its check, so that its own operation writes nothing and faults (R233). -/
def State.matFinish (s : State) (k : Nat) (fails : Bool) : State :=
  let g := s.group k
  match g.mat.find? (s.canFinish g) with
  | none => s
  | some o =>
    if o.op < 0x56 then (s.setGroup k (if fails then g.failOp o 9 4 else g.finishOp o [])).settle k
    else
      let ps := s.quadParts g o.step
      let same := ps.all fun p => p.2.op == o.op && p.2.m == o.m && p.2.sel == o.sel
      ps.foldl (fun s p =>
        let h := s.group p.1
        let h := if !same then h.failOp p.2 8 5
          else if fails ∧ p.1 = k then h.failOp p.2 9 4
          else h.finishOp p.2 (ps.map (·.2))
        (s.setGroup p.1 h).settle p.1) s

def State.matComplete (s : State) (k : Nat) : State := s.matFinish k false

/-- `MATRIX_OP_COMPLETE` (R214). -/
def execMatrixOpComplete (s : State) : Out := .next (s.matComplete s.arg.key)

/-! ### Scale state and batches (R224, R229 to R231) -/

/-- `mscl` (R224). -/
def execMscl (a : Reg) (s : State) : Out :=
  let v := s.g.u64 a.toNat
  issue (.mscl a) [pair a] [] s
    (if 5 ≤ scaleMode v ∨ v.extractLsb' 32 32 ≠ 0#32 then takeTrap (plainTrap 8 2) s
     else done (.mscl a) { s with g := { s.g with mscl := v } })

/-- A tag closed into batch `n`. -/
def Tag.close (t : Tag) (n : Word) : Tag := { t with num := some (t.num.getD n) }

/-- The pending set of the group in hand becomes batch `n` (R229). -/
def State.closeBatch (s : State) (n : Word) : State :=
  let k := s.g.key
  let g := { s.g with
    issued := n, index := 0,
    mat := s.g.mat.map fun o => { o with tag := o.tag.close n },
    faults := s.g.faults.map fun f => { f with num := some (f.num.getD n) } }
  let t := s.team s.g.tid
  let close := fun (q : Queue) => { q with reqs := q.reqs.map fun r => if r.gk = k then { r with tag := r.tag.close n } else r }
  let s := if t.queues.toList.any fun q => q.reqs.any fun r => r.gk == k then s.setTeam s.g.tid { t with queues := t.queues.map close }
    else s
  { s with g := g, msgs := s.msgs.map fun (m : Nat × Msg) => if m.2.gk = k then (m.1, { m.2 with tag := m.2.tag.close n }) else m }

/-- `mfence` (R229). -/
def execMfence (d : Reg) (s : State) : Out :=
  let n := s.g.issued + 1
  issue (.mfence d) [one d] [] s
    (if 64 ≤ (s.g.issued - s.g.done).toNat then waitFor .busy s
     else wbOn (.mfence d) s ((s.closeBatch n).settle s.g.key) [(d.toNat, Lanes.uni n)])

/-- The fault's batch is numbered up to `n`. -/
def EngFault.upTo (f : EngFault) (n : Word) : Bool :=
  match f.num with
  | some b => decide ((n - b).toNat < 2 ^ 31)
  | none => false

/-- `mwait` (R230). -/
def execMwait (a : Reg) (s : State) : Out :=
  let v := s.g.u a.toNat
  let n := if 2 ^ 31 ≤ (s.g.issued - v).toNat then s.g.issued else v
  issue (.mwait a) [one a] [] s
    (if 2 ^ 31 ≤ (s.g.done - n).toNat then waitFor .mwait s
     else
      match firstFault s.g.done (s.g.faults.filter fun f => f.upTo n) with
      | some f => takeTrap f.trap (s.report f)
      | none => done (.mwait a) s.acquired)

/-- What `mstat` reads (Table 7-4). -/
def State.mstatValue (s : State) (sel : Nat) : DWord :=
  match sel with
  | 0 => s.g.done ++ s.g.issued
  | 1 => s.g.mscl
  | _ =>
    let q := ((s.myTeam.queues.toList)[sel - 16]?).getD Queue.zero
    BitVec.ofNat 32 q.reqs.length ++ q.count

/-- `mstat` (R231). -/
def execMstat (d : Reg) (sel : BitVec 7) (s : State) : Out :=
  issue (.mstat d sel) [pair d] [] s (uniWb64 (.mstat d sel) s d (s.mstatValue sel.toNat))

end Sys2Proof.Machine
end

