-- ==== Sys2Proof/Machine/Copy.lean ====
section
/-! DEFINITION. Copy requests (R234 to R246, R386): uniform majors 0x60 to 0x63 append them to the team's queues; the steps
COPY_REQUEST_START, KEY_COPY_PACKET and COPY_REQUEST_COMPLETE serve them. -/

namespace Sys2Proof.Machine

/-! ### The control word (Table 7-7) -/

def ctlLen (w : DWord) : Nat := bits w.toNat 31 0
def ctlQ (w : DWord) : Nat := bits w.toNat 35 32
def ctlFull (w : DWord) : Bool := w.getLsbD 36
def ctlDcm (w : DWord) : Bool := w.getLsbD 37
def ctlScm (w : DWord) : Bool := w.getLsbD 38
def ctlChain (w : DWord) : Bool := w.getLsbD 39
def ctlWq (w : DWord) : Nat := bits w.toNat 43 40
def ctlX (w : DWord) : Nat := bits w.toNat 47 44
def ctlWc (w : DWord) : Nat := bits w.toNat 63 48
/-- `cpy2d`: bytes per row and rows. -/
def ctlW (w : DWord) : Nat := bits w.toNat 15 0
def ctlR (w : DWord) : Nat := bits w.toNat 31 16
/-- `cpyk`: remote to local. -/
def ctlDir (w : DWord) : Bool := w.getLsbD 47

/-- Bytes of the element type XT. -/
def xtBytes (x : Nat) : Nat :=
  match x with
  | 9 => 4
  | 10 => 2
  | 11 => 2
  | _ => 0

/-- The operands of a request. -/
structure CopyArgs where
  kind : CopyKind
  d : DWord
  a : DWord
  ctl : DWord
  e : DWord
  deriving DecidableEq, Repr

/-- Row pitches of a `cpy2d`: source, destination. -/
def pitchS (e : DWord) : Int := (e.extractLsb' 0 32).toInt
def pitchD (e : DWord) : Int := (e.extractLsb' 32 32).toInt

/-- The conditions on a request with FULL (R235). -/
def CopyArgs.fullOk (r : CopyArgs) : Bool :=
  ctlDcm r.ctl && bits r.d.toNat 31 0 % 16 == 0 &&
  (match r.kind with
    | .cpy => ctlLen r.ctl % 16 == 0
    | .cpy2d => ctlW r.ctl % 16 == 0 && (pitchD r.e) % 16 == 0
    | .cpyx => (ctlLen r.ctl * xtBytes (ctlX r.ctl)) % 16 == 0
    | .cpyk => ctlDir r.ctl && ctlLen r.ctl % 16 == 0)

/-- The control word, or the key, breaks a rule (Tables 7-7, 7-8): engine fault code 1. -/
def CopyArgs.badWord (r : CopyArgs) : Bool :=
  (match r.kind with
    | .cpy => ctlX r.ctl != 0
    | .cpy2d => ctlX r.ctl != 0
    | .cpyx => !([0, 9, 10, 11].contains (ctlX r.ctl))
    | .cpyk => ctlX r.ctl % 8 != 0 || ctlScm r.ctl || bits r.e.toNat 31 30 != 0) ||
  (!ctlChain r.ctl && (ctlWq r.ctl != 0 || ctlWc r.ctl != 0)) ||
  (ctlFull r.ctl && !r.fullOk)

/-- Rows of a request: bytes per row, rows, pitches of the source and of the destination. -/
def CopyArgs.shape (r : CopyArgs) : Nat × Nat × Int × Int :=
  match r.kind with
  | .cpy2d => (ctlW r.ctl, ctlR r.ctl, pitchS r.e, pitchD r.e)
  | .cpyx => (ctlLen r.ctl * xtBytes (ctlX r.ctl), 1, 0, 0)
  | _ => (ctlLen r.ctl, 1, 0, 0)

/-- Some byte of a core-memory side lies outside the allocation of `n` bytes. -/
def sideOut (off : Nat) (w rows : Nat) (pitch : Int) (n : Nat) : Bool :=
  if w = 0 ∨ rows = 0 then false
  else
    let first : Int := off
    let last : Int := off + pitch * ((rows : Int) - 1)
    decide (min first last < 0) || decide ((n : Int) < max first last + w)

/-- The class 3 faults of the sides at issue (R235): D first, then A; the least code is reported. -/
def CopyArgs.sideFaults (r : CopyArgs) (n : Nat) : List Trap :=
  let sh := r.shape
  let dk : Kind := if r.kind = .cpyk ∧ !ctlDir r.ctl then .read else .write
  let one := fun (core : Bool) (p : DWord) (pitch : Int) (k : Kind) =>
    let at_ := if core then bits p.toNat 31 0 else p.toNat
    let t := fun (code : Nat) => (⟨3, code, none, false, BitVec.ofNat 64 at_, BitVec.ofNat 64 k.code, at_ % 2 ^ 56⟩ : Trap)
    if core then (if sideOut at_ sh.1 sh.2.1 pitch n then [t 9] else [])
    else if p.extractLsb' 56 4 ≠ 0#4 then [t 8] else []
  one (ctlDcm r.ctl) r.d sh.2.2.2 dk ++ (if r.kind = .cpyk then [] else one (ctlScm r.ctl) r.a sh.2.2.1 .read)

/-- A request appended to its queue and to the group's pending set; a voided queue will pass over it (R245). -/
def State.appendCopy (s : State) (r : CopyArgs) : State :=
  let g := s.g
  let t := s.myTeam
  let q : CopyReq := { gk := g.key, tag := ⟨none, g.index, g.pc.zeroExtend 64, g.mo.next⟩, kind := r.kind, d := r.d, a := r.a,
                       ctl := r.ctl, e := r.e, heap := g.heap, asn := g.asn, priv := g.priv, started := false, sent := false,
                       skip := ((t.queues.toList[ctlQ r.ctl]?).map (·.void)).getD false, since := s.cycle, late := false,
                       page := none, hostFail := none, units := [], dst := [], taken := [], hand := false }
  let put := fun (i : Nat) (u : Queue) (_ : i < 16) => if i = ctlQ r.ctl then { u with reqs := u.reqs ++ [q] } else u
  let s := s.setTeam g.tid { t with queues := t.queues.mapFinIdx put }
  { s with g := { s.g with index := s.g.index + 1 } }

/-- A copy instruction: the checks of R235, then the queue (R236). -/
def execCopy (i : Instr) (ops : List Opnd) (r : CopyArgs) (s : State) : Out :=
  issue i ops [] s
    (match leastTrap (r.sideFaults s.myTeam.bytes) with
     | some t => takeTrap t s
     | none =>
      if r.badWord then takeTrap (plainTrap 5 1) s
      else if 64 ≤ ((s.myTeam.queues.toList[ctlQ r.ctl]?).map fun q => q.reqs.length).getD 0 then waitFor .busy s
      else done i (s.appendCopy r))

/-- `cpy` (R238). -/
def execCpy (d a b : Reg) (s : State) : Out :=
  execCopy (.cpy d a b) [pair d, pair a, pair b]
    ⟨.cpy, s.g.u64 d.toNat, s.g.u64 a.toNat, s.g.u64 b.toNat, 0⟩ s

/-- `cpy2d` (R238). -/
def execCpy2d (d a b : Reg) (x : Option (BitVec 24)) (s : State) : Out :=
  execCopy (.cpy2d d a b x) [pair d, pair a, pair b, pair (extE x)]
    ⟨.cpy2d, s.g.u64 d.toNat, s.g.u64 a.toNat, s.g.u64 b.toNat, s.g.u64 (extE x).toNat⟩ s

/-- `cpyx` (R239). -/
def execCpyx (d a b : Reg) (s : State) : Out :=
  execCopy (.cpyx d a b) [pair d, pair a, pair b]
    ⟨.cpyx, s.g.u64 d.toNat, s.g.u64 a.toNat, s.g.u64 b.toNat, 0⟩ s

/-- `cpyk` (R240). -/
def execCpyk (d a b : Reg) (x : Option (BitVec 24)) (s : State) : Out :=
  execCopy (.cpyk d a b x) [pair d, pair a, pair b, pair (extE x)]
    ⟨.cpyk, s.g.u64 d.toNat, s.g.u64 a.toNat, s.g.u64 b.toNat, s.g.u64 (extE x).toNat⟩ s

/-! ### Sides -/

/-- A side of a request: the translating agent and a page the host refused, or the first address of the team's core memory. -/
structure Side where
  ctx : Ctx
  fail : Option Nat
  core : Option Nat
  deriving DecidableEq, Repr

/-- One place with nothing of a page to it. -/
def plainAt (off len va home ga : Nat) : Piece := ⟨off, len, va, ⟨ga, home, 0, 0, false, 0, none⟩⟩

/-- The access of `n` bytes of a side. -/
def State.sideRange (s : State) (w : Side) (p n : Nat) (k : Kind) : EngRes :=
  match w.core with
  | some base =>
    let ps := [plainAt 0 n p 0 (base + p)]
    match s.engPieces w.ctx.dk 0 k n ps with
    | .ok _ => .ok ps
    | r => r
  | none => s.engXlat w.ctx w.fail p n k

/-- The page of the byte at `p` of a side, where it translates. -/
def State.sidePage (s : State) (w : Side) (p : Nat) (k : Kind) : Option Piece :=
  match w.core with
  | some base => some (plainAt 0 1 p 0 (base + p))
  | none =>
    match s.xlat w.ctx p 1 k with
    | .ok (q :: _) => some q
    | _ => none

/-- Address of a row: the pitch added to the pointer, or to the offset. -/
def rowAt (p : Nat) (pitch : Int) (r : Nat) : Nat := (((p : Int) + pitch * r) % 2 ^ 64).toNat

/-- The units of a row whose destination is `ds`, whose source is `ss`; they start at pointers `dptr` and `ptr`. -/
def rowUnits (ds ss : List Piece) (dptr ptr : Nat) : List CopyUnit :=
  ds.flatMap fun p =>
    (chunksAt 0 p.off p.len p.x.home p.x.ga (p.len / 16 + 2)).map fun c =>
      ⟨c.home, c.ga, c.len, ptr + c.off, dptr + c.off, placesOf ss c.off c.len, []⟩

/-! ### Elements of a cpyx (R239, R337) -/

/-- Width in bits of an element format, 16 + XT when unformatted. -/
def elemBits (f : Nat) : Nat :=
  match f with
  | 1 => 16
  | 2 => 16
  | 3 => 8
  | 4 => 6
  | 5 => 8
  | 6 => 6
  | 7 => 4
  | 25 => 32
  | 26 => 16
  | 27 => 16
  | _ => 0

/-- The alignment asked of a side's start (Table 6-5, or the type XT). -/
def elemAligned (f va : Nat) : Bool :=
  match f with
  | 25 => va % 4 == 0
  | 26 => va % 2 == 0
  | 27 => va % 2 == 0
  | _ =>
    match f with
    | 4 => va % 65536 % 6 == 0 && decide (va % 65536 ≤ 65530)
    | 6 => va % 65536 % 6 == 0 && decide (va % 65536 ≤ 65530)
    | 7 => va % 4 == 0
    | 3 => va % 8 == 0
    | 5 => va % 8 == 0
    | _ => va % 16 == 0

/-- Columns of a scale geometry; GEOM 3 has a meaning nowhere, so its number is free. DESIGN CHOICE: log entry 6. -/
def geomCols (g : Nat) : Nat :=
  match g with
  | 0 => 1
  | 1 => 16
  | 2 => 64
  | _ => (Config.free 8 g).toNat % 65536 + 1

/-- Address of the scale entry of the element at a place of a page with FMT 5, 6 or 7: bit `bit` of byte `va`. -/
def scaleAddr (x : Xlat) (va bit : Nat) : Nat :=
  let pos := va % 65536 * 8 + bit
  let e := pos / elemBits x.fmt
  let c := geomCols x.geom
  let n := (e / c / 128) * c + e % c
  x.slot + (if x.fmt = 7 then 4 * n else n)

/-- The format is refused by `cpyx` on this side: engine code 4. -/
def fmtRefused (f : Nat) (dst : Bool) : Bool :=
  f == 16 || (decide (8 ≤ f) && decide (f < 16)) || (dst && (f == 5 || f == 6 || f == 7))

/-- The scale entry can be read by the engine (R329, R419, R428). -/
def State.scaleRes (s : State) (dk at_ n ptr : Nat) : EngRes :=
  if !(gaRegion at_ = 0 ∧ populated at_) then .bad 2 8 ptr
  else
    match s.engLine dk .read ⟨0, 0, at_, ptr, 0, n⟩ with
    | .bad c k _ => .bad c k ptr
    | r => r

/-- The elements of a side from byte `p`, bit `bit`: what each access comes to, and the element. On pages of 6-bit
elements, t6 as mx6, the last four bytes of each 64 KiB chunk hold none. DESIGN CHOICE: log entry 77. -/
def State.elems (s : State) (w : Side) (xt : Nat) (dst first : Bool) (p bit : Nat) : Nat → List (EngRes × Elem × Nat)
  | 0 => []
  | n + 1 =>
    let k : Kind := if dst then .write else .read
    match s.sidePage w p k with
    | some q =>
      let f := if w.core.isSome ∨ q.x.home = 4 ∨ q.x.fmt = 0 then 16 + xt else q.x.fmt
      let b := elemBits f
      let at_ := if f = 5 ∨ f = 6 ∨ f = 7 then scaleAddr q.x (p % 2 ^ 56) bit else 0
      let own := if fmtRefused f dst then EngRes.bad 4 0 0
        else if first ∧ !elemAligned f (p % 2 ^ 56) then .bad 2 10 p
        else if at_ = 0 then .ok []
        else s.scaleRes w.ctx.dk at_ (if f = 7 then 4 else 1) p
      let here := (s.sideRange w p ((bit + b + 7) / 8) k).join own
      let np := p + (bit + b) / 8
      let nb := (bit + b) % 8
      let np := if (f = 4 ∨ f = 6) ∧ nb = 0 ∧ 65532 ≤ np % 65536 then (np / 65536 + 1) * 65536 else np
      (here, ⟨q.x.home, q.x.ga, bit, f, at_⟩, p) :: (if fmtRefused f dst then [] else s.elems w xt dst false np nb n)
    | none => [(s.sideRange w p 1 k, ⟨0, 0, 0, 0, 0⟩, p)]

/-- Source granules read, by home and address / 16. -/
abbrev Taken := List ((Nat × Nat) × List Byte)

/-- The granules of a source range; a device register is no granule. -/
def granules (p : Nat × Nat × Nat) : List (Nat × Nat) :=
  if p.2.2 = 0 ∨ (p.1 ≠ 4 ∧ gaRegion p.2.1 = 15) then []
  else (List.range ((p.2.1 % 16 + p.2.2 + 15) / 16)).map fun j => (p.1, p.2.1 / 16 + j)

def Taken.at (m : Taken) (k : Nat × Nat) : Option (List Byte) := (m.find? fun e => e.1 == k).map (·.2)

/-- A source range whose granules are all read. -/
def Taken.has (m : Taken) (p : Nat × Nat × Nat) : Bool := !(granules p).isEmpty && (granules p).all fun k => (m.at k).isSome

/-- Granules read, each once (R244). -/
def State.takeAll (s : State) (dk : Nat) (ks : List (Nat × Nat)) (m : Taken) : Taken :=
  ks.foldl (fun m k => if (m.at k).isSome then m else m ++ [(k, s.readAt dk k.1 (16 * k.2) 16)]) m

/-- Source bytes from the granules read; those of a device register from the register. -/
def State.takenBytes (s : State) (dk : Nat) (m : Taken) (p : Nat × Nat × Nat) : List Byte :=
  if (granules p).isEmpty then s.readAt dk p.1 p.2.1 p.2.2
  else slice ((granules p).flatMap fun k => (m.at k).getD []) (p.2.1 % 16) p.2.2

/-- The source places of an element: its bytes, and those of its scale entry. -/
def Elem.bytesAt (e : Elem) : Nat × Nat × Nat := (e.home, e.ga, (e.bit + elemBits e.fmt + 7) / 8)
def Elem.scaleAt (e : Elem) : Nat × Nat × Nat := (0, e.scale, if e.fmt = 7 then 4 else if e.fmt = 5 ∨ e.fmt = 6 then 1 else 0)

/-- The exact value of a source element (R107, R109, R111). -/
def State.elemVal (s : State) (dk : Nat) (m : Taken) (e : Elem) : Val :=
  let x := natLE (s.takenBytes dk m e.bytesAt) / 2 ^ e.bit % 2 ^ elemBits e.fmt
  let scale := natLE (s.takenBytes dk m e.scaleAt)
  match e.fmt with
  | 1 => bf16.dec x
  | 2 => f16.dec x
  | 3 => t8.dec x
  | 4 => t6.dec x
  | 5 => Val.mul (t8.dec x) (e8Dec scale)
  | 6 => Val.mul (t6.dec x) (e8Dec scale)
  | 7 =>
    let p := BitVec.ofNat 32 scale
    bf16.dec (i4Expand (BitVec.ofNat 4 x).toInt (p.extractLsb' 16 8).toInt (p.extractLsb' 0 16).toNat)
  | 25 => f32.dec x
  | 26 => f16.dec x
  | _ => bf16.dec x

/-- A value rounded once to a destination format (R100, R108). -/
def elemEnc (f : Nat) (v : Val) : Nat :=
  match f with
  | 1 => bf16.enc 0#2 v
  | 2 => f16.enc 0#2 v
  | 3 => t8.enc 0#2 false v
  | 4 => t6.enc 0#2 false v
  | 25 => f32.enc 0#2 v
  | 26 => f16.enc 0#2 v
  | _ => bf16.enc 0#2 v

/-- The bits of an element replaced in memory. -/
def State.elemPut (s : State) (dk : Nat) (e : Elem) (x : Nat) : State :=
  let w := elemBits e.fmt
  let n := (e.bit + w + 7) / 8
  let old := natLE (s.readAt dk e.home e.ga n)
  let new := old % 2 ^ e.bit + x % 2 ^ w * 2 ^ e.bit + old / 2 ^ (e.bit + w) * 2 ^ (e.bit + w)
  s.engWrite dk [(e.home, e.ga, n)] (bytesLE new n)

/-- Elements gathered into units by the granule of their first destination byte. -/
def elemUnits : List ((Elem × Nat) × (Elem × Nat)) → List CopyUnit
  | [] => []
  | ((a, p), (d, dp)) :: t =>
    let n := (d.bit + elemBits d.fmt + 7) / 8
    match elemUnits t with
    | u :: us =>
      if u.home = d.home ∧ u.ga / 16 = d.ga / 16 ∧ d.ga ≤ u.ga then
        { u with ga := d.ga, len := u.ga + u.len - d.ga, ptr := p, dptr := dp, els := (a, d) :: u.els } :: us
      else ⟨d.home, d.ga, n, p, dp, [], [(a, d)]⟩ :: u :: us
    | [] => [⟨d.home, d.ga, n, p, dp, [], [(a, d)]⟩]

/-! ### Stage 1 and 2: what a request comes to (R386) -/

/-- The plan of a request: its units, or what stands in its way. -/
structure Plan where
  res : EngRes
  units : List CopyUnit
  marks : List Piece
  deriving DecidableEq, Repr

/-- The sides of a request: the team's core memory, or through the group's translations as they stood at issue (R328). -/
def CopyReq.side (r : CopyReq) (t : Team) (core : Bool) : Side :=
  ⟨⟨t.dk, r.asn, r.priv, r.heap, r.late⟩, r.hostFail, if core then some (coreAddr t.dk t.core t.base) else none⟩

/-- The pointer or offset of a side. -/
def sideStart (core : Bool) (p : DWord) : Nat := if core then bits p.toNat 31 0 else p.toNat

/-- A destination line that holds poison is written whole (R429), or the request meets it. -/
def State.dstPoison (s : State) (us : List CopyUnit) : EngRes :=
  let rs := (us.filter fun u => u.home != 4).map fun u => (u.ga, u.len)
  engAll (us.flatMap fun u =>
    if u.home = 4 then []
    else (lineUses 0 0 u.dptr u.ga u.home u.len 3).map fun l =>
      match s.poisonHit .write rs l with
      | some ga => EngRes.bad 3 1 (u.dptr + (ga - u.ga))
      | none => .ok [])

/-- Units in the order in which the engine works: descending when the destination lies above the source in the same space
(R386). -/
def CopyReq.inOrder (r : CopyReq) (us : List CopyUnit) : List CopyUnit :=
  if ctlDcm r.ctl = ctlScm r.ctl ∧ sideStart (ctlScm r.ctl) r.a < sideStart (ctlDcm r.ctl) r.d then us.reverse else us

/-- Bytes `n` from byte `o` of some places. -/
def cutPlaces (o n : Nat) : List (Nat × Nat × Nat) → List (Nat × Nat × Nat)
  | [] => []
  | (h, a, l) :: t =>
    if n = 0 then []
    else if l ≤ o then cutPlaces (o - l) n t
    else (h, a + o, min n (l - o)) :: cutPlaces 0 (n - min n (l - o)) t

/-- Maximal runs of a rising list of numbers: first and length. -/
def runsOf : List Nat → List (Nat × Nat)
  | [] => []
  | a :: t =>
    match runsOf t with
    | (b, n) :: r => if b = a + 1 then (a, n + 1) :: r else (a, 1) :: (b, n) :: r
    | [] => [(a, 1)]

/-- A byte of a destination lies in a unit. -/
def CopyUnit.holds (u : CopyUnit) (home ga : Nat) : Bool := u.home == home && decide (u.ga ≤ ga) && decide (ga < u.ga + u.len)

/-- The loop of R238 runs through the rows in order: a byte that a later row writes as well is written by that row alone. -/
def lastWins : List CopyUnit → List CopyUnit
  | [] => []
  | u :: us =>
    let later := us.filter fun v => v.home == u.home && meets v.ga v.len u.ga u.len
    if later.isEmpty then u :: lastWins us
    else
      ((runsOf ((List.range u.len).filter fun j => !(later.any fun v => v.holds u.home (u.ga + j)))).map fun r =>
        { u with ga := u.ga + r.1, len := r.2, ptr := u.ptr + r.1, dptr := u.dptr + r.1, src := cutPlaces r.1 r.2 u.src }) ++ lastWins us

/-- The plan of `cpy` and `cpy2d`. -/
def State.planRows (s : State) (r : CopyReq) (t : Team) : Plan :=
  let sh := (⟨r.kind, r.d, r.a, r.ctl, r.e⟩ : CopyArgs).shape
  let rows := if sh.1 = 0 then 0 else sh.2.1
  let each := (List.range rows).map fun j =>
    let dp := rowAt (sideStart (ctlDcm r.ctl) r.d) sh.2.2.2 j
    let sp := rowAt (sideStart (ctlScm r.ctl) r.a) sh.2.2.1 j
    (s.sideRange (r.side t (ctlDcm r.ctl)) dp sh.1 .write, s.sideRange (r.side t (ctlScm r.ctl)) sp sh.1 .read, dp, sp)
  let us := each.flatMap fun e =>
    match e.1, e.2.1 with
    | .ok ds, .ok ss => rowUnits ds ss e.2.2.1 e.2.2.2
    | _, _ => []
  let us := lastWins us
  let res := engAll (each.map fun e => e.1.join e.2.1)
  ⟨res.join (s.dstPoison us), r.inOrder us, match res with | .ok ps => ps | _ => []⟩

/-- The plan of `cpyx`. -/
def State.planElems (s : State) (r : CopyReq) (t : Team) : Plan :=
  let n := ctlLen r.ctl
  let ds := s.elems (r.side t (ctlDcm r.ctl)) (ctlX r.ctl) true true (sideStart (ctlDcm r.ctl) r.d) 0 n
  let ss := s.elems (r.side t (ctlScm r.ctl)) (ctlX r.ctl) false true (sideStart (ctlScm r.ctl) r.a) 0 n
  let us := elemUnits ((ss.map fun e => (e.2.1, e.2.2)).zip (ds.map fun e => (e.2.1, e.2.2)))
  let res := engAll ((ds ++ ss).map fun e => e.1)
  ⟨res.join (s.dstPoison us), r.inOrder us, match res with | .ok ps => ps | _ => []⟩

/-- The local side of a `cpyk`. -/
def State.keyLocal (s : State) (r : CopyReq) (t : Team) : EngRes :=
  s.sideRange (r.side t (ctlDcm r.ctl)) (sideStart (ctlDcm r.ctl) r.d) (ctlLen r.ctl)
    (if ctlDir r.ctl then .write else .read)

/-- The target package of a `cpyk`, and the gallery address of the key's entry there (R241). -/
def CopyReq.pkg (r : CopyReq) : Nat := bits r.e.toNat 29 20
def State.keyEntry (s : State) (r : CopyReq) : Nat :=
  bits (s.dev (4 * r.pkg) 0x0020).toNat 53 12 * 4096 + 32 * bits r.e.toNat 19 0

/-- The port that carries the packets of a `cpyk` toward an address of its target (R419); its key packet goes to the package.
DEDUCED: log entry 72. -/
def State.keyPort (s : State) (dk : Nat) (r : CopyReq) : Nat := s.fabricPort dk (r.pkg * 2 ^ 44 + s.keyEntry r % 2 ^ 44)

/-- The key's entry at the target package, and the engine fault code that its check gives (R241). -/
def State.keyCheck (s : State) (r : CopyReq) (t : Team) : Except Nat Nat :=
  let e := r.e.toNat
  let td := 4 * r.pkg
  let at_ := s.keyEntry r
  let flags := s.rdN (at_ + 0x14) 4
  let cells := BitVec.ofNat 64 (s.rdN (at_ + 0x18) 8)
  if bits (s.dev td 0x0028).toNat 20 0 ≤ bits e 19 0 ∨ flags % 2 = 0 ∨ s.rdN (at_ + 0x10) 4 ≠ bits e 63 32 ∨
      !cells.getLsbD (s.myCell t.dk) then .error 5
  else if s.rdN (at_ + 8) 8 < r.a.toNat + ctlLen r.ctl then .error 6
  else if (!ctlDir r.ctl ∧ bits flags 2 2 = 0) ∨ (ctlDir r.ctl ∧ bits flags 1 1 = 0) then .error 7
  else .ok (r.pkg * 2 ^ 44 + bits (s.rdN at_ 8) 43 0)

/-- The window's lines as the engine meets them: no firewall (R241). DEDUCED: log entry 16. -/
def State.windowRes (s : State) (dk ga n : Nat) (ps : List Piece) (w : Bool) : EngRes :=
  let ptr := (ps.head?.map (·.va)).getD 0
  if n = 0 then .ok []
  else if !populated ga ∨ !populated (ga + n - 1) then .bad 2 8 ptr
  else if gaRegion ga = 15 then .bad 2 10 ptr
  else
    engAll ((ps.flatMap fun p => lineUses 0 0 p.va p.x.ga p.x.home p.len (p.len / 128 + 2)).map fun u =>
      if !s.reachable dk (gaPkg u.ga) then .bad 8 (s.fabricPort dk u.ga) 0
      else if !w ∧ (s.poisonHit .read [] u).isSome then .bad 3 1 u.va
      else if !s.hears (gaDie u.ga) (dk / 4) ∨ !s.srcOk (gaDie u.ga) (dk / 4) ∨ (s.pkg (gaPkg u.ga)).dead ∨
          (u.home ≠ 5 ∧ s.blocked u.ga) ∨ s.engineOwns (u.ga / 128) ∨ s.recallStuck (u.ga / 128) w then .wait
      else .ok [])

/-- The plan of a `cpyk` whose key holds. -/
def State.planKey (s : State) (r : CopyReq) (t : Team) (base : Nat) : Plan :=
  let n := ctlLen r.ctl
  let off := r.a.toNat
  let loc := s.keyLocal r t
  let ps := s.physPieces 0 off (base + off) n (n / 65536 + 2)
  let rem := s.windowRes t.dk (base + off) n ps (!ctlDir r.ctl)
  let us := match loc with
    | .ok ls =>
      let lp := sideStart (ctlDcm r.ctl) r.d
      if ctlDir r.ctl then rowUnits ls ps lp off else rowUnits ps ls off lp
    | _ => []
  let res := loc.join rem
  ⟨res.join (s.dstPoison us), us, match loc with | .ok ls => ls | _ => []⟩

/-! ### Queues -/

def State.queue (s : State) (tid q : Nat) : Queue := ((s.team tid).queues.toList[q]?).getD Queue.zero

def State.setQueue (s : State) (tid q : Nat) (u : Queue) : State :=
  let t := s.team tid
  s.setTeam tid { t with queues := t.queues.mapFinIdx fun i v _ => if i = q then u else v }

/-- The oldest request of the queue replaced by another state of it. -/
def Queue.setHead (u : Queue) (n : Nat) (r : CopyReq) : Queue :=
  { u with reqs := u.reqs.mapIdx fun i x => if i = n then r else x }

/-- The oldest request completes: the count advances, and its group's MB.DONE (R236, R229). -/
def State.popCopy (s : State) (tid q : Nat) : State :=
  let u := s.queue tid q
  match u.reqs with
  | [] => s
  | r :: rest => (s.setQueue tid q { u with reqs := rest, count := u.count + 1 }).settle r.gk

/-- The oldest request faults (R245): recorded for its group, the queue voided, the request complete; every request that has not
started will complete without performing anything. DESIGN CHOICE: log entry 38. -/
def State.failCopy (s : State) (tid q code sub : Nat) (addr : DWord) : State :=
  let u := s.queue tid q
  match u.reqs with
  | [] => s
  | r :: _ =>
    let f : EngFault := ⟨r.tag.num, r.tag.index, 5, code, none, q, sub, addr, true⟩
    let g := s.group r.gk
    let s := s.setGroup r.gk { g with faults := g.faults ++ [f] }
    let u := s.queue tid q
    (s.setQueue tid q { u with
      void := true, reqs := u.reqs.map fun r => if r.started then r else { r with skip := true } }).popCopy tid q

/-- TRAP.ADDR of an engine fault of a request (R232). -/
def CopyReq.faultAddr (r : CopyReq) (code ptr : Nat) : DWord :=
  if code = 2 ∨ code = 3 then BitVec.ofNat 64 ptr
  else if 5 ≤ code then r.e
  else r.tag.pc

/-- The chain condition (R237). -/
def State.chainOk (s : State) (tid : Nat) (r : CopyReq) : Bool :=
  !ctlChain r.ctl ||
  decide (((s.queue tid (ctlWq r.ctl)).count.toNat % 2 ^ 16 + 2 ^ 16 - ctlWc r.ctl) % 2 ^ 16 < 2 ^ 15)

/-- The place of the request that may start next: the first that has not started. -/
def Queue.nextStart (u : Queue) : Option (Nat × CopyReq) :=
  (u.reqs.zipIdx.find? fun p => !p.1.started).map fun p => (p.2, p.1)

/-! ### The units of a started request -/

/-- Source ranges of a unit: home, gallery address and length. -/
def CopyUnit.sources (u : CopyUnit) : List (Nat × Nat × Nat) := u.src ++ u.els.flatMap fun e => [e.1.bytesAt, e.1.scaleAt]

/-- The source granules of units. -/
def unitGranules (us : List CopyUnit) : List (Nat × Nat) := us.flatMap fun u => u.sources.flatMap granules

/-- The source bytes of a plain unit, and the destination values of a converted one, from the granules read. -/
def State.unitBytes (s : State) (dk : Nat) (m : Taken) (u : CopyUnit) : List Byte := u.src.flatMap (s.takenBytes dk m)
def State.unitElems (s : State) (dk : Nat) (m : Taken) (u : CopyUnit) : List (Elem × Nat) :=
  u.els.map fun e => (e.2, elemEnc e.2.fmt (s.elemVal dk m e.1))

/-- The source granules that the destination of some unit meets: they are read at the start (R238). -/
def overlapped (us : List CopyUnit) : List (Nat × Nat) :=
  (unitGranules us).filter fun k => us.any fun u => u.home == k.1 && meets u.ga u.len (16 * k.2) 16

/-- A request of a die starts (R386): it owns its destination lines, and the copies of its lines elsewhere are recalled. -/
def State.beginCopy (s : State) (dk : Nat) (r : CopyReq) (p : Plan) : State × CopyReq :=
  let s := s.mark p.marks
  let s := p.units.foldl (fun s u =>
    u.src.foldl (fun s x => s.engLines false x.1 x.2.1 x.2.2) (s.engLines true u.home u.ga u.len)) s
  (s, { r with
    started := true, since := s.cycle, units := p.units, taken := s.takeAll dk (overlapped p.units) [],
    dst := (p.units.filter fun u => u.home != 4).map fun u => (u.ga, u.len) })

/-- The request at place `n` of a queue starts. -/
def State.startWith (s : State) (tid q n : Nat) (r : CopyReq) (p : Plan) : State :=
  let b := s.beginCopy (s.team tid).dk r p
  b.1.setQueue tid q ((b.1.queue tid q).setHead n b.2)

/-- What a plan comes to for the request at place `n` of its queue; a fault waits until it is the oldest. -/
def State.copyPlan (s : State) (tid q n : Nat) (r : CopyReq) (p : Plan) (go : State) : State :=
  let t := s.team tid
  match p.res with
  | .ok _ => go
  | .bad code sub ptr =>
    let s := if r.late ∧ code = 3 ∧ sub = 2 then s.countExpired t.dk else s
    if n = 0 then s.failCopy tid q code (if code = 4 then 0 else sub) (r.faultAddr code ptr) else s
  | .page va k =>
    let (s', req) := s.engPage t.dk va r.asn k 1 t.core
    s'.setQueue tid q ((s'.queue tid q).setHead n { r with page := some req })
  | .ask key =>
    let s' := s.askFor t.dk key
    s'.setQueue tid q ((s'.queue tid q).setHead n { r with page := some (hostPage key), hostFail := none })
  | .wait => if r.sent then s else s.setQueue tid q ((s.queue tid q).setHead n { r with sent := true, since := s.cycle })

/-- The team's queues are served: it is resident (R385). -/
def State.served (s : State) (tid : Nat) : Bool :=
  (s.team tid).status == .resident && !(s.pkg ((s.team tid).dk / 4)).dead

/-- A request is to start, after every access of its group before it (R243). -/
def State.copyStart (s : State) (tid q : Nat) : State :=
  let t := s.team tid
  let u := s.queue tid q
  match u.nextStart with
  | some (n, r) =>
    if !s.served tid ∨ r.skip ∨ !s.chainOk tid r ∨ r.page.isSome ∨ (r.kind = .cpyk ∧ r.sent) then s
    else
      let s := s.issuedBy r.gk r.tag.ord
      if r.kind = .cpyk then
        let loc := s.keyLocal r t
        let res := if s.reachable t.dk r.pkg then loc else loc.join (.bad 8 (s.keyPort t.dk r) 0)
        match res with
        | .wait => s
        | res => s.copyPlan tid q n r ⟨res, [], []⟩ (s.setQueue tid q (u.setHead n { r with sent := true, since := s.cycle }))
      else
        let p := if r.kind = .cpyx then s.planElems r t else s.planRows r t
        s.copyPlan tid q n r p (s.startWith tid q n r p)
  | none => s

/-- COPY_REQUEST_START (R386). -/
def execCopyRequestStart (s : State) : Out := .next (s.copyStart s.arg.key s.arg.sub)

/-- The key packet of a request reaches the target package (R241). -/
def State.keyPacket (s : State) (tid q : Nat) : State :=
  let t := s.team tid
  let u := s.queue tid q
  match u.nextStart with
  | some (n, r) =>
    if !s.served tid ∨ r.skip ∨ r.page.isSome ∨ r.kind ≠ .cpyk ∨ !r.sent ∨ (s.pkg r.pkg).dead ∨
        !s.hears (4 * r.pkg) (t.dk / 4) ∨ !s.srcOk (4 * r.pkg) (t.dk / 4) then s
    else if !s.reachable t.dk r.pkg then s.copyPlan tid q n r ⟨.bad 8 (s.keyPort t.dk r) 0, [], []⟩ s
    else
      match s.keyCheck r t with
      | .error c => if n = 0 then s.failCopy tid q c 0 r.e else s
      | .ok base =>
        let p := s.planKey r t base
        s.copyPlan tid q n r p (s.startWith tid q n r p)
  | none => s

/-- KEY_COPY_PACKET (R241). -/
def execKeyCopyPacket (s : State) : Out := .next (s.keyPacket s.arg.key s.arg.sub)

/-! ### Stage 3 -/

/-- A unit written. -/
def State.unitWrite (s : State) (dk : Nat) (u : CopyUnit) (bs : List Byte) (es : List (Elem × Nat)) : State :=
  if u.els.isEmpty then s.engWrite dk [(u.home, u.ga, u.len)] bs
  else es.foldl (fun s e => s.elemPut dk e.1 e.2) s

/-- Poison met in the sources of a unit since the start: the pointer of the lowest byte. -/
def State.srcPoison (s : State) (m : Taken) (u : CopyUnit) : Option Nat :=
  (u.sources.filter fun p => p.1 != 4 && p.2.2 != 0 && !m.has p).findSome? fun p =>
    (lineUses 0 0 u.ptr p.2.1 p.1 p.2.2 3).findSome? fun l =>
      (s.poisonHit .read [] l).map fun ga => u.ptr + (ga - p.2.1)

/-- Another request owns part of the line (R311). -/
def State.ownedBut (s : State) (r : CopyReq) (line : Nat) : Bool :=
  s.copyReqs.any fun x => x.2 != r && x.2.units.any fun u =>
    u.home != 4 && meets u.ga u.len (128 * line) 128

/-- What stands in the way of a unit of a started request. -/
def State.unitRes (s : State) (dk : Nat) (r : CopyReq) (c : CopyUnit) : EngRes :=
  let key := fun (w : Bool) => r.kind == .cpyk && w != ctlDir r.ctl
  let left := c.sources.filter fun p => p.2.2 != 0 && !Taken.has r.taken p
  let src := engAll (left.map fun p =>
    (s.placeRes dk (key false) false c.ptr p).join (if p.1 != 4 && s.ownedBut r (p.2.1 / 128) then .wait else .ok []))
  (s.placeRes dk (key true) true c.dptr (c.home, c.ga, c.len)).join
    (match s.srcPoison r.taken c with
      | some p => (EngRes.bad 3 1 p).join src
      | none => src)

/-- The queues of a core's resident teams that have bytes to be moved, as 16 × team + queue, in rising order (R385). -/
def State.readyQueues (s : State) (dk core : Nat) : List Nat :=
  (s.teams.filter fun t => t.2.dk = dk && t.2.core = core && t.2.status == .resident).flatMap fun t =>
    (List.range 16).filterMap fun q =>
      if (s.queue t.1 q).reqs.any fun r => !r.units.isEmpty then some (16 * t.1 + q) else none

/-- The queue whose turn it is at the copy-engine port of a core: the one whose segment is in hand, else the next in rotation
(R385). -/
def State.portTurn (s : State) (dk core : Nat) : Option Nat :=
  let c := s.core (coreKey dk core)
  let qs := s.readyQueues dk core
  if c.portLeft ≠ 0 ∧ qs.contains c.portAt then some c.portAt
  else (qs.find? fun k => decide (c.portAt < k)).orElse fun _ => qs.head?

/-- Bytes left of the segment that the port serves, or would begin, of a queue: a segment is up to 4 KiB (R385). -/
def State.segmentLeft (s : State) (tid q : Nat) : Nat :=
  let c := s.core (coreKey (s.team tid).dk (s.team tid).core)
  if c.portAt = 16 * tid + q ∧ c.portLeft ≠ 0 then c.portLeft else 4096

/-- It is the queue's turn at its core's port, and that of its request at place `i`, where no segment of another is in hand. -/
def State.portMine (s : State) (tid q i : Nat) : Bool :=
  s.portTurn (s.team tid).dk (s.team tid).core == some (16 * tid + q) &&
  match (s.queue tid q).reqs.findIdx? (·.hand) with
  | some j => j == i
  | none => true

/-- The port stands at a queue with `n` bytes of its segment left. -/
def State.portSet (s : State) (tid q n : Nat) : State :=
  let ck := coreKey (s.team tid).dk (s.team tid).core
  s.setCore ck { s.core ck with portAt := 16 * tid + q, portLeft := n }

/-- The segment of a queue cannot go on: it is over, and the next queue has its turn. -/
def State.portSkip (s : State) (tid q : Nat) : State :=
  let u := s.queue tid q
  (s.portSet tid q 0).setQueue tid q { u with reqs := u.reqs.map fun r => { r with hand := false } }

/-- Bytes of units. -/
def unitsLen (us : List CopyUnit) : Nat := us.foldl (fun n u => n + u.len) 0

/-- The units at the head of a list that fit into `n` bytes. -/
def segment (n : Nat) : List CopyUnit → List CopyUnit
  | [] => []
  | u :: us => if u.len ≤ n then u :: segment (n - u.len) us else []

/-- Bytes left of a segment after `n` more, where `rest` is left of the request: none where the next unit exceeds them. -/
def segmentRest (left n : Nat) : List CopyUnit → Nat
  | [] => 0
  | u :: _ => if left - n < u.len then 0 else left - n

/-- `n` bytes from `a`, all of the request's destination, and written now but for what `rest` still writes. -/
def wholeNow (us rest : List CopyUnit) (dst : List (Nat × Nat)) (a n : Nat) : Bool :=
  let here := fun (u : CopyUnit) => u.home != 4 && meets u.ga u.len a n
  us.any here && !rest.any here && covered dst a n

/-- Units of a request have been written: the lines and granules that it has replaced whole lose their marks (R211, R429), and with
FULL its granules are to be set full (R308). -/
def State.unitsDone (s : State) (full : Bool) (us rest : List CopyUnit) (dst : List (Nat × Nat)) : State :=
  let s := { s with
    poison := s.poison.filter fun p => !wholeNow us rest dst (p.1 * 128) 128
    bad := s.bad.filter fun p => !wholeNow us rest dst (p.1 * 16) 16 }
  if full then
    ((us.filter fun u => u.home != 4).flatMap fun u => [u.ga / 16, (u.ga + u.len - 1) / 16]).foldl (fun s g =>
      if wholeNow us rest dst (16 * g) 16 then s.addFill g else s) s
  else s

/-- Units of a request of a die copied, every source granule read first and once; `rest` is left of the request. -/
def State.copyUnits (s : State) (dk : Nat) (r : CopyReq) (us rest : List CopyUnit) : State × CopyReq :=
  let m := s.takeAll dk (unitGranules us) r.taken
  let vs := us.map fun c => (c, s.unitBytes dk m c, s.unitElems dk m c)
  let need := unitGranules rest
  ((vs.foldl (fun s v => s.unitWrite dk v.1 v.2.1 v.2.2) s).unitsDone (ctlFull r.ctl) us rest r.dst,
    { r with units := rest, since := s.cycle, taken := m.filter fun e => need.contains e.1 })

/-- Units of the request at place `i` of a queue copied through its core's port. -/
def State.moveUnits (s : State) (tid q i : Nat) (r : CopyReq) (us rest : List CopyUnit) : State :=
  let left := segmentRest (s.segmentLeft tid q) (unitsLen us) rest
  let c := ((s.portSet tid q left).workDone (s.team tid).lk 0 (unitsLen us) 0).copyUnits (s.team tid).dk r us rest
  c.1.setQueue tid q ((c.1.queue tid q).setHead i { c.2 with hand := left != 0 })

/-- The place of the `n`-th unit of a queue's started requests: the request, and the unit in it. -/
def unitAt : List CopyReq → Nat → Nat → Option (Nat × Nat)
  | [], _, _ => none
  | r :: rs, i, n => if n < r.units.length then some (i, n) else unitAt rs (i + 1) (n - r.units.length)

/-- One unit of a queue's started requests copied ahead of the others, when it is the queue's turn (R385, R386): requests complete
in order, their pieces are written in any. -/
def State.copyPiece (s : State) (tid q n : Nat) : State :=
  let u := s.queue tid q
  match unitAt u.reqs 0 n with
  | some (i, j) =>
    match u.reqs[i]? with
    | some r =>
      match r.units[j]? with
      | some c =>
        if !s.served tid ∨ !s.portMine tid q i ∨ s.segmentLeft tid q < c.len then s
        else
          match s.unitRes (s.team tid).dk r c with
          | .ok _ => s.moveUnits tid q i r [c] (r.units.eraseIdx j)
          | _ => s
      | none => s
    | none => s
  | none => s

/-- The oldest request completes: the granules that it has written are full. -/
def State.copyDone (s : State) (tid q : Nat) (r : CopyReq) : State :=
  (s.flushFills fun g => r.dst.any fun d => decide (d.1 / 16 ≤ g) && decide (16 * g < d.1 + d.2)).popCopy tid q

/-- The oldest request completes once every byte has been copied; what is left of it is copied first, a segment at a time
(R236, R385), after the segment of another request that is in hand. -/
def State.copyComplete (s : State) (tid q : Nat) : State :=
  let u := s.queue tid q
  let i := (u.reqs.findIdx? (·.hand)).getD 0
  match u.reqs.head?, u.reqs[i]? with
  | some h, some r =>
    if !s.served tid then s
    else if h.skip then s.popCopy tid q
    else if h.started ∧ h.units.isEmpty then s.copyDone tid q h
    else if !r.started ∨ !s.portMine tid q i then s
    else
      let us := segment (s.segmentLeft tid q) r.units
      match engAll (us.map (s.unitRes (s.team tid).dk r)) with
      | .ok _ =>
        let rest := r.units.drop us.length
        let s := s.moveUnits tid q i r us rest
        if rest.isEmpty ∧ i = 0 then s.copyDone tid q r else s
      | .bad code sub ptr =>
        if i = 0 then (s.portSkip tid q).failCopy tid q code (if code = 4 then 0 else sub) (r.faultAddr code ptr) else s.portSkip tid q
      | _ => s.portSkip tid q
  | _, _ => s

/-- COPY_REQUEST_COMPLETE (R236). -/
def execCopyRequestComplete (s : State) : Out := .next (s.copyComplete s.arg.key s.arg.sub)

/-- The places that a started request has still to access. -/
def CopyReq.left (r : CopyReq) : List (Nat × Nat × Nat) :=
  r.units.flatMap fun c => (c.home, c.ga, c.len) :: c.sources.filter fun p => p.2.2 != 0 && !Taken.has r.taken p

/-- A request has a transaction beyond its die: its key packet, or the access of some unit that is left. -/
def CopyReq.away (r : CopyReq) (dk : Nat) : Bool :=
  if r.started then r.left.any fun p => p.1 != 4 && gaDie p.2.1 != dk
  else r.sent && 4 * r.pkg != dk

/-- An access of the request waits behind the block of a migration (R346). -/
def State.copyBlocked (s : State) (r : CopyReq) : Bool := r.left.any fun p => p.1 != 4 && p.1 != 5 && s.blocked p.2.1

/-- Lines beyond the die that a side of a request waits for, and that no migration blocks. -/
def State.sideAsks (s : State) (w : Side) (p n : Nat) (k : Kind) : List LineUse :=
  if w.core.isSome then []
  else
    (((s.okPieces w.ctx p n k).filter fun q => q.x.home != 4).flatMap fun q =>
      lineUses 0 0 q.va q.x.ga q.x.home q.len (q.len / 128 + 2)).filter fun u =>
        gaDie u.ga != w.ctx.dk && !(u.home != 5 && s.blocked u.ga) && s.engLine w.ctx.dk k u == .wait

/-- The rows of both sides of a request, destination first: side, pointer, bytes, access. -/
def CopyReq.rows (r : CopyReq) (t : Team) : List (Side × Nat × Nat × Kind) :=
  let sh := (⟨r.kind, r.d, r.a, r.ctl, r.e⟩ : CopyArgs).shape
  let w := if r.kind = .cpyx then 8 * ctlLen r.ctl else sh.1
  (List.range sh.2.1).flatMap fun j =>
    [(r.side t (ctlDcm r.ctl), rowAt (sideStart (ctlDcm r.ctl) r.d) sh.2.2.2 j, w, Kind.write),
     (r.side t (ctlScm r.ctl), rowAt (sideStart (ctlScm r.ctl) r.a) sh.2.2.1 j, w, Kind.read)]

/-- The pointer of the first line beyond its die whose home does not answer a request that has not started (R422). -/
def State.asksFor (s : State) (r : CopyReq) (t : Team) : Option Nat :=
  (r.rows t).findSome? fun x => ((s.sideAsks x.1 x.2.1 x.2.2.1 x.2.2.2).map fun u => u.va + bits x.2.1 63 60 * 2 ^ 60).head?

/-- A request that has not started waits behind the block of a migration (R346). -/
def State.askBlocked (s : State) (r : CopyReq) (t : Team) : Bool :=
  !r.started && r.sent && r.kind != .cpyk && (r.rows t).any fun x => x.1.core.isNone &&
    (s.okPieces x.1.ctx x.2.1 x.2.2.1 x.2.2.2).any fun q => q.x.home != 4 && q.x.home != 5 && s.blocked q.x.ga

/-- The oldest request of a queue has a transaction beyond its die that expires (R420, R422, R242): of one that has started, an access
of a unit; of one that has not, its key packet, the request of a line, or a transaction of its walks. -/
def State.copyExpire (s : State) (tid q : Nat) : State :=
  let t := s.team tid
  match (s.queue tid q).reqs with
  | r :: _ =>
    if !s.served tid ∨ !s.overdue t.dk r.since ∨ s.copyBlocked r then s
    else if !r.started ∧ !r.sent then s.setQueue tid q ((s.queue tid q).setHead 0 { r with late := true })
    else if r.kind = .cpyk then
      (if r.away t.dk then ((s.countExpired t.dk).portSkip tid q).failCopy tid q 8 (s.keyPort t.dk r) r.e else s)
    else if r.started then
      (if r.away t.dk then
        ((s.countExpired t.dk).portSkip tid q).failCopy tid q 3 2 (r.faultAddr 3 ((r.units.head?.map fun c => c.ptr).getD 0))
       else s)
    else
      match s.asksFor r t with
      | some p => (s.countExpired t.dk).failCopy tid q 3 2 (r.faultAddr 3 p)
      | none => s
  | [] => s

/-- A started request still has accesses to make through the translations of its address space (R388); `host` asks for those
to host memory alone (R344). -/
def State.copyHolds (s : State) (dies asns : Nat → Bool) (host : Bool) : Bool :=
  s.copyReqs.any fun r => dies r.1 && r.2.started && asns r.2.asn && r.2.units.any fun c => !host || ((c.home, c.ga, c.len) :: c.sources).any fun p => p.1 == 4

end Sys2Proof.Machine
end

