-- ==== Sys2Proof/Machine/CrossLane.lean ====
section
/-! DEFINITION. The cross-lane instructions: lane majors 0x28 to 0x2C (R172 to R177). -/

namespace Sys2Proof.Machine

/-- The member set: EXEC when the mask operand is v0, else its mask AND LIVE (R172). -/
def Group.members (g : Group) (e : Reg) : Mask := if e = 0 then g.exec else maskOf (g.rd e.toNat) &&& g.live

/-- Lane `j` of a register, by number. -/
def laneAt (v : Lanes) (j : Nat) : Word := (v[j]?).getD 0#32

/-- The source lane that `shfl` forms in lane `i` from its control word (R173). -/
def shflSource (m : BitVec 3) (i : Nat) (b : Word) : Nat :=
  let size := 2 ^ (7 - (b.extractLsb' 8 3).toNat)
  let base := i - i % size
  let d := (b.extractLsb' 0 7).toNat
  match m with
  | 0#3 => d
  | 1#3 => base + (i - base + d) % size
  | 2#3 => base + (size - 1 - (i - base))
  | _ => base + d % size

/-- What an executing lane receives from `shfl` (R173). -/
def shflLane (m : BitVec 3) (mem : Mask) (a b : Lanes) (i : Fin 128) : Word :=
  let j := shflSource m i.val b[i]
  if mem.getLsbD i.val && mem.getLsbD j then laneAt a j else a[i]

/-- `shfl` (R173). -/
def execShfl (m : BitVec 3) (d a b : Reg) (x : Option (BitVec 24)) (s : State) : Out :=
  issue (.shfl m d a b x) [one d, one a, one b, one (extE x)] [] s
    (laneWb (.shfl m d a b x) s d
      (shflLane m (s.g.members (extE x)) (s.g.rd a.toNat) (s.g.rd b.toNat)))

/-- The lanes of `mem` below `n` whose predicate is `p`. -/
def voteCount (mem : Mask) (a : Lanes) (p : Bool) : Nat → Nat
  | 0 => 0
  | n + 1 => voteCount mem a p n + (if mem.getLsbD n && laneBit a n == p then 1 else 0)

/-- What an executing lane receives from `vote` (R174). -/
def voteLane (m : BitVec 3) (mem : Mask) (a : Lanes) (i : Fin 128) : Word :=
  if mem.getLsbD i.val then
    match m with
    | 0#3 => BitVec.ofNat 32 (voteCount mem a true 128)
    | 1#3 => BitVec.ofNat 32 (voteCount mem a true i.val)
    | _ => BitVec.ofNat 32 (voteCount mem a false 128)
  else a[i]

/-- `vote` (R174). -/
def execVote (m : BitVec 3) (d a b : Reg) (s : State) : Out :=
  issue (.vote m d a b) [one d, one a, one b] [] s
    (laneWb (.vote m d a b) s d (voteLane m (s.g.members b) (s.g.rd a.toNat)))

/-- The values of the members among the lanes up to `top`, as positions of the tree of R121. -/
def redInputs (mem : Mask) (a : Lanes) (top : Nat) : List (Option Word) :=
  allLanes.map fun j => if mem.getLsbD j.val && decide (j.val ≤ top) then some a[j] else none

/-- The reduction of the members up to lane `top` (R122). -/
def redValue (m : BitVec 3) (mem : Mask) (a : Lanes) (top : Nat) : Word :=
  (treeRoot (redOp m) 7 (redInputs mem a top)).getD (redIdentity m)

/-- `red` (R175). -/
def execRed (m : BitVec 3) (d a b : Reg) (s : State) : Out :=
  let mem := s.g.members b
  let v := redValue m mem (s.g.rd a.toNat) 127
  issue (.red m d a b) [one d, one a, one b] [] s
    (laneWb (.red m d a b) s d fun i => if mem.getLsbD i.val then v else (s.g.rd a.toNat)[i])

/-- `scan` (R175). -/
def execScan (m : BitVec 3) (d a b : Reg) (s : State) : Out :=
  let mem := s.g.members b
  issue (.scan m d a b) [one d, one a, one b] [] s
    (laneWb (.scan m d a b) s d fun i =>
      if mem.getLsbD i.val then redValue m mem (s.g.rd a.toNat) i.val else (s.g.rd a.toNat)[i])

/-- The highest lane below `n` of `mem` that sends to lane `i` (R176). -/
def permSender (mem : Mask) (b : Lanes) (i : Nat) : Nat → Option Nat
  | 0 => none
  | n + 1 =>
    if mem.getLsbD n && (laneAt b n).toNat % 128 == i then some n else permSender mem b i n

/-- `perm` (R176). -/
def execPerm (d a b : Reg) (x : Option (BitVec 24)) (s : State) : Out :=
  let mem := s.g.members (extE x)
  issue (.perm d a b x) [one d, one a, one b, one (extE x)] [] s
    (laneWb (.perm d a b x) s d fun i =>
      match (if mem.getLsbD i.val then permSender mem (s.g.rd b.toNat) i.val 128 else none) with
      | some j => laneAt (s.g.rd a.toNat) j
      | none => (s.g.rd a.toNat)[i])

end Sys2Proof.Machine
end

