-- ==== Sys2Proof/Machine/Digest.lean ====
section
/-! DEFINITION. SHAKE256 with 256 bits of output: the digest of firmware that an attestation response carries (R444). -/

namespace Sys2Proof.Machine

/-- The round constants of Keccak-f[1600]. -/
def keccakRounds : List DWord :=
  [0x0000000000000001, 0x0000000000008082, 0x800000000000808A, 0x8000000080008000, 0x000000000000808B, 0x0000000080000001,
   0x8000000080008081, 0x8000000000008009, 0x000000000000008A, 0x0000000000000088, 0x0000000080008009, 0x000000008000000A,
   0x000000008000808B, 0x800000000000008B, 0x8000000000008089, 0x8000000000008003, 0x8000000000008002, 0x8000000000000080,
   0x000000000000800A, 0x800000008000000A, 0x8000000080008081, 0x8000000000008080, 0x0000000080000001, 0x8000000080008008]

/-- The rotation of lane x + 5 y. -/
def keccakShifts : List Nat := [0, 1, 62, 28, 27, 36, 44, 6, 55, 20, 3, 10, 43, 25, 39, 41, 45, 15, 21, 8, 18, 2, 61, 56, 14]

/-- Lane x + 5 y of the state, x and y modulo 5. -/
def lane5 (a : List DWord) (x y : Nat) : DWord := (a[x % 5 + 5 * (y % 5)]?).getD 0

/-- A state from its lanes. -/
def lanes5 (f : Nat → Nat → DWord) : List DWord := (List.range 25).map fun i => f (i % 5) (i / 5)

/-- One round: theta, rho with pi, chi, iota. -/
def keccakRound (a : List DWord) (rc : DWord) : List DWord :=
  let c := (List.range 5).map fun x => lane5 a x 0 ^^^ lane5 a x 1 ^^^ lane5 a x 2 ^^^ lane5 a x 3 ^^^ lane5 a x 4
  let d := (List.range 5).map fun x => lane5 c (x + 4) 0 ^^^ (lane5 c (x + 1) 0).rotateLeft 1
  let a := lanes5 fun x y => lane5 a x y ^^^ lane5 d x 0
  let b := lanes5 fun x y =>
    let u := (x + 3 * y) % 5
    (lane5 a u x).rotateLeft ((keccakShifts[u + 5 * x]?).getD 0)
  lanes5 fun x y => lane5 b x y ^^^ (~~~lane5 b (x + 1) y &&& lane5 b (x + 2) y) ^^^ (if x = 0 ∧ y = 0 then rc else 0)

def keccakF (a : List DWord) : List DWord := keccakRounds.foldl keccakRound a

/-- Blocks of 136 bytes absorbed, `n` of them. -/
def absorb (a : List DWord) (bs : List Byte) : Nat → List DWord
  | 0 => a
  | n + 1 =>
    let a := lanes5 fun x y =>
      let i := x + 5 * y
      if i < 17 then lane5 a x y ^^^ BitVec.ofNat 64 (natLE (slice bs (8 * i) 8)) else lane5 a x y
    absorb (keccakF a) (bs.drop 136) n

/-- The message padded to whole blocks: the suffix 1111 of SHAKE and the padding 10*1. -/
def shakePad (bs : List Byte) : List Byte :=
  let k := 136 - bs.length % 136
  bs ++ (List.range k).map fun i => (if i = 0 then 0x1F#8 else 0) ||| (if i + 1 = k then 0x80#8 else 0)

/-- SHAKE256 of bytes, 32 bytes of output. -/
def shake256 (bs : List Byte) : List Byte :=
  let m := shakePad bs
  (slice (absorb (List.replicate 25 0) m (m.length / 136)) 0 4).flatMap fun w => bytesLE w.toNat 8

end Sys2Proof.Machine
end

