-- ==== Sys2Proof/Machine/Messages.lean ====
section
/-! DEFINITION. Messages (R266 to R270, R389 to R394): uniform majors 0x70 to 0x73, and the steps of the message units. -/

namespace Sys2Proof.Machine

/-! ### Place words (R79) -/

/-- The core that a relative place word names from a core. -/
def relCore (core : Nat) (w : Word) : Nat :=
  let row := (((core / 12 : Nat) : Int) + (w.extractLsb' 8 8).toInt) % 8
  let col := (((core % 12 : Nat) : Int) + (w.extractLsb' 0 8).toInt) % 12
  12 * row.toNat + col.toNat

/-- Core `src` relative to core `dst`: the differences of row and column. DEDUCED: log entry 18. -/
def relWord (src dst : Nat) : Word :=
  0#16 ++ BitVec.ofInt 8 ((src / 12 : Nat) - (dst / 12 : Nat) : Int) ++ BitVec.ofInt 8 ((src % 12 : Nat) - (dst % 12 : Nat) : Int)

def badPlace (w : Word) : Bool := w.extractLsb' 16 16 != 0#16

/-! ### send (R268) -/

/-- `send` (R268, R390). DEDUCED: log entry 17. -/
def execSend (d a b : Reg) (s : State) : Out :=
  let i : Instr := .send d a b
  let p := s.g.u64 d.toNat
  let aw := s.g.u64 a.toNat
  let bw := s.g.u64 b.toNat
  let len := bits bw.toNat 31 0
  let scm := bw.getLsbD 32
  issue i [pair d, pair a, pair b] [] s
    (if scm ∧ sideOut32 p len s.myTeam.bytes then
      takeTrap { plainTrap 3 9 with addr := p &&& 0xFFFFFFFF, va := bits p.toNat 31 0 } s
     else if badPlace (aw.extractLsb' 0 32) then takeTrap (plainTrap 6 1) s
     else if aw.extractLsb' 48 16 ≠ 0#16 ∨ bw.extractLsb' 33 31 ≠ 0#31 then takeTrap (plainTrap 6 2) s
     else
      let g := s.g
      let m : Msg := {
        gk := g.key, tag := ⟨none, g.index, g.pc.zeroExtend 64, g.mo.next⟩, dk := g.dk, lk := s.myTeam.lk, src := g.core,
        dst := relCore g.core (aw.extractLsb' 0 32), mtag := aw.extractLsb' 32 16, len := len, scm := scm, ptr := p,
        heap := g.heap, asn := g.asn, priv := g.priv, tries := 0, state := .announce, go := false, sent := false,
        places := none, page := none, hostFail := none, since := s.cycle, got := [], held := [] }
      let s := s.setTeam g.tid { s.myTeam with pinned := true }
      done i { s with fresh := s.fresh + 1, msgs := Store.ins s.fresh m s.msgs, g := { s.g with index := s.g.index + 1 } })
where
  /-- The bytes of a core-memory side reach outside the allocation. -/
  sideOut32 (p : DWord) (n size : Nat) : Bool := n != 0 && decide (size < bits p.toNat 31 0 + n)

/-! ### recv, probe (R269, R270) -/

/-- Fields of a match word (Table 8-4). -/
def matchAnyTag (w : Word) : Bool := w.getLsbD 16
def matchAnySrc (w : Word) : Bool := w.getLsbD 17
def matchDcm (w : Word) : Bool := w.getLsbD 18
def matchFull (w : Word) : Bool := w.getLsbD 19

/-- A message matches a receive of a core: launch, source, tag (R269). -/
def Msg.fits (m : Msg) (dk core lk : Nat) (src w : Word) : Bool :=
  m.dk == dk && m.dst == core && m.lk == lk &&
  (matchAnySrc w || m.src == relCore core src) && (matchAnyTag w || m.mtag == w.extractLsb' 0 16)

/-- Overflow entries of a core, oldest first: keys and messages. -/
def State.overflow (s : State) (ck : Nat) : List (Nat × Msg) :=
  (s.core ck).overflow.filterMap fun k => (Store.find k s.msgs).map fun m => (k, m)

/-- The oldest message of the overflow queue that matches and is not yet taken. -/
def State.overflowMatch (s : State) (dk core lk : Nat) (src w : Word) : Option (Nat × Msg) :=
  (s.overflow (coreKey dk core)).find? fun e => e.2.state == .toOverflow && e.2.fits dk core lk src w

/-- A receive of a core replaced. -/
def State.setRecv (s : State) (ck : Nat) (h : Word) (f : Recv → Recv) : State :=
  let c := s.core ck
  s.setCore ck { c with recvs := c.recvs.map fun r => if r.handle = h then f r else r }

def State.recvOf (s : State) (ck : Nat) (h : Word) : Option Recv := (s.core ck).recvs.find? fun r => r.handle == h

/-- A message bound to a receive; without bytes it is complete at once. -/
def State.bind (s : State) (ck key : Nat) (m : Msg) (h : Word) : State :=
  let s := { s with msgs := Store.ins key { m with state := .toRecv h } s.msgs }
  s.setRecv ck h fun r => { r with msg := some key, mtag := m.mtag, from_ := relWord m.src m.dst, len := m.len, complete := m.len == 0 }

/-- The message has nothing more to do: it leaves the unit, and its overflow entry is free (R391). -/
def State.msgOver (s : State) (key : Nat) : State :=
  match Store.find key s.msgs with
  | some m =>
    if m.sent ∧ m.held.isEmpty ∧ m.state ≠ .toOverflow then
      let gone : Bool := match m.state with
        | .toRecv h => ((s.recvOf (coreKey m.dk m.dst) h).map (·.complete)).getD true
        | _ => true
      if gone = true then { s with msgs := Store.erase key s.msgs } else s
    else s
  | none => s

/-- `recv` (R268, R269). -/
def execRecv (d a b : Reg) (s : State) : Out :=
  let i : Instr := .recv d a b
  let src := s.g.u d.toNat
  let buf := s.g.u64 a.toNat
  let bw := s.g.u64 b.toNat
  let cap := bits bw.toNat 31 0
  let w : Word := bw.extractLsb' 32 32
  let off := bits buf.toNat 31 0
  let ck := coreKey s.g.dk s.g.core
  issue i [one d, pair a, pair b] [] s
    (if matchDcm w ∧ cap ≠ 0 ∧ s.myTeam.bytes < off + cap then
      takeTrap { plainTrap 3 9 with addr := buf &&& 0xFFFFFFFF, info := 1, va := off } s
     else if !matchAnySrc w ∧ badPlace src then takeTrap (plainTrap 6 1) s
     else if w.extractLsb' 20 12 ≠ 0#12 ∨ (matchFull w ∧ !(matchDcm w ∧ off % 16 = 0 ∧ cap % 16 = 0)) then
      takeTrap (plainTrap 6 2) s
     else if 128 ≤ (s.core ck).recvs.length then waitFor .room s
     else
      let g := s.g
      let h := (s.core ck).handle
      let r : Recv := {
        handle := h, gk := g.key, dk := g.dk, core := g.core, lk := s.myTeam.lk, src := src, matchw := w, buf := buf, cap := cap,
        heap := g.heap, asn := g.asn, priv := g.priv, msg := none, placed := [], page := none, hostFail := none, fault := none,
        failed := false, complete := false, mtag := 0, from_ := 0, len := 0 }
      let s' := s.setTeam g.tid { s.myTeam with pinned := true }
      let c := s'.core ck
      let s' := s'.setCore ck { c with recvs := c.recvs ++ [r], handle := if c.handle = 0xFFFFFFFF#32 then 1 else c.handle + 1 }
      let s' := match s'.overflowMatch g.dk g.core r.lk src w with
        | some (key, m) => (s'.bind ck key m h).msgOver key
        | none => s'
      wbOn i s s' [(d.toNat, Lanes.uni h)])

/-- The four words of a status (Table 8-5). -/
def statusRegs (d n : Nat) (tag : BitVec 16) (src : Word) (flags : Nat) : List (Nat × Lanes) :=
  [(d, Lanes.uni (BitVec.ofNat 32 n)), (d + 1, Lanes.uni (tag.zeroExtend 32)), (d + 2, Lanes.uni src),
   (d + 3, Lanes.uni (BitVec.ofNat 32 flags))]

/-- `probe` (R270). DEDUCED: log entry 17. -/
def execProbe (d a b : Reg) (s : State) : Out :=
  let i : Instr := .probe d a b
  let src := s.g.u a.toNat
  let w := s.g.u b.toNat
  issue i [quad d, one a, one b] [] s
    (if !matchAnySrc w ∧ badPlace src then takeTrap (plainTrap 6 1) s
     else if w.extractLsb' 20 12 ≠ 0#12 then takeTrap (plainTrap 6 2) s
     else
      let s' := s.setTeam s.g.tid { s.myTeam with pinned := true }
      match s.overflowMatch s.g.dk s.g.core s.myTeam.lk src w with
      | some (_, m) => wbOn i s s' (statusRegs d.toNat m.len m.mtag (relWord m.src m.dst) 2)
      | none => wbOn i s s' (statusRegs d.toNat 0 0 0 0))

/-- `rwait` (R270). -/
def execRwait (d a : Reg) (s : State) : Out :=
  let i : Instr := .rwait d a
  let ck := coreKey s.g.dk s.g.core
  let h := s.g.u a.toNat
  issue i [quad d, one a] [] s
    (match s.recvOf ck h with
     | some r =>
      if r.gk ≠ s.g.key then takeTrap (plainTrap 6 4) s
      else
        match r.fault with
        | some f => takeTrap f.trap (s.setRecv ck h fun r => { r with fault := none })
        | none =>
          if !r.complete then waitFor .rwait s
          else
            let s' := s.acquired
            let c := s'.core ck
            wbOn i s (s'.setCore ck { c with recvs := c.recvs.filter fun r => r.handle != h })
              (statusRegs d.toNat (min r.len r.cap) r.mtag r.from_ (if r.cap < r.len then 1 else 0))
     | none => takeTrap (plainTrap 6 4) s)

/-! ### The sender's unit -/

/-- The message is over at its sender with a fault (R232). -/
def State.failSend (s : State) (key : Nat) (m : Msg) (cls code sub : Nat) (addr : DWord) : State :=
  let g := s.group m.gk
  let s := s.setGroup m.gk { g with faults := g.faults ++ [⟨m.tag.num, m.tag.index, cls, code, none, 0, sub, addr, false⟩] }
  ({ s with msgs := Store.erase key s.msgs }).settle m.gk

/-- The source of a message: the sender's core memory, which is found where the team stands when a packet is read, or its
translations as they stood at issue. -/
def State.msgSource (s : State) (m : Msg) : EngRes :=
  if m.len = 0 ∨ m.scm then .ok []
  else s.engXlat ⟨m.dk, m.asn, m.priv, m.heap, false⟩ m.hostFail m.ptr.toNat m.len .read

/-- An earlier message of the group to the same core that its unit has not got accepted holds this one (R392). -/
def State.msgHeld (s : State) (key : Nat) (m : Msg) : Bool :=
  s.msgs.any fun o => decide (o.1 < key) && o.2.gk == m.gk && o.2.dst == m.dst && !o.2.sent &&
    (o.2.state == .announce || o.2.state == .refused || o.2.state == .retry)

/-- The decision on an announcement (Table 12-3). -/
def State.decideMsg (s : State) (key : Nat) (m : Msg) : State :=
  let ck := coreKey m.dk m.dst
  match (s.core ck).recvs.find? fun r => r.msg.isNone && m.fits r.dk r.core r.lk r.src r.matchw with
  | some r => s.bind ck key m r.handle
  | none =>
    if m.len ≤ 4096 ∧ (s.overflow ck).length < 64 then
      let c := s.core ck
      let live := (s.overflow ck).map (·.1)
      ({ s with msgs := Store.ins key { m with state := .toOverflow } s.msgs }).setCore ck { c with overflow := live ++ [key] }
    else { s with msgs := Store.ins key { m with state := .refused } s.msgs }

/-- MESSAGE_ANNOUNCEMENT (R391): the source is translated first; then the receiving unit decides. -/
def State.announce (s : State) (key : Nat) : State :=
  match Store.find key s.msgs with
  | some m =>
    if m.state ≠ .announce ∨ m.page.isSome ∨ s.msgHeld key m then s
    else if m.places.isSome then s.decideMsg key m
    else
      match s.msgSource m with
      | .ok ps =>
        let m := { m with places := some (ps.map fun p => (p.x.home, p.x.ga, p.len)) }
        ((s.mark ps).decideMsg key m)
      | .bad code sub ptr => s.failSend key m 5 code sub (if code = 4 then m.tag.pc else BitVec.ofNat 64 ptr)
      | .page va k =>
        let (s', req) := s.engPage m.dk va m.asn k 2 m.src
        { s' with msgs := Store.ins key { m with page := some req } s'.msgs }
      | .ask k =>
        let s' := s.askFor m.dk k
        { s' with msgs := Store.ins key { m with page := some (hostPage k), hostFail := none } s'.msgs }
      | .wait => s
  | none => s

/-- MESSAGE_ANNOUNCEMENT (R391). -/
def execMessageAnnouncement (s : State) : Out := .next (s.announce s.arg.key)

/-- The last refusal (R392): the `send` faults, the receiving core's mailbox receives a record, the refusal is counted. -/
def State.finalRefusal (s : State) (key : Nat) (m : Msg) : State :=
  let s := s.failSend key m 6 3 0 m.tag.pc
  let s := s.setDev m.dk 0x0314 (BitVec.ofNat 64 (((s.dev m.dk 0x0314).toNat + 1) % 2 ^ 32))
  s.postNote m.dk m.dst ⟨0, BitVec.ofNat 32 (6 + 3 * 16), (relWord m.src m.dst).zeroExtend 64, m.mtag.zeroExtend 64⟩

/-- Repeats allowed by MSG.RETRY.COUNT of a die. -/
def State.retryCount (s : State) (dk : Nat) : Nat := max 1 (bits (s.dev dk 0x0310).toNat 7 0)

/-- Cycles between repeats: MSG.RETRY.GAP of a die. -/
def State.retryGap (s : State) (dk : Nat) : Nat := bits (s.dev dk 0x0310).toNat 31 8

/-- The sender knows that its message is accepted; one without bytes is then sent (R268). -/
def State.msgGo (s : State) (key : Nat) (m : Msg) : State :=
  ({ s with msgs := Store.ins key { m with go := true, since := s.cycle, sent := m.len == 0 } s.msgs }).settle m.gk

/-- The sender's unit learns the decision (R390, R392). -/
def State.msgReply (s : State) (key : Nat) : State :=
  match Store.find key s.msgs with
  | some m =>
    match m.state with
    | .refused =>
      if s.retryCount m.dk ≤ m.tries then s.finalRefusal key m
      else { s with msgs := Store.ins key { m with state := .retry, since := s.cycle } s.msgs }
    | .toRecv _ => if m.go then s else (s.msgGo key m).msgOver key
    | .toOverflow => if m.go then s else s.msgGo key m
    | _ => s
  | none => s

/-- ANNOUNCEMENT_REPLY (R390). -/
def execAnnouncementReply (s : State) : Out := .next (s.msgReply s.arg.key)

/-- MESSAGE_RETRY (R392): the announcement is repeated once the gap has passed. -/
def execMessageRetry (s : State) : Out :=
  let key := s.arg.key
  .next (match Store.find key s.msgs with
    | some m =>
      if m.state = .retry ∧ s.retryGap m.dk ≤ s.cycle - m.since then { s with msgs := Store.ins key { m with state := .announce, tries := m.tries + 1 } s.msgs } else s
    | none => s)

/-! ### The receiving unit (R393) -/

/-- Number of data packets of a message. -/
def Msg.packets (m : Msg) : Nat := (m.len + 255) / 256

/-- First offset and length of packet `k`. -/
def Msg.packet (m : Msg) (k : Nat) : Nat × Nat := (256 * k, min 256 (m.len - 256 * k))

/-- Bytes `off` to `off + n` of a team's core memory: in its frame while the team is swapped (R54). -/
def State.teamBytes (s : State) (tid off n : Nat) : List Byte :=
  let t := s.team tid
  if t.status = .swapped then (List.range n).map fun j => Store.get (fun _ => 0#8) t.frame (off + j)
  else s.bytes (coreAddr t.dk t.core (t.base + off)) n

/-- The first of those bytes, as an offset, whose granule holds uncorrectable data (R211). -/
def State.teamBad (s : State) (tid off n : Nat) : Option Nat :=
  let t := s.team tid
  ((List.range ((off % 16 + n + 15) / 16)).find? fun j =>
    if t.status = .swapped then t.frameBad.contains (off / 16 + j)
    else s.isBad (coreAddr t.dk t.core t.base / 16 + off / 16 + j)).map fun j => max off ((off / 16 + j) * 16)

/-- An engine owns a line of core memory of a resident team that `n` bytes at an offset lie in: an access waits (R244, R311). -/
def State.coreOwned (s : State) (tid off n : Nat) : Bool :=
  let t := s.team tid
  let ga := coreAddr t.dk t.core (t.base + off)
  t.status != .swapped && (List.range ((ga % 128 + n + 127) / 128)).any fun j => s.engineOwns (ga / 128 + j)

/-- The source places of a packet in memory: the offset in the message of the first byte of each, and the place. -/
def Msg.packetPlaces (m : Msg) (k : Nat) : List (Nat × (Nat × Nat × Nat)) :=
  let p := m.packet k
  ((m.places.getD []).foldl (fun (r : List (Nat × (Nat × Nat × Nat)) × Nat) x =>
    let lo := max r.2 p.1
    let hi := min (r.2 + x.2.2) (p.1 + p.2)
    (if lo < hi then r.1 ++ [(lo, (x.1, x.2.1 + (lo - r.2), hi - lo))] else r.1, r.2 + x.2.2)) ([], 0)).1

/-- The bytes of a packet as memory holds them at the source. -/
def State.packetBytes (s : State) (m : Msg) (k : Nat) : List Byte :=
  if m.scm then s.teamBytes (m.gk / 16) (bits m.ptr.toNat 31 0 + (m.packet k).1) (m.packet k).2
  else s.engRead m.dk ((m.packetPlaces k).map (·.2))

/-- What stands in the way of reading a packet at the source (R244, R268): lines that an engine owns, the home of a line, poison. -/
def State.packetRes (s : State) (m : Msg) (k : Nat) : EngRes :=
  let p := m.packet k
  if m.scm then
    let at_ := bits m.ptr.toNat 31 0
    match s.teamBad (m.gk / 16) (at_ + p.1) p.2 with
    | some o => .bad 3 1 (m.ptr.toNat + (o - at_))
    | none => if s.coreOwned (m.gk / 16) (at_ + p.1) p.2 then .wait else .ok []
  else
    engAll ((m.packetPlaces k).flatMap fun x =>
      let ptr := m.ptr.toNat + x.1
      s.placeRes m.dk false false ptr x.2 ::
        (if x.2.1 = 4 then []
         else (lineUses 0 0 ptr x.2.2.1 x.2.1 x.2.2.2 4).map fun u =>
          match s.poisonHit .read [] u with
          | some ga => .bad 3 1 (u.va + (ga - u.ga))
          | none => if s.engineOwns (u.ga / 128) then .wait else .ok []))

/-- Bytes placed in the image of a swapped team (R363), or in the core memory of a resident one, whose granules are then to be set
full with FULL (R308). -/
def State.placeCore (s : State) (tid off : Nat) (full : Bool) (bs : List Byte) : State :=
  let t := s.team tid
  if t.status = .swapped then
    let t' := { t with
      frame := (bs.zipIdx.foldl (fun f b => Store.put (fun _ => 0#8) (off + b.2) b.1 f) t.frame)
      frameFull := if full then (t.frameFull ++ (List.range ((bs.length + 15) / 16)).map (fun j => off / 16 + j)).eraseDups else t.frameFull }
    let core := s.frameAddr t.dk (teamFrame tid) + t.size * frameBytes
    let s := (s.setTeam tid t').setBytes (core + off) bs
    if full then (List.range ((bs.length + 15) / 16)).foldl (fun s j =>
      let g := off / 16 + j
      s.setByte (core + t.bytes + g / 8) (s.byte (core + t.bytes + g / 8) ||| BitVec.ofNat 8 (2 ^ (g % 8)))) s else s
  else
    let ga := coreAddr t.dk t.core (t.base + off)
    let s := s.engWrite t.dk [(0, ga, bs.length)] bs
    if full then (List.range ((bs.length + 15) / 16)).foldl (fun s j => s.addFill (ga / 16 + j)) s else s

/-- A placement fault: the rest of the message is discarded, the `rwait` reports it. -/
def recvFault (code sub ptr : Nat) : EngFault := ⟨none, 0, 5, code, none, 0, sub, BitVec.ofNat 64 ptr, false⟩

/-- Packet `k` of bytes `bs` placed by a receive: answers the state and whether it has been taken. -/
def State.placePacket (s : State) (ck : Nat) (r : Recv) (off : Nat) (bs : List Byte) : State × Bool :=
  let n := min bs.length (r.cap - off)
  if r.failed ∨ n = 0 then (s, true)
  else if matchDcm r.matchw then
    let at_ := bits r.buf.toNat 31 0 + off
    if s.coreOwned (r.gk / 16) at_ n then (s, false)
    else if (s.teamBad (r.gk / 16) at_ n).isSome then
      (s.setRecv ck r.handle fun r => { r with fault := some (recvFault 3 1 ((s.teamBad (r.gk / 16) at_ n).getD 0)), failed := true }, true)
    else (s.placeCore (r.gk / 16) at_ (matchFull r.matchw) (bs.take n), true)
  else
    let p := (r.buf.toNat + off) % 2 ^ 64
    match s.engXlat ⟨r.dk, r.asn, r.priv, r.heap, false⟩ r.hostFail p n .write with
    | .ok ps =>
      match s.engPoison ps with
      | some va => (s.setRecv ck r.handle fun r => { r with fault := some (recvFault 3 1 (bits p 63 60 * 2 ^ 60 + va)), failed := true }, true)
      | none => (s.engStore r.dk ps (bs.take n), true)
    | .bad code sub ptr => (s.setRecv ck r.handle fun r => { r with fault := some (recvFault code sub ptr), failed := true }, true)
    | .page va k =>
      let (s', req) := s.engPage r.dk va r.asn k 2 r.core
      (s'.setRecv ck r.handle fun r => { r with page := some req }, false)
    | .ask key =>
      ((s.askFor r.dk key).setRecv ck r.handle fun r => { r with page := some (hostPage key), hostFail := none }, false)
    | .wait => (s, false)

/-- The core-memory granules of a receive with FULL are set full by its completion (R393, R308). -/
def State.fillRecv (s : State) (r : Recv) : State :=
  let t := s.team (r.gk / 16)
  let ga := coreAddr t.dk t.core (t.base + bits r.buf.toNat 31 0)
  if matchDcm r.matchw ∧ matchFull r.matchw ∧ t.status ≠ .swapped then
    s.flushFills fun g => decide (ga / 16 ≤ g) && decide (16 * g < ga + r.cap)
  else s

/-- The packet has been placed or discarded by its receive. -/
def State.packetPlaced (s : State) (ck : Nat) (h : Word) (n k : Nat) : State :=
  let s := s.setRecv ck h fun r =>
    let placed := if r.placed.contains k then r.placed else r.placed ++ [k]
    { r with placed := placed, complete := placed.length == n }
  match s.recvOf ck h with
  | some r => if r.complete then s.fillRecv r else s
  | none => s

/-- The receiving unit has packet `k`; with the last one the `send` completes (R268). -/
def State.packetTaken (s : State) (key : Nat) (m : Msg) (k : Nat) (held : List (Nat × List Byte)) : State :=
  let got := if m.got.contains k then m.got else m.got ++ [k]
  let m := { m with got := got, held := held, since := s.cycle, sent := m.sent || got.length == m.packets }
  (({ s with msgs := Store.ins key m s.msgs }).workDone m.lk 0 (m.packet k).2 0).settle m.gk

/-- A packet of bytes `bs` at the receiving unit: placed by the receive that took the message, or held in its overflow entry. -/
def State.packetArrives (s : State) (key k : Nat) (m : Msg) (bs : List Byte) (held : Bool) : State :=
  let rest := m.held.filter fun h => h.1 != k
  match m.state with
  | .toRecv h =>
    let ck := coreKey m.dk m.dst
    match s.recvOf ck h with
    | some r =>
      if r.page.isSome then s
      else
        let q := s.placePacket ck r (m.packet k).1 bs
        if q.2 then ((q.1.packetPlaced ck h m.packets k).packetTaken key m k rest).msgOver key else q.1
    | none => (s.packetTaken key m k rest).msgOver key
  | .toOverflow => if held then s else s.packetTaken key m k (m.held ++ [(k, bs)])
  | _ => s

/-- Data packet `k` of a message arrives, its source read after every access of its group before the `send` (R268), or leaves its
overflow entry for the receive that took the message (R391, R393). A send that ends by a fault of its source leaves a receive
bound to it without the rest: it never completes. DESIGN CHOICE: log entry 71. -/
def State.dataPacket (s : State) (key k : Nat) : State :=
  match Store.find key s.msgs with
  | some m =>
    if !m.go ∨ m.packets ≤ k then s
    else
      match m.held.find? fun h => h.1 = k with
      | some h => s.packetArrives key k m h.2 true
      | none =>
        if m.got.contains k then s
        else
          let s := s.issuedBy m.gk m.tag.ord
          match s.packetRes m k with
          | .ok _ => s.packetArrives key k m (s.packetBytes m k) false
          | .bad code sub ptr => s.failSend key m 5 code sub (BitVec.ofNat 64 ptr)
          | _ => s
  | none => s

/-- MESSAGE_DATA_PACKET (R393). -/
def execMessageDataPacket (s : State) : Out := .next (s.dataPacket s.arg.key s.arg.sub)

/-- A packet of a message waits behind the block of a migration (R346). -/
def State.msgBlocked (s : State) (m : Msg) : Bool := (m.places.getD []).any fun p => p.1 != 4 && p.1 != 5 && s.blocked p.2.1

/-- An accepted message still has source bytes to read through translations of its address space (R336), `host`: to host memory
alone (R344). -/
def State.msgHolds (s : State) (dies asns : Nat → Bool) (host : Bool) : Bool :=
  s.msgs.any fun m => dies m.2.dk && asns m.2.asn && !m.2.scm && !m.2.sent &&
    (match m.2.places with
      | some ps => !ps.isEmpty && (!host || ps.any fun p => p.1 == 4)
      | none => false)

end Sys2Proof.Machine
end

