-- ==== Sys2Proof/Machine/Endpoint.lean ====
section
/-! DEFINITION. Page requests (R339, R340), address translation services (R343, R344), the PCIe endpoint and its host (R437 to
R442), attestation (R443, R444) and the storage service (R436). -/

namespace Sys2Proof.Machine

/-! ### Page requests (R339, R340) -/

/-- PAGE_REQUEST_POST (R339). -/
def execPageRequestPost (s : State) : Out := .next (s.postPages s.arg.key)

/-- PRQ_DONE (R340). -/
def execPrqDone (s : State) : Out := .next (s.prqDone s.arg.key (s.arg.val.toNat % 2 ^ 32))

/-! ### ATS and PRI (R343) -/

/-- The dies of a package. -/
def diesOf (p : Nat) : List Nat := [4 * p, 4 * p + 1, 4 * p + 2, 4 * p + 3]

/-- A page request may be sent for a page: some enabled range of the die with its PASID that covers it has P set. -/
def State.priAllowed (s : State) (dk key : Nat) : Bool :=
  (List.range 16).any fun h =>
    let at_ := (s.dev dk (0x0110 + 32 * h)).toNat
    let va := key % 2 ^ 44 * 4096
    bits at_ 0 0 == 1 && bits at_ 3 3 == 1 && bits at_ 23 4 == key / 2 ^ 44 % 2 ^ 20 &&
    decide ((s.dev dk (0x0100 + 32 * h)).toNat ≤ va) && decide (va < (s.dev dk (0x0108 + 32 * h)).toNat)

/-- The groups of a die that wait for a page of the host are to be saved, as for a page that is not present (R343); a group for
which the pool holds no frame faults as R367 gives. DEDUCED: log entry 32. -/
def State.priSave (s : State) (dk key : Nat) : State :=
  (s.allGroups.filter fun g => g.dk = dk && g.status == .live && g.wait == .page key && !g.priv).foldl (fun s g =>
    if s.poolRoom dk frameBytes then
      (s.poolTake dk (groupFrame g.key) frameBytes).setGroup g.key { s.group g.key with status := .paging (hostPage key) }
    else s.setGroup g.key { s.group g.key with wait := .none, hostFail := some (key, 0) }) s

/-- The waiters of a page of the host fault on the dies given. -/
def State.refusePage (s : State) (dks : List Nat) (key code : Nat) : State :=
  dks.foldl (fun s dk => s.supply dk (hostPage key) (some (key, code))) s

/-- The translation of a page of the host is cached and what waited for it goes on (R343). -/
def State.atsGrant (s : State) (p key hpa : Nat) (w : Bool) : State :=
  let k := s.pkg p
  (diesOf p).foldl (fun s dk => s.supply dk (hostPage key) none) (s.setPkg p { k with atc := Store.ins (key % 2 ^ 64) (hpa, w) k.atc })

/-- An answer that grants no access (R343): a PRI Page Request Group for the ranges that allow one; host code 1 for the others. -/
def State.atsDeny (s : State) (p key : Nat) : State :=
  let asks := (diesOf p).filter fun dk => s.priAllowed dk key
  let s := s.refusePage ((diesOf p).filter fun dk => !s.priAllowed dk key) key 1
  if asks.isEmpty then s
  else
    let k := s.pkg p
    asks.foldl (fun s dk => s.priSave dk key) (s.setPkg p { k with pri := k.pri ++ [(key, s.cycle)] })

/-- An answer of the host to a translation request (R343): access granted, read access alone, none, or an error. Read access alone
does not grant an access that writes. -/
def State.atsAnswer (s : State) (p key num hpa : Nat) : State :=
  let k := s.pkg p
  if !(k.ats.any fun a => a.1 == key) then s
  else
    let s := s.setPkg p { k with ats := k.ats.filter fun a => a.1 != key }
    match num with
    | 0 => s.atsGrant p key hpa true
    | 1 => if key < 2 ^ 64 then s.atsGrant p key hpa false else s.atsDeny p key
    | 2 => s.atsDeny p key
    | _ => s.refusePage (diesOf p) key 1

/-- ATS_COMPLETION (R343). -/
def execAtsCompletion (s : State) : Out := .next (s.atsAnswer s.arg.key s.arg.sub s.arg.num s.arg.val.toNat)

/-- PRG_RESPONSE (R343): what waited goes on, or faults with code 2 or 3. -/
def State.prgAnswer (s : State) (p key num : Nat) : State :=
  let k := s.pkg p
  if !(k.pri.any fun a => a.1 == key) then s
  else
    let s := s.setPkg p { k with pri := k.pri.filter fun a => a.1 != key }
    if num = 0 then (diesOf p).foldl (fun s dk => s.supply dk (hostPage key) none) s
    else s.refusePage (diesOf p) key (if num = 1 then 2 else 3)

def execPrgResponse (s : State) : Out := .next (s.prgAnswer s.arg.key s.arg.sub s.arg.num)

/-- No answer of the host within the transaction timeout of die 0: host code 4 (R343). -/
def State.hostSilent (s : State) (p key : Nat) : State :=
  let k := s.pkg p
  if (k.ats ++ k.pri).any fun a => a.1 == key && s.overdue (4 * p) a.2 then
    (s.setPkg p { k with ats := k.ats.filter fun a => a.1 != key, pri := k.pri.filter fun a => a.1 != key }).refusePage (diesOf p) key 4
  else s

/-- Outcome of an Invalidation Completion delivered to the host. -/
def cplInv : Nat := 6

/-- Engines of the package still have accesses to host memory to make. -/
def State.hostInUse (s : State) (p : Nat) : Bool :=
  s.copyHolds (fun dk => dk / 4 == p) (fun _ => true) true || s.msgHolds (fun dk => dk / 4 == p) (fun _ => true) true

/-- The Invalidation Completions of a package, once every access that used dropped translations has been performed (R344). -/
def State.invalidated (s : State) (p : Nat) : State :=
  let k := s.pkg p
  if k.invs = 0 ∨ s.hostInUse p then s
  else s.setPkg p { k with invs := 0, out := List.replicate k.invs (cplInv, []) ++ k.out }

/-- ATS_INVALIDATION (R344): the translations are dropped; the completion follows the accesses that used them. -/
def execAtsInvalidation (s : State) : Out :=
  let p := s.arg.key
  let k := s.pkg p
  let a := s.arg.val.toNat % 2 ^ 20 * 2 ^ 44 + s.arg.sub
  .next ((s.setPkg p { k with
    atc := k.atc.filter fun e => !(decide (a ≤ e.1) && decide (e.1 < a + s.arg.num)), invs := k.invs + 1 }).invalidated p)

/-! ### The host's requests to BAR0 (R438 to R442) -/

/-- Outcomes that a completion carries: success, Unsupported Request, Completer Abort, poisoned; a measurements response, and
an SPDM error. -/
def cplOk : Nat := 0
def cplUr : Nat := 1
def cplCa : Nat := 2
def cplPoison : Nat := 3
def cplSpdm : Nat := 4
def cplSpdmError : Nat := 5

/-- A completion delivered to the host. -/
def State.complete (s : State) (p st : Nat) (bs : List Byte) : State :=
  let k := s.pkg p
  s.setPkg p { k with out := (st, bs) :: k.out }

/-- A discarded host write reported through Advanced Error Reporting (R438). -/
def State.report438 (s : State) (p : Nat) : State :=
  let k := s.pkg p
  s.setPkg p { k with aer := k.aer + 1 }

/-- The gallery address of a BAR0 offset (R438). -/
def barAddr (p o : Nat) : Nat := p * 2 ^ 44 + bits o 37 0

/-- Every byte of a request is a populated byte of package DRAM. -/
def barOk (p o n : Nat) : Bool :=
  decide (o + n ≤ 2 ^ 38) && tableOk (barAddr p o) && (decide (n = 0) || tableOk (barAddr p (o + n - 1))) &&
  bits o 37 36 == bits (o + n - 1) 37 36

/-- The TDI serves a host request with or without the T bit, on an IDE stream (Table 14-2). -/
def State.tdiServes (s : State) (p : Nat) (t : Bool) (stream : Nat) : Bool :=
  let k := s.pkg p
  match k.tdi with
  | 0 => true
  | 1 => !t
  | 2 => !t || stream == k.bound
  | _ => false

/-- Lines touched by `n` bytes from `ga`. -/
def linesOf (ga n : Nat) : List Nat := (List.range ((ga % 128 + n + 127) / 128)).map (ga / 128 + ·)

/-- The places of `n` bytes of memory from a gallery address, where migrations forward them (R345): home, address, length. -/
def State.physPlaces (s : State) (ga n : Nat) : List (Nat × Nat × Nat) :=
  (s.physPieces 0 0 ga n (n / 65536 + 2)).map fun q => (q.x.home, q.x.ga, q.len)

/-- The lines of places, and those of one place with its home. -/
def linesIn (ps : List (Nat × Nat × Nat)) : List Nat := ps.flatMap fun p => linesOf p.2.1 p.2.2

/-- The bytes of places; as DRAM holds them. -/
def State.bytesIn (s : State) (ps : List (Nat × Nat × Nat)) : List Byte := ps.flatMap fun p => s.bytes p.2.1 p.2.2
def State.dramIn (s : State) (ps : List (Nat × Nat × Nat)) : List Byte := ps.flatMap fun p => s.dramBytes p.2.1 p.2.2

/-- An access of the host, or of the storage service of its package, waits for a place: a copy engine owns a line (R187), a migration
blocks it (R345), or the home that it is forwarded to cannot be had. -/
def State.hostWaits (s : State) (p : Nat) (ps : List (Nat × Nat × Nat)) : Bool :=
  ps.any fun q => (q.1 != 5 && s.blocked q.2.1) || !s.reachable (4 * p) (gaPkg q.2.1) || (s.pkg (gaPkg q.2.1)).dead ||
    (linesOf q.2.1 q.2.2).any s.engineOwns

/-- A copy of the line would be recalled in vain. -/
def State.stuckIn (s : State) (ps : List (Nat × Nat × Nat)) (w : Bool) : Bool := (linesIn ps).any fun l => s.recallStuck l w

/-- HOST_READ (R438, R439): it passes no posted write that lacks Relaxed Ordering. DEDUCED: log entry 74. -/
def State.hostRead (s : State) (p o n : Nat) (t noSnoop : Bool) (stream : Nat) : State :=
  let ps := s.physPlaces (barAddr p o) n
  if (s.pkg p).dead ∨ (s.pkg p).posted.any fun w => !w.relaxed then s
  else if !s.tdiServes p t stream ∨ !barOk p o n then s.complete p cplUr []
  else if s.hostWaits p ps ∨ (noSnoop = false ∧ s.stuckIn ps false) then s
  else if (linesIn ps).any s.isPoison then s.complete p cplPoison (List.replicate n 0)
  else if noSnoop then s.complete p cplOk (s.dramIn ps)
  else
    let s := (linesIn ps).foldl (fun s l => s.shareCopies l) s
    s.complete p cplOk (s.bytesIn ps)

def execHostRead (s : State) : Out :=
  .next (s.hostRead s.arg.key s.arg.sub s.arg.num s.arg.flag (s.arg.val.getLsbD 0) (bits s.arg.val.toNat 11 8))

/-- Some cache, of whatever package, holds the line. -/
def State.cachedLine (s : State) (line : Nat) : Bool :=
  (s.copied line fun _ => true) || s.held.any fun h => h.1 / 1024 == line

/-- Bytes written to DRAM past the caches: a granule of a line that some cache holds keeps the value that the caches hold as well
(R439). -/
def State.dramWrite (s : State) (ga : Nat) (bs : List Byte) : State :=
  (chunksAt 0 0 bs.length 0 ga (bs.length / 16 + 2)).foldl (fun s c =>
    let g := c.ga / 16
    let dram := s.dramBytes (g * 16) 16
    let cached := match Store.find g s.snoop with
      | some (true, other) => other
      | _ => s.bytes (g * 16) 16
    let new := dram.mapIdx fun i b => if c.ga % 16 ≤ i ∧ i < c.ga % 16 + c.len then (bs[c.off + i - c.ga % 16]?).getD b else b
    let s := s.tabWrite c.ga (slice bs c.off c.len)
    let s := { s.setBytes (g * 16) new with lag := Store.erase g s.lag }
    if s.cachedLine (c.ga / 128) then { s with snoop := Store.ins g (true, cached) s.snoop } else s) s

/-- The line stays poisoned under a write of places that covers it only in part. -/
def State.keepsPoison (s : State) (ps : List (Nat × Nat × Nat)) (l : Nat) : Bool :=
  s.isPoison l && !covered (ps.map (·.2)) (l * 128) 128

/-- The home's firewall keeps the cell of a package from some line (R413). -/
def State.walled (s : State) (p l : Nat) : Bool := !s.firewall (l * 128) (s.myCell (4 * p))

/-- A posted write has to wait for a line (R187, R345, R411). -/
def State.writeWaits (s : State) (p : Nat) (w : Posted) : Bool :=
  let ps := s.physPlaces (barAddr p w.off) w.bytes.length
  s.tdiServes p w.tbit w.stream && barOk p w.off w.bytes.length &&
  (s.hostWaits p ps || (!w.noSnoop && s.stuckIn ps true))

/-- Bytes written to places by `f`, place by place, with their release tags; whole lines and granules lose their marks. -/
def State.putIn (s : State) (f : State → Nat → Nat → List Byte → State) (tags : List Rel) (ps : List (Nat × Nat × Nat)) (bs : List Byte) :
    State :=
  (ps.foldl (fun (r : State × List Byte) q =>
    ((f r.1 q.1 q.2.1 (r.2.take q.2.2)).tagWrite q.2.1 q.2.2 tags, r.2.drop q.2.2)) (s, bs)).1.clearMarks (ps.map (·.2))

/-- A posted write of the host performed (R438, R439). -/
def State.hostPerform (s : State) (p : Nat) (w : Posted) : State :=
  let bs := w.bytes
  let ps := s.physPlaces (barAddr p w.off) bs.length
  if !s.tdiServes p w.tbit w.stream ∨ !barOk p w.off bs.length then s.complete p cplUr []
  else if (linesIn ps).any fun l => s.walled p l || s.keepsPoison ps l then s.report438 p
  else if w.noSnoop then s.putIn (fun s _ ga bs => s.dramWrite ga bs) [] ps bs
  else
    ((linesIn ps).foldl (fun s l => s.dropCopies l) s).putIn (fun s h ga bs => s.engWrite (4 * p) [(h, ga, bs.length)] bs)
      (if w.relaxed then [] else [hostAgent.release 6]) ps bs

/-- A queued posted write may be performed: one that lacks Relaxed Ordering only after those like it that arrived before (R307). -/
def postedFirst (ws : List Posted) (n : Nat) : Bool :=
  match ws[n]? with
  | some w => w.relaxed || (ws.take n).all (·.relaxed)
  | none => false

/-- The `n`-th posted write that waits at an endpoint is performed (R307). -/
def State.postedTurn (s : State) (p n : Nat) : State :=
  let k := s.pkg p
  match k.posted[n]? with
  | some w =>
    if k.dead ∨ !postedFirst k.posted n ∨ s.writeWaits p w then s
    else (s.setPkg p { k with posted := k.posted.eraseIdx n }).hostPerform p w
  | none => s

/-- A write of the host arrives; it is performed at once unless it is relaxed or others, or its lines, hold it (R307). -/
def State.hostWrite (s : State) (p : Nat) (w : Posted) : State :=
  let k := s.pkg p
  if k.dead then s
  else
    let s := s.setPkg p { k with posted := k.posted ++ [w] }
    if w.relaxed then s else s.postedTurn p k.posted.length

/-- HOST_WRITE (R438, R439): `num` holds the attributes No Snoop [0] and Relaxed Ordering [1], and the IDE stream [11:8]. -/
def execHostWrite (s : State) : Out :=
  .next (s.hostWrite s.arg.key ⟨s.arg.sub, s.arg.data, bits s.arg.num 11 8, s.arg.flag, s.arg.num.testBit 0, s.arg.num.testBit 1⟩)

/-- Width of a host AtomicOp, 0 for a form that the endpoint does not complete. -/
def hostAtomWidth (op n : Nat) : Nat :=
  match op with
  | 0 => if n = 4 ∨ n = 8 then n else 0
  | 1 => if n = 4 ∨ n = 8 then n else 0
  | 2 => if n = 8 ∨ n = 16 ∨ n = 32 then n / 2 else 0
  | _ => 0

/-- Bytes that a host AtomicOp stores. -/
def hostAtomNew (op w : Nat) (old data : List Byte) : List Byte :=
  match op with
  | 0 => bytesLE (natLE old + natLE data) w
  | 1 => data
  | _ => if data.take w = old then data.drop w else old

/-- HOST_ATOMICOP (R438). One that the firewall refuses completes as one to a poisoned line. DESIGN CHOICE: log entry 78. -/
def State.hostAtomic (s : State) (p o op : Nat) (data : List Byte) (t : Bool) (stream : Nat) : State :=
  let w := hostAtomWidth op data.length
  let ps := s.physPlaces (barAddr p o) w
  if (s.pkg p).dead ∨ (s.pkg p).posted.any fun w => !w.relaxed then s
  else if !s.tdiServes p t stream ∨ w = 0 ∨ o % w ≠ 0 ∨ !barOk p o w then s.complete p cplUr []
  else if s.hostWaits p ps ∨ s.stuckIn ps true then s
  else if (linesIn ps).any fun l => s.isPoison l || s.walled p l then s.complete p cplCa []
  else
    let s := (linesIn ps).foldl (fun s l => s.dropCopies l) s
    let old := s.bytesIn ps
    let tags := ps.flatMap fun q => s.tagsAt q.2.1 q.2.2
    (s.putIn (fun s h ga bs => s.engWrite (4 * p) [(h, ga, bs.length)] bs) tags ps (hostAtomNew op w old data)).complete p cplOk old

/-- A host AtomicOp to BAR0 (R438, R440), refused when misaligned or of a width that is not served. PRESUMED: log entry 51. -/
def execHostAtomicop (s : State) : Out :=
  .next (s.hostAtomic s.arg.key s.arg.sub s.arg.num s.arg.data s.arg.flag (bits s.arg.val.toNat 11 8))

/-! ### The trusted device interface (R441, R442) -/

/-- The function is held in ERROR: a die of the package refused its firmware image (R443). -/
def State.heldError (s : State) (p : Nat) : Bool := (diesOf p).any fun dk => (s.die dk).inReset

/-- TDISP_MESSAGE: LOCK_INTERFACE_REQUEST, which binds the interface to a stream, START_INTERFACE_REQUEST, or what moves a locked
interface to ERROR, a write of BAR0 by the host among it. PRESUMED: log entry 50. -/
def execTdispMessage (s : State) : Out :=
  let p := s.arg.key
  let k := s.pkg p
  .next (if s.heldError p then s
    else
      match s.arg.num with
      | 0 => if k.tdi = 0 then s.setPkg p { k with tdi := 1, bound := s.arg.sub } else s
      | 1 => if k.tdi = 1 then s.setPkg p { k with tdi := 2 } else s
      | _ => if k.tdi = 1 ∨ k.tdi = 2 then s.setPkg p { k with tdi := 3 } else s)

/-- STOP_INTERFACE. -/
def execStopInterface (s : State) : Out :=
  let p := s.arg.key
  .next (if s.heldError p then s else s.setPkg p { s.pkg p with tdi := 0 })

/-- IDE_KM: the key of the link stream (0) or of one of the selective streams (1 to 8); the configuration of the streams is in the
locked set (R441). -/
def execIdeKm (s : State) : Out :=
  let p := s.arg.key
  let k := s.pkg p
  .next (if k.tdi = 1 ∨ k.tdi = 2 then s.setPkg p { k with tdi := 3 }
    else if k.tdi = 0 ∧ s.arg.sub ≤ 8 ∧ s.arg.data.length = 32 then s.setPkg p { k with ide := Store.ins s.arg.sub s.arg.data k.ide } else s)

/-! ### Attestation (R444) -/

/-- The digest of the firmware that a die runs; of the image that stood in a die from the beginning, which the spec does not give, a
free value. DESIGN CHOICE: log entry 6. -/
def State.firmware (s : State) (dk : Nat) : List Byte :=
  let h := (s.die dk).digest
  if h.isEmpty then (List.range 4).flatMap fun i => bytesLE (Config.free 10 (4 * dk + i)).toNat 8 else h

/-- A signature under the package's identity key with a leaf: the leaf's index, then 2816 bytes that the spec does not give, as it
gives no key (RFC 8391 for XMSS-SHAKE256_20_256). DESIGN CHOICE: log entry 6. -/
def State.signature (s : State) (leaf : Nat) : List Byte :=
  bytesLE leaf 4 ++ (List.range 352).flatMap fun i => bytesLE (Config.free 20 (352 * s.steps + i)).toNat 8

/-- SPDM_MEASUREMENTS: the one-time-signature step is burned before the response leaves; the response holds the digests of the dies'
firmware, the rollback counter, the DEFECT.HDR values and the TDI state, and the signature. -/
def execSpdmMeasurements (s : State) : Out :=
  let p := s.arg.key
  let k := s.pkg p
  .next (if 2 ^ 20 ≤ k.leaf then s.complete p cplSpdmError []
    else
      (s.setPkg p { k with leaf := k.leaf + 1 }).complete p cplSpdm
        ((diesOf p).flatMap s.firmware ++ bytesLE k.rollback 8 ++ (diesOf p).flatMap (fun dk => bytesLE (s.sysReg dk 0x700).toNat 8) ++
          bytesLE k.tdi 1 ++ s.signature k.leaf))

/-! ### The storage service (R436) -/

/-- Records of the storage ring, 0 where STOR.COUNT holds no valid number. -/
def State.storCount (s : State) (p : Nat) : Nat :=
  let n := (s.dev (4 * p) 0x0910).toNat
  if 16 ≤ n ∧ n ≤ 4096 ∧ n = 2 ^ Nat.log2 n then n else 0

/-- The record's fields are those of Table 14-1, apart from OP. DESIGN CHOICE: log entry 52. -/
def badStore436 (r : List Byte) : Bool :=
  pkt r 0x10 8 % 65536 != 0 || pkt r 0x18 8 % 65536 != 0 || decide (2 ^ 54 ≤ pkt r 0x18 8) || !tableOk (pkt r 0x18 8) ||
  pkt r 0x20 4 % 4096 != 0 || decide (65536 < pkt r 0x20 4) ||
  pkt r 0x28 24 != 0

/-- The storage service of a package writes bytes: not the lines that a firewall keeps from it (R414), and not poisoned ones, which it
does not clear (R429). -/
def State.servicePut (s : State) (p ga : Nat) (bs : List Byte) (tags : List Rel) : State :=
  let ok := fun l => !s.walled p l && !s.isPoison l
  let cs := (s.physPieces 0 0 ga bs.length (bs.length / 65536 + 2)).flatMap fun q =>
    (chunksAt 0 q.off q.len q.x.home q.x.ga (q.len / 16 + 2)).filter fun c => ok (c.ga / 128)
  let s := (cs.map fun c => c.ga / 128).eraseDups.foldl (fun s l => s.dropCopies l) s
  cs.foldl (fun s c => (s.writeAt (4 * p) c.home c.ga (slice bs c.off c.len)).tagWrite c.ga c.len tags) s

/-- The service's access of `n` bytes waits (R187, R244, R345), or a copy is recalled in vain. -/
def State.serviceWaits (s : State) (p : Nat) (w : Bool) (ga n : Nat) : Bool :=
  let ps := s.physPlaces ga n
  s.hostWaits p ps || s.stuckIn ps w

/-- Bytes and words that the service reads, as an acquire at pkg scope of what they carry. -/
def State.serviceGet (s : State) (ga n : Nat) : List Byte := s.bytesIn (s.physPlaces ga n)

/-- STORAGE_REQUEST: the oldest request of the ring is performed, its STATUS written last, the ring's count advanced. A frame that
meets poison, or a firewall when it is filled, ends with STATUS 2. DESIGN CHOICE: log entry 52. -/
def State.storage (s : State) (p st : Nat) (data : List Byte) : State :=
  let base := bits (s.dev (4 * p) 0x0908).toNat 53 12 * 4096
  let n := s.storCount p
  let s := (s.physPlaces base 4).foldl (fun s q => s.serviceReads p q.2.1 q.2.2) s
  let cons := natLE (s.serviceGet (base + 64) 4)
  if n = 0 ∨ !tableOk base ∨ natLE (s.serviceGet base 4) = cons ∨ (s.pkg p).dead then s
  else
    let at_ := base + 128 + 64 * (cons % n)
    let r := s.serviceGet at_ 64
    let op := pkt r 0 4
    let ok := (op = 1 ∨ op = 2) ∧ !badStore436 r
    let frame := pkt r 0x18 8
    let len := pkt r 0x20 4
    if s.serviceWaits p true (base + 64) 4 ∨ s.serviceWaits p true at_ 64 ∨ (ok ∧ s.serviceWaits p (op == 1) frame len) then s
    else
      let ls := linesIn (s.physPlaces frame len)
      let lost := ls.any fun l => s.isPoison l || (op == 1 && s.walled p l)
      let status := if !ok then 3 else if lost then 2 else if st = 1 ∨ st = 2 then st else 1
      let s := if ok ∧ op = 1 then s.servicePut p frame (data.take len) [] else s
      let s := if ok ∧ op = 2 then ls.foldl (fun s l => s.shareCopies l) s else s
      let s := s.servicePut p (at_ + 4) (bytesLE status 4) [(serviceAgent p).release 3]
      s.servicePut p (base + 64) (bytesLE (cons + 1) 4) []

def execStorageRequest (s : State) : Out := .next (s.storage s.arg.key s.arg.val.toNat s.arg.data)

end Sys2Proof.Machine
end

