-- ==== Sys2Proof/Machine/Memory.lean ====
section
/-! DEFINITION. Loads, stores, typed loads and stores, core memory, atomics, fences, cache operations, tags and poison
(R178 to R212): lane majors 0x55 to 0x7F and `fence`. -/

namespace Sys2Proof.Machine

/-! ### Addresses (R74) -/

/-- K in units: the field, or the field extended by a payload. -/
def memK (k : BitVec 5) (x : Option (BitVec 24)) : Int :=
  match x with
  | none => k.toInt
  | some p => if p.extractLsb' 22 2 = 2#2 then (p.extractLsb' 7 15 ++ k).toInt else (p.extractLsb' 0 22 ++ k).toInt

/-- The index register of a kind 0b10 payload. -/
def memX (x : Option (BitVec 24)) : Option Reg :=
  match x with
  | some p => if p.extractLsb' 22 2 = 2#2 then some (p.extractLsb' 0 7) else none
  | none => none

/-- The index register among the operands. -/
def opX (x : Option (BitVec 24)) : List Opnd :=
  match memX x with
  | some r => [one r]
  | none => []

/-- EA of a lane: base, unit, offset in units. -/
def Group.ea (g : Group) (core : Bool) (a : Reg) (u : Nat) (k : Int) (x : Option (BitVec 24)) (i : Fin 128) : Nat :=
  let base : Int := if core then ((g.rd a.toNat)[i]).toNat else (g.rd64 a.toNat i).toNat
  let idx : Int := match memX x with
    | some r => ((g.rd r.toNat)[i]).toInt
    | none => 0
  ((base + (u : Int) * (k + idx)) % 2 ^ 64).toNat

/-- The accesses of the active lanes: `n` bytes at EA. -/
def Group.reqs (g : Group) (a : Reg) (u n : Nat) (k : Int) (x : Option (BitVec 24)) : List LaneReq :=
  (lanesIn g.exec).map fun i => let p := g.ea false a u k x i; ⟨i, p, p, n, []⟩

/-- The accesses of the active lanes to the unit that contains EA, whose low bits are ignored (R206, R209, R212). -/
def Group.unitReqs (g : Group) (a : Reg) (u : Nat) (k : Int) (x : Option (BitVec 24)) : List LaneReq :=
  (lanesIn g.exec).map fun i => let p := g.ea false a u k x i; ⟨i, p, p / u * u, u, []⟩

/-! ### Values -/

/-- The words of `cnt` registers from `d` in one lane, lowest first. -/
def Group.laneWords (g : Group) (d : Nat) (i : Fin 128) : Nat → Nat
  | 0 => 0
  | n + 1 => ((g.rd d)[i]).toNat + 2 ^ 32 * g.laneWords (d + 1) i n

/-- Registers that hold an access of `n` bytes, and the operand that names them. -/
def regsOf (n : Nat) : Nat := if n ≤ 4 then 1 else n / 4
def opndOf (n : Nat) (r : Reg) : Opnd := ⟨r.toNat, regsOf n, regsOf n⟩

/-! ### Loads and stores (R184 to R187) -/

/-- What loads and stores are to memory. -/
def loadOp : MemOp := ⟨.read, true, true, true, false⟩
def storeOp : MemOp := ⟨.write, true, true, true, false⟩

/-- A load of `n` bytes performed now; `o` and `sc` are its order and its scope. -/
def loadNow (i : Instr) (n : Nat) (sgn : Bool) (o sc : Nat) (d : Reg) (s s' : State) (accs : List LaneAcc) : Out :=
  let r := s'.loadLanes o sc accs
  wbOn i s (if o = 0 then r.1.deferUsed else r.1)
    (s.g.resRegs d.toNat (regsOf n) (r.2.map fun v => (v.1, if sgn then signExt n v.2 else v.2)))

/-- A load of `n` bytes; one that is held back completes with its destinations in flight (R287, R305). -/
def execLoad (i : Instr) (n : Nat) (sgn : Bool) (o : BitVec 2) (sc : BitVec 3) (d a : Reg) (k : BitVec 5) (x : Option (BitVec 24))
    (s : State) : Out :=
  issueLane i ([opndOf n d, pair a] ++ opX x) [] s
    (s.access loadOp (s.g.reqs a n n (memK k x) x) (fun s _ => s) fun s' accs =>
      holdOr i o.toNat sc.toNat d.toNat (regsOf n) (.load n sgn) false s' (lanePieces accs)
        (loadNow i n sgn o.toNat sc.toNat d s s' accs))

/-- A store of `n` bytes. -/
def execStore (i : Instr) (n : Nat) (o : BitVec 2) (sc : BitVec 3) (d a : Reg) (k : BitVec 5) (x : Option (BitVec 24))
    (s : State) : Out :=
  issueLane i ([opndOf n d, pair a] ++ opX x) [] s
    (
      let put := fun (s' : State) (accs : List LaneAcc) =>
        s'.storeLanes o.toNat sc.toNat accs fun l => bytesLE (s.g.laneWords d.toNat l (regsOf n)) n
      s.access storeOp (s.g.reqs a n n (memK k x) x) put fun s' accs => done i (put s' accs))

/-- `ld.s8` (R184). -/
def execLdS8 (o : BitVec 2) (sc : BitVec 3) (d a : Reg) (k : BitVec 5) (x : Option (BitVec 24)) (s : State) : Out :=
  execLoad (.ldS8 o sc d a k x) 1 true o sc d a k x s

/-- `ld.n8` (R184). -/
def execLdN8 (o : BitVec 2) (sc : BitVec 3) (d a : Reg) (k : BitVec 5) (x : Option (BitVec 24)) (s : State) : Out :=
  execLoad (.ldN8 o sc d a k x) 1 false o sc d a k x s

/-- `ld.s16` (R184). -/
def execLdS16 (o : BitVec 2) (sc : BitVec 3) (d a : Reg) (k : BitVec 5) (x : Option (BitVec 24)) (s : State) : Out :=
  execLoad (.ldS16 o sc d a k x) 2 true o sc d a k x s

/-- `ld.n16` (R184). -/
def execLdN16 (o : BitVec 2) (sc : BitVec 3) (d a : Reg) (k : BitVec 5) (x : Option (BitVec 24)) (s : State) : Out :=
  execLoad (.ldN16 o sc d a k x) 2 false o sc d a k x s

/-- `ld.32` (R184). -/
def execLd32 (o : BitVec 2) (sc : BitVec 3) (d a : Reg) (k : BitVec 5) (x : Option (BitVec 24)) (s : State) : Out :=
  execLoad (.ld32 o sc d a k x) 4 false o sc d a k x s

/-- `ld.64` (R184). -/
def execLd64 (o : BitVec 2) (sc : BitVec 3) (d a : Reg) (k : BitVec 5) (x : Option (BitVec 24)) (s : State) : Out :=
  execLoad (.ld64 o sc d a k x) 8 false o sc d a k x s

/-- `ld.128` (R184). -/
def execLd128 (o : BitVec 2) (sc : BitVec 3) (d a : Reg) (k : BitVec 5) (x : Option (BitVec 24)) (s : State) : Out :=
  execLoad (.ld128 o sc d a k x) 16 false o sc d a k x s

/-- `st.8` (R184). -/
def execSt8 (o : BitVec 2) (sc : BitVec 3) (d a : Reg) (k : BitVec 5) (x : Option (BitVec 24)) (s : State) : Out :=
  execStore (.st8 o sc d a k x) 1 o sc d a k x s

/-- `st.16` (R184). -/
def execSt16 (o : BitVec 2) (sc : BitVec 3) (d a : Reg) (k : BitVec 5) (x : Option (BitVec 24)) (s : State) : Out :=
  execStore (.st16 o sc d a k x) 2 o sc d a k x s

/-- `st.32` (R184). -/
def execSt32 (o : BitVec 2) (sc : BitVec 3) (d a : Reg) (k : BitVec 5) (x : Option (BitVec 24)) (s : State) : Out :=
  execStore (.st32 o sc d a k x) 4 o sc d a k x s

/-- `st.64` (R184). -/
def execSt64 (o : BitVec 2) (sc : BitVec 3) (d a : Reg) (k : BitVec 5) (x : Option (BitVec 24)) (s : State) : Out :=
  execStore (.st64 o sc d a k x) 8 o sc d a k x s

/-- `st.128` (R184). -/
def execSt128 (o : BitVec 2) (sc : BitVec 3) (d a : Reg) (k : BitVec 5) (x : Option (BitVec 24)) (s : State) : Out :=
  execStore (.st128 o sc d a k x) 16 o sc d a k x s

/-! ### Typed loads and stores (R188, R189) -/

/-- The alignment that a format asks of the address holds. -/
def fmtAligned (f va : Nat) : Bool :=
  match f with
  | 3 => va % 8 == 0
  | 4 => va % 65536 % 6 == 0 && decide (va % 65536 ≤ 65530)
  | 5 => va % 8 == 0
  | 6 => va % 65536 % 6 == 0 && decide (va % 65536 ≤ 65530)
  | 7 => va % 4 == 0
  | _ => va % 16 == 0

/-- FMT of the page that an access of a kind uses, where it is mapped, whatever the access may do there (R188): 0 in a host range. -/
def State.fmtAt (s : State) (k : Kind) (va : Nat) : Option Nat :=
  let c := s.g.ctx
  if c.heap.holds va then some (bits c.heap.attr.toNat 6 3)
  else if (s.hostRange c.dk va).isSome ∨ (c.asn = 0 ∧ bits (s.dev c.dk 0x0008).toNat 12 0 = 0) then some 0
  else
    match (s.leafFor c va k).1 with
    | .leaf w => some (bits w.lo 14 11)
    | .bad _ _ _ => none

/-- The accesses of the active lanes of a typed load or store; one without an element format has no size (Table 6-5), and its
first byte is checked, as is that of one without a mapping. -/
def State.typedReqs (s : State) (kind : Kind) (a : Reg) (k : Int) (x : Option (BitVec 24)) : List LaneReq :=
  (lanesIn s.g.exec).map fun i =>
    let p := s.g.ea false a 16 k x i
    match s.fmtAt kind (p % 2 ^ 56) with
    | some f =>
      if f = 0 ∨ 7 < f then ⟨i, p, p, 1, [(3, 11)]⟩
      else ⟨i, p, p, fmtBytes f, if fmtAligned f p then [] else [(3, 10)]⟩
    | none => ⟨i, p, p, 1, []⟩

/-- Format of a lane's translated access. -/
def LaneAcc.fmt (a : LaneAcc) : Nat := (a.ps.head?.map fun p => p.x.fmt).getD 0

/-- `ldf` (R189). -/
def execLdf (o : BitVec 2) (sc : BitVec 3) (d a : Reg) (k : BitVec 5) (x : Option (BitVec 24)) (s : State) : Out :=
  let i : Instr := .ldf o sc d a k x
  issueLane i ([quad d, pair a] ++ opX x) [] s
    (s.access loadOp (s.typedReqs .read a (memK k x) x) (fun s _ => s) fun s' accs =>
        let r := s'.readLanes o.toNat sc.toNat accs
        holdOr i o.toNat sc.toNat d.toNat 4 (.typed (accs.map fun a => (a.lane, a.fmt))) false s' (lanePieces accs)
          (wbOn i s (if o = 0 then r.1.deferUsed else r.1)
            (s.g.resRegs d.toNat 4 ((r.2.zip accs).map fun v => (v.1.1, unpackFmt v.2.fmt (natLE v.1.2))))))

/-- `stf` (R189). -/
def execStf (o : BitVec 2) (sc : BitVec 3) (d a : Reg) (k : BitVec 5) (x : Option (BitVec 24)) (s : State) : Out :=
  let i : Instr := .stf o sc d a k x
  issueLane i ([quad d, pair a] ++ opX x) [] s
    (
      let put := fun (s' : State) (accs : List LaneAcc) =>
        s'.storeLanes o.toNat sc.toNat accs fun l =>
          let f := ((accs.find? fun c => c.lane = l).map LaneAcc.fmt).getD 0
          bytesLE (packFmt f (s.g.laneWords d.toNat l 4)) (fmtBytes f)
      s.access storeOp (s.typedReqs .write a (memK k x) x) put fun s' accs => done i (put s' accs))

/-! ### Core memory (R190 to R196) -/

/-- The fault of an access of a core-memory form (R190, R211), and its trap (R179). -/
def State.coreHit (s : State) (size : Nat) (kind : Kind) (mark : Bool) (off n : Nat) : Option Hit :=
  if size < off + n then some ⟨3, 9, off, 0, false⟩
  else if off % n ≠ 0 then some ⟨3, 10, off, 0, false⟩
  else
    let ga := s.teamBase s.myTeam + off
    if mark ∧ s.isBad (ga / 16) ∧ (kind.reads ∨ n < 16) then some ⟨4, 1, off, ga, false⟩ else none

/-- The checks of a core-memory form, then `k` with each active lane's offset. -/
def State.coreAccess (s : State) (kind : Kind) (mark : Bool) (size n : Nat) (offs : List (Fin 128 × Nat))
    (k : Out) : Out :=
  match leastTrap (offs.filterMap fun o => (s.coreHit size kind mark o.2 n).map fun h => h.trap kind (some o.1.val) o.2) with
  | some t => takeTrap t s
  | none => if offs.any fun o => s.engineOwns ((s.teamBase s.myTeam + o.2) / 128) then waitFor .owned s else k

/-- Offsets of the active lanes. -/
def Group.offs (g : Group) (a : Reg) (u : Nat) (k : Int) (x : Option (BitVec 24)) : List (Fin 128 × Nat) :=
  (lanesIn g.exec).map fun i => (i, g.ea true a u k x i)

/-- The pieces of the lanes' core-memory loads. -/
def State.coreGets (s : State) (n : Nat) (offs : List (Fin 128 × Nat)) : List Get :=
  offs.map fun o => ⟨o.1.val, 0, s.teamBase s.myTeam + o.2, n⟩

/-- Those pieces with their lanes. -/
def State.corePieces (s : State) (n : Nat) (offs : List (Fin 128 × Nat)) : List (Fin 128 × Get) :=
  offs.map fun o => (o.1, ⟨o.1.val, 0, s.teamBase s.myTeam + o.2, n⟩)

/-- The values at the lanes' offsets, read now; an acquire reaches the team (R191). -/
def State.coreVals (s : State) (o n : Nat) (old : Bool) (offs : List (Fin 128 × Nat)) : State × List (Fin 128 × Nat) :=
  let r := s.getPieces o 1 old (s.coreGets n offs)
  (r.1, (offs.zip r.2).map fun v => (v.1.1, natLE v.2))

/-- The group's own accesses to the granules of the lanes, held back, are performed: before an act on their full/empty bits. -/
def State.flushCore (s : State) (offs : List (Fin 128 × Nat)) : State :=
  if s.g.mo.pend.isEmpty ∧ s.g.mo.loads.isEmpty then s
  else
    let a := s.teamBase s.myTeam
    let s := s.landWhere s.g.key fun _ q => offs.any fun o => q.ga / 16 == (a + o.2) / 16
    s.drainTo s.g.key (lastOf (fun p => offs.any fun o => p.ga / 16 == (a + o.2) / 16) s.g.mo.pend)

/-- Core-memory granules of the lanes. -/
def State.coreGranules (s : State) (offs : List (Fin 128 × Nat)) : List Nat :=
  (offs.map fun o => (s.teamBase s.myTeam + o.2) / 16).eraseDups

/-- A core-memory load; `waits` for full granules, `take` empties them (R193). A waiting load reads where the bits are set (R309); a
plain relaxed one may return what its lane has seen before (R305). -/
def execCoreLoad (i : Instr) (n : Nat) (waits take : Bool) (o : BitVec 2) (d a : Reg) (k : BitVec 5) (x : Option (BitVec 24))
    (s : State) : Out :=
  issueLane i ([opndOf n d, one a] ++ opX x) [] s
    (let offs := s.g.offs a n (memK k x) x
     s.coreAccess (if take then .rmw else .read) true s.myTeam.cmem n offs
        (let t := if waits then s.flushCore offs else s
         let gs := t.coreGranules offs
         if waits ∧ !(gs.all t.isFull) then waitFor .ldcw t
         else
          let r := t.coreVals o.toNat n (!waits) offs
          let u := if o = 0 then r.1.deferUsed else r.1
          let now := wbOn i s (if take then gs.foldl (fun s g => s.setFull g false) u else u) (s.g.resRegs d.toNat (regsOf n) r.2)
          if waits then now
          else holdOr i o.toNat 1 d.toNat (regsOf n) (.load n false) false t (t.corePieces n offs) now))

/-- The lanes' core-memory stores in the order of R181; a whole granule clears its mark (R211). A release reaches the team (R191). -/
def State.coreStores (s : State) (o n : Nat) (full : Bool) (offs : List (Fin 128 × Nat)) (val : Fin 128 → Nat) : State :=
  let a := s.teamBase s.myTeam
  let s := s.putPieces o 1 (offs.map fun p => ⟨2 * p.1.val, 0, a + p.2, bytesLE (val p.1) n, full⟩)
  if n = 16 then offs.foldl (fun s p => s.setBad ((a + p.2) / 16) false) s else s

/-- A core-memory store; `full` sets the granules full (R192). -/
def execCoreStore (i : Instr) (n : Nat) (full : Bool) (o : BitVec 2) (d a : Reg) (k : BitVec 5) (x : Option (BitVec 24))
    (s : State) : Out :=
  issueLane i ([opndOf n d, one a] ++ opX x) [] s
    (let offs := s.g.offs a n (memK k x) x
     s.coreAccess .write true s.myTeam.cmem n offs
        (done i (s.coreStores o.toNat n full offs fun l => s.g.laneWords d.toNat l (regsOf n))))

/-- `ldc.32` (R192, R193). -/
def execLdc32 (o : BitVec 2) (d a : Reg) (k : BitVec 5) (x : Option (BitVec 24)) (s : State) : Out :=
  execCoreLoad (.ldc32 o d a k x) 4 false false o d a k x s

/-- `ldc.64` (R192, R193). -/
def execLdc64 (o : BitVec 2) (d a : Reg) (k : BitVec 5) (x : Option (BitVec 24)) (s : State) : Out :=
  execCoreLoad (.ldc64 o d a k x) 8 false false o d a k x s

/-- `ldc.128` (R192, R193). -/
def execLdc128 (o : BitVec 2) (d a : Reg) (k : BitVec 5) (x : Option (BitVec 24)) (s : State) : Out :=
  execCoreLoad (.ldc128 o d a k x) 16 false false o d a k x s

/-- `ldc.w.k.32` (R192, R193). -/
def execLdcWK32 (o : BitVec 2) (d a : Reg) (k : BitVec 5) (x : Option (BitVec 24)) (s : State) : Out :=
  execCoreLoad (.ldcWK32 o d a k x) 4 true false o d a k x s

/-- `ldc.w.k.64` (R192, R193). -/
def execLdcWK64 (o : BitVec 2) (d a : Reg) (k : BitVec 5) (x : Option (BitVec 24)) (s : State) : Out :=
  execCoreLoad (.ldcWK64 o d a k x) 8 true false o d a k x s

/-- `ldc.w.k.128` (R192, R193). -/
def execLdcWK128 (o : BitVec 2) (d a : Reg) (k : BitVec 5) (x : Option (BitVec 24)) (s : State) : Out :=
  execCoreLoad (.ldcWK128 o d a k x) 16 true false o d a k x s

/-- `ldc.w.c.32` (R192, R193). -/
def execLdcWC32 (o : BitVec 2) (d a : Reg) (k : BitVec 5) (x : Option (BitVec 24)) (s : State) : Out :=
  execCoreLoad (.ldcWC32 o d a k x) 4 true true o d a k x s

/-- `ldc.w.c.64` (R192, R193). -/
def execLdcWC64 (o : BitVec 2) (d a : Reg) (k : BitVec 5) (x : Option (BitVec 24)) (s : State) : Out :=
  execCoreLoad (.ldcWC64 o d a k x) 8 true true o d a k x s

/-- `ldc.w.c.128` (R192, R193). -/
def execLdcWC128 (o : BitVec 2) (d a : Reg) (k : BitVec 5) (x : Option (BitVec 24)) (s : State) : Out :=
  execCoreLoad (.ldcWC128 o d a k x) 16 true true o d a k x s

/-- `stc.32` (R192). -/
def execStc32 (o : BitVec 2) (d a : Reg) (k : BitVec 5) (x : Option (BitVec 24)) (s : State) : Out :=
  execCoreStore (.stc32 o d a k x) 4 false o d a k x s

/-- `stc.64` (R192). -/
def execStc64 (o : BitVec 2) (d a : Reg) (k : BitVec 5) (x : Option (BitVec 24)) (s : State) : Out :=
  execCoreStore (.stc64 o d a k x) 8 false o d a k x s

/-- `stc.128` (R192). -/
def execStc128 (o : BitVec 2) (d a : Reg) (k : BitVec 5) (x : Option (BitVec 24)) (s : State) : Out :=
  execCoreStore (.stc128 o d a k x) 16 false o d a k x s

/-- `stc.f.32` (R192). -/
def execStcF32 (o : BitVec 2) (d a : Reg) (k : BitVec 5) (x : Option (BitVec 24)) (s : State) : Out :=
  execCoreStore (.stcF32 o d a k x) 4 true o d a k x s

/-- `stc.f.64` (R192). -/
def execStcF64 (o : BitVec 2) (d a : Reg) (k : BitVec 5) (x : Option (BitVec 24)) (s : State) : Out :=
  execCoreStore (.stcF64 o d a k x) 8 true o d a k x s

/-- `stc.f.128` (R192). -/
def execStcF128 (o : BitVec 2) (d a : Reg) (k : BitVec 5) (x : Option (BitVec 24)) (s : State) : Out :=
  execCoreStore (.stcF128 o d a k x) 16 true o d a k x s

/-- Bytes of core memory that the kernel declares: the bound of `stc.t` (R195). -/
def State.kernelBytes (s : State) : Nat :=
  match Store.find s.myTeam.lk s.launches with
  | some l => l.bytes
  | none => s.myTeam.cmem

/-- The checks of `stc.t`, which does not touch the running core memory, then `k`. -/
def State.imageAccess (s : State) (n : Nat) (offs : List (Fin 128 × Nat)) (k : Out) : Out :=
  match leastTrap (offs.filterMap fun o =>
    (s.coreHit s.kernelBytes .write false o.2 n).map fun h => h.trap .write (some o.1.val) o.2) with
  | some t => takeTrap t s
  | none => k

/-- `stc.t.128` (R195). -/
def execStcT128 (d a : Reg) (k : BitVec 5) (x : Option (BitVec 24)) (s : State) : Out :=
  let i : Instr := .stcT128 d a k x
  issueLane i ([quad d, one a] ++ opX x) [] s
    (let offs := s.g.offs a 16 (memK k x) x
     s.imageAccess 16 offs
        (let img := (s.orderOf (offs.map fun o => 2 * o.1.val)).foldl (fun m j =>
          match offs.find? fun o => 2 * o.1.val = j with
          | some o => Store.ins (o.2 / 16) (bytesLE (s.g.laneWords d.toNat o.1 4) 16) m
          | none => m) s.g.image
         done i { s.orderUsed with g := { s.g with image := img } }))

/-- `clre` (R194). -/
def execClre (a : Reg) (k : BitVec 5) (x : Option (BitVec 24)) (s : State) : Out :=
  let i : Instr := .clre a k x
  issueLane i ([one a] ++ opX x) [] s
    (let offs := s.g.offs a 16 (memK k x) x
     s.coreAccess .write false s.myTeam.cmem 16 offs
        (done i ((s.coreGranules offs).foldl (fun s g => s.setFull g false) (s.flushCore offs))))

/-- The atomic of each lane on core memory, one lane after another (R196, R199): the old values. -/
def State.atomcLanes (s : State) (offs : List (Fin 128 × Nat)) (f : Fin 128 → Nat → Option Nat) : State × List (Fin 128 × Nat) :=
  let gs := s.coreGets 4 offs
  let tags := s.g.relTags false 1
  let got := (gs.flatMap fun p => s.tagsAt p.ga 4).eraseDups
  let s := (s.beforeWrite false 1 (offs.map fun o => ⟨2 * o.1.val, 0, s.teamBase s.myTeam + o.2, bytesLE 0 4, false⟩) []).beforeRead 1 gs
  let r := (s.orderOf (offs.map fun o => 2 * o.1.val)).foldl (fun (r : State × List (Fin 128 × Nat)) j =>
    match offs.find? fun o => 2 * o.1.val = j with
    | some o =>
      let ga := s.teamBase s.myTeam + o.2
      let old := r.1.rdN ga 4
      (r.1.rmwAt s.g.key o.1.val ga 4 tags ((f o.1 old).map fun v => bytesLE v 4), r.2 ++ [(o.1, old)])
    | none => r) (s.orderUsed, [])
  (r.1.afterRead 0 1 false gs got, r.2)

/-- `atomc` (R196). -/
def execAtomc (m : BitVec 3) (d a b : Reg) (s : State) : Out :=
  let i : Instr := .atomc m d a b
  issueLane i [one d, one a, one b] [] s
    (let offs := (lanesIn s.g.exec).map fun l => (l, ((s.g.rd a.toNat)[l]).toNat)
     let op := fun (l : Fin 128) => ((s.g.rd b.toNat)[l]).toNat
     let cmp := fun (l : Fin 128) => ((s.g.rd d.toNat)[l]).toNat
     s.coreAccess .rmw true s.myTeam.cmem 4 offs
        (let r := s.atomcLanes offs fun l old =>
          if rmwWrites true m.toNat old (cmp l) then some (rmwNew true m.toNat 4 old (op l) (cmp l)) else none
         holdOr i 0 1 d.toNat 1 (.atomic true m.toNat 4 (offs.map fun o => (o.1, (op o.1, cmp o.1))) (s.g.relTags false 1)) true s
          (s.corePieces 4 offs) (wbOn i s r.1.deferUsed (s.g.resRegs d.toNat 1 r.2))))

/-! ### Atomics (R197 to R202) -/

/-- Registers named by D (Table 6-7). -/
def atomOpnd (n : Nat) (cas : Bool) (d : Reg) : Opnd :=
  let c := if cas then n / 2 else n / 4
  ⟨d.toNat, c, c⟩

/-- The host's completer carries the operation at the width (R202, R440): a bit of HOST.ATOM of die 0. -/
def State.hostAtom (s : State) (n : Nat) (k : BitVec 5) : Bool :=
  let w := s.dev (s.g.dk / 4 * 4) 0x0900
  match k.toNat with
  | 0 => if n = 4 then w.getLsbD 0 else n == 8 && w.getLsbD 1
  | 8 => if n = 4 then w.getLsbD 2 else n == 8 && w.getLsbD 3
  | 9 => if n = 4 then w.getLsbD 4 else if n = 8 then w.getLsbD 5 else w.getLsbD 6
  | _ => false

/-- An atomic of `n` bytes. -/
def execAtom (i : Instr) (n : Nat) (o : BitVec 2) (sc : BitVec 3) (d a : Reg) (k : BitVec 5) (x : Option (BitVec 24))
    (s : State) : Out :=
  let cas := k.toNat == 9
  issueLane i ([atomOpnd n cas d, pair a] ++ opX x) [] s
    (
      let w := n / 4
      let op := fun (l : Fin 128) => s.g.laneWords (if cas then d.toNat + w else d.toNat) l w
      let cmp := fun (l : Fin 128) => s.g.laneWords d.toNat l w
      let new := fun (l : Fin 128) (old : Nat) => atomNew n k old (op l) (cmp l)
      let wr := fun (l : Fin 128) (old : Nat) => !cas || old == cmp l
      let qs := (s.g.reqs a n n 0 x).map fun q => { q with more := if q.ptr % n = 0 then [] else [(3, 10)] }
      s.access ⟨.rmw, true, true, s.hostAtom n k, false⟩ qs
        (fun s' accs => (s'.atomicLanes o.toNat sc.toNat accs n wr new).1) fun s' accs =>
        let r := s'.atomicLanes o.toNat sc.toNat accs n wr new
        let kind : HeldKind := .atomic false k.toNat n (accs.map fun a => (a.lane, (op a.lane, cmp a.lane))) (s'.g.relTags false sc.toNat)
        holdOr i o.toNat sc.toNat d.toNat w kind true s' (lanePieces accs)
          (wbOn i s (if o = 0 then r.1.deferUsed else r.1) (s.g.resRegs d.toNat w r.2)))

/-- `atom` on 32 bits (R197). -/
def execAtom32 (o : BitVec 2) (sc : BitVec 3) (d a : Reg) (k : BitVec 5) (x : Option (BitVec 24)) (s : State) : Out :=
  execAtom (.atom32 o sc d a k x) 4 o sc d a k x s

/-- `atom` on 64 bits (R197). -/
def execAtom64 (o : BitVec 2) (sc : BitVec 3) (d a : Reg) (k : BitVec 5) (x : Option (BitVec 24)) (s : State) : Out :=
  execAtom (.atom64 o sc d a k x) 8 o sc d a k x s

/-- `atom.cas.128` (R197). -/
def execAtom128 (o : BitVec 2) (sc : BitVec 3) (d a : Reg) (k : BitVec 5) (x : Option (BitVec 24)) (s : State) : Out :=
  execAtom (.atom128 o sc d a k x) 16 o sc d a k x s

/-! ### Fences, cache operations, tags, poison (R203 to R212) -/

/-- `fence` (R203 to R205); a cache operation completes at once, so no fence waits for one. -/
def execFence (k : BitVec 2) (sc : BitVec 3) (s : State) : Out :=
  issue (.fence k sc) [] [] s (done (.fence k sc) (s.fence k.toNat sc.toNat))

/-- The caches that a cache operation of the group in hand acts on (Table 6-9). -/
def Group.cachesOf (g : Group) (sc u : Nat) : Bool :=
  match sc with
  | 0 => u == l1Unit g.dk g.core
  | 1 => u == l1Unit g.dk g.core
  | 2 => unitDie u == g.dk
  | 3 => unitDie u / 4 == g.dk / 4
  | _ => true

/-- Packages other than its home that hold a line give up what an operation has dropped from every cache of theirs (R408): a copy
in S is gone without notice, the return of one in E, O or M goes to the home. -/
def State.giveUp (s : State) (sc line : Nat) : State :=
  if sc < 3 then s
  else
    (s.held.filter fun h => h.1 / 1024 == line && (decide (3 < sc) || h.1 % 1024 == s.g.dk / 4)).foldl (fun s h =>
      if s.copied line fun u => unitDie u / 4 == h.1 % 1024 then s else s.setHeld line (h.1 % 1024) 0) s

/-- A line that no cache holds any more has the one value that DRAM holds (R439). -/
def State.settled439 (s : State) (line : Nat) : State :=
  if (s.copied line fun _ => true) || s.held.any fun h => h.1 / 1024 == line then s else s.settleWith line true

/-- A cache operation on a line (R206): 0 `cwb`, 1 `cinv`, 2 `cflush`; a poisoned line is left as it is. -/
def State.cacheLine (s : State) (op sc line : Nat) : State :=
  let p := s.g.cachesOf sc
  let s := s.flushLine line
  if s.isPoison line then s
  else
    match op with
    | 0 => s.writeBack line p
    | 1 => ((s.dropClean line p).giveUp sc line).settled439 line
    | _ => (((s.writeBack line p).dropInner line p).giveUp sc line).settled439 line

/-- A cache operation: its checks (R206), then its effect on the copies of each line. -/
def execCacheOp (i : Instr) (op : Nat) (sc : BitVec 3) (a : Reg) (k : BitVec 5) (x : Option (BitVec 24))
    (s : State) : Out :=
  issueLane i ([pair a] ++ opX x) [] s
    (s.access ⟨.cache, false, false, true, false⟩ (s.g.unitReqs a 128 (memK k x) x) (fun s _ => s) fun s' accs =>
        done i ((accs.flatMap (·.ps)).foldl (fun s p =>
          if p.x.home = 4 ∨ gaRegion p.x.ga ≠ 0 then s else s.cacheLine op sc.toNat (p.x.ga / 128)) s'))

/-- `cwb` (R206). -/
def execCwb (sc : BitVec 3) (a : Reg) (k : BitVec 5) (x : Option (BitVec 24)) (s : State) : Out :=
  execCacheOp (.cwb sc a k x) 0 sc a k x s

/-- `cinv` (R206). -/
def execCinv (sc : BitVec 3) (a : Reg) (k : BitVec 5) (x : Option (BitVec 24)) (s : State) : Out :=
  execCacheOp (.cinv sc a k x) 1 sc a k x s

/-- `cflush` (R206). -/
def execCflush (sc : BitVec 3) (a : Reg) (k : BitVec 5) (x : Option (BitVec 24)) (s : State) : Out :=
  execCacheOp (.cflush sc a k x) 2 sc a k x s

/-- `pref` (R208): no fault but those of class 1, no effect. -/
def execPref (sc : BitVec 3) (a : Reg) (k : BitVec 5) (x : Option (BitVec 24)) (s : State) : Out :=
  issueLane (.pref sc a k x) ([pair a] ++ opX x) [] s (done (.pref sc a k x) s)

/-- The granule of a lane's access holds a tag: its page has TAGEN set, in DRAM. -/
def LaneAcc.tagged (a : LaneAcc) : Option Nat :=
  match a.ps with
  | p :: _ => if p.x.tagen ∧ p.x.home ≠ 4 ∧ gaRegion p.x.ga = 0 then some (p.x.ga / 32) else none
  | [] => none

/-- `tagld` (R209). A poisoned line raises nothing where its home is on the package: R211 speaks of data. DESIGN CHOICE: log
entry 63. -/
def execTagld (d a : Reg) (k : BitVec 5) (x : Option (BitVec 24)) (s : State) : Out :=
  let i : Instr := .tagld d a k x
  issueLane i ([one d, pair a] ++ opX x) [] s
    (s.access ⟨.read, false, false, true, false⟩ (s.g.unitReqs a 32 (memK k x) x) (fun s _ => s) fun s' accs =>
        wbOn i s s' (s.g.resRegs d.toNat 1 (accs.map fun c => (c.lane, ((c.tagged.map s'.tagAt).getD 0).toNat))))

/-- `tagst` (R209); of a poisoned line as `tagld`. DESIGN CHOICE: log entry 63. -/
def execTagst (d a : Reg) (k : BitVec 5) (x : Option (BitVec 24)) (s : State) : Out :=
  let i : Instr := .tagst d a k x
  issueLane i ([one d, pair a] ++ opX x) [] s
    (s.access ⟨.write, false, false, true, false⟩ (s.g.unitReqs a 32 (memK k x) x) (fun s _ => s) fun s' accs =>
        done i ((s'.orderOf (accs.map fun c => 2 * c.lane.val)).foldl (fun s' j =>
          match accs.find? fun c => 2 * c.lane.val = j with
          | some c =>
            match c.tagged with
            | some g => s'.setTag g (((s.g.rd d.toNat)[c.lane]).extractLsb' 0 4)
            | none => s'
          | none => s') s'.orderUsed))

/-- An access of the group in hand to a whole line, by its lowest lane. -/
def State.lineTouched (s : State) (line : Nat) : State :=
  { s with g := { s.g with mo := (List.range 8).foldl (fun m j => m.touch s.g.ulane.val (line * 8 + j)) s.g.mo } }

/-- The line's bytes and tags zero, both values of a granule written with No Snoop among them, and its poison cleared, where it is
poisoned (R212). -/
def State.clearLine (s : State) (ga : Nat) : State :=
  let line := ga / 128
  if s.isPoison line then
    let zeros := List.replicate 128 0
    let s := ((s.flushLine line).uncached line).tabWrite (line * 128) zeros
    let s := (s.tagWrite (line * 128) 128 []).lineTouched line
    let s := (s.setBytes (line * 128) (List.replicate 128 0)).setPoison line false
    (((s.setTag (line * 4) 0).setTag (line * 4 + 1) 0).setTag (line * 4 + 2) 0).setTag (line * 4 + 3) 0
  else s

/-- `pclr` (R212). -/
def execPclr (a : Reg) (k : BitVec 5) (x : Option (BitVec 24)) (s : State) : Out :=
  let i : Instr := .pclr a k x
  issueLane i ([pair a] ++ opX x) [(7, !s.g.priv)] s
    (s.access ⟨.clear, false, false, true, false⟩ (s.g.unitReqs a 128 (memK k x) x) (fun s _ => s) fun s' accs =>
        done i ((accs.flatMap (·.ps)).foldl (fun s p => if p.x.home = 4 then s else s.clearLine p.x.ga) s'))

end Sys2Proof.Machine
end

