-- ==== Sys2Proof/Machine/Stems.lean ====
section
/-! DEFINITION. Stems and spawn (R247 to R260): `freeze`, `stemend`, `spawn`, `spawnf`, the start of inflections, and the
bin timer. -/

namespace Sys2Proof.Machine

/-! ### Groups that start (R22, R23, R35, R355) -/

/-- What a group starts with: its place and its role, its budget, the item indices of v1. -/
structure Start where
  tid : Nat
  gidx : Nat
  dk : Nat
  core : Nat
  part : Nat
  slot : Nat
  role : Nat
  ridx : Nat
  budget : Nat
  asn : Nat
  heap : Heap
  v1 : Lanes
  args : DWord
  deriving DecidableEq, Repr

/-- Launch registers: v1 the item indices, v2:v3 the argument pointer (R23). -/
def startRegs (v1 : Lanes) (args : DWord) : Vector Lanes 128 :=
  (((Vector.replicate 128 zeroLanes).set 1 v1).set 2 (Lanes.uni (args.extractLsb' 0 32))).set 3
    (Lanes.uni (args.extractLsb' 32 32))

/-- A group that starts without a stem (R22, R29, R31): it holds no row until a write needs one. -/
def Start.group (a : Start) (pc : BitVec 56) : Group :=
  { supervisorGroup 0 0 0 with
    tid := a.tid, gidx := a.gidx, dk := a.dk, core := a.core, part := a.part, slot := a.slot, role := a.role, ridx := a.ridx,
    priv := false, pc := pc, regs := startRegs a.v1 a.args, budget := a.budget, heap := a.heap, asn := a.asn }

/-- A group that starts as an inflection of stem `n` (R35, R36): the stem's rows are shared, but for v1; no row of its own is
taken before a write needs one (R353). -/
def Start.inflection (a : Start) (n : Nat) (st : Stem) : Group :=
  { a.group st.pc with
    regs := st.regs.set 1 a.v1, shared := dropReg 1 st.rows, share := n,
    targets := st.targets.map fun b => { b with buf := [] }, exec := st.exec, live := st.live, mscl := st.mscl,
    stem := n, depth := st.depth, image := st.image }

/-- A group of a dispatched team that starts as an inflection: v2:v3 are ARGS of its launch (R355). DEDUCED: log entry 68. -/
def Start.member (a : Start) (n : Nat) (st : Stem) : Group :=
  let g := a.inflection n st
  { g with
    regs := (g.regs.set 2 (Lanes.uni (a.args.extractLsb' 0 32))).set 3 (Lanes.uni (a.args.extractLsb' 32 32))
    shared := dropReg 2 (dropReg 3 g.shared) }

/-! ### Core memory of a core (R356, R358) -/

/-- Start and end of a core's team area (R356). -/
def State.teamArea (s : State) (dk : Nat) : Nat × Nat :=
  let w := (s.dev dk 0x041C).toNat
  (4096 * (if w % 256 = 0 then 1 else w % 256), 2 ^ 20 - 65536 * bits w 12 8)

/-- The first place in a core's team area for `n` bytes, beside the teams and the resident template images. DESIGN CHOICE: log
entry 41. -/
def State.freeBase (s : State) (dk core n : Nat) : Option Nat :=
  let area := s.teamArea dk
  let used := ((s.teams.filter fun t => t.2.dk = dk && t.2.core = core && t.2.status == .resident && decide (0 < t.2.bytes) &&
    t.2.kind != .supervisor).map fun t => (t.2.base, t.2.bytes)) ++ (s.core (coreKey dk core)).images.map (·.2)
  (area.1 :: used.map fun u => u.1 + u.2).find? fun b =>
    decide (area.1 ≤ b) && decide (b + n ≤ area.2) &&
    used.all fun u => decide (b + n ≤ u.1) || decide (u.1 + u.2 ≤ b)

/-- The allocation at `base` made zero and empty (R33). -/
def State.clearCore (s : State) (dk core base n : Nat) : State :=
  let a := coreAddr dk core base
  { s with mem := s.mem.filter fun c => !(decide (a ≤ c.1) && decide (c.1 < a + n)),
           full := s.full.filter fun c => !(decide (a / 16 ≤ c.1) && decide (c.1 < (a + n) / 16)),
           bad := s.bad.filter fun c => !(decide (a / 16 ≤ c.1) && decide (c.1 < (a + n) / 16))
           fills := s.fills.filter fun g => !(decide (a / 16 ≤ g) && decide (g < (a + n) / 16))
           rels := s.rels.filter fun c => !(decide (a ≤ c.1) && decide (c.1 < a + n)) }

/-- The granules of a template image written and set full in the allocation at `base` (R254). An image holds no mark of
uncorrectable data. DESIGN CHOICE: log entry 65. -/
def State.install (s : State) (base : Nat) (image : List (Nat × List Byte)) : State :=
  image.foldl (fun s p => ((((s.setBytes (base + 16 * p.1) p.2).tagWrite (base + 16 * p.1) 16 []).setFull (base / 16 + p.1)
    true).setBad (base / 16 + p.1) false)) s

/-- The 256-byte blocks of a template image that hold a granule of it (R36). -/
def imageBlocks (image : List (Nat × List Byte)) : List Nat := (image.map fun p => p.1 / 16).eraseDups

/-- Bytes of a resident copy of a template image (R358). DESIGN CHOICE: log entry 66. -/
def imageLen (image : List (Nat × List Byte)) : Nat := 256 * (imageBlocks image).length

/-- Residencies of template images on a core that no team uses any longer are dropped, but for that of stem `keep` (R358). -/
def State.dropImages (s : State) (dk core keep : Nat) : State :=
  let used := (s.teams.filter fun t => t.2.dk = dk && t.2.core = core && t.2.status == .resident && !t.2.blocks.isEmpty).filterMap
    fun t => t.2.img
  let c := s.core (coreKey dk core)
  s.setCore (coreKey dk core) { c with images := c.images.filter fun m => m.1 == keep || used.contains m.1 }

/-- A place for `n` bytes in a core's team area; residencies that nothing uses give way where their space is wanted. -/
def State.roomFor (s : State) (dk core n keep : Nat) : Option (State × Nat) :=
  match s.freeBase dk core n with
  | some b => some (s, b)
  | none =>
    let s := s.dropImages dk core keep
    (s.freeBase dk core n).map fun b => (s, b)

/-- The resident copy of the template image of stem `n` on a core, made when there is none (R358). -/
def State.giveImage (s : State) (dk core n : Nat) (image : List (Nat × List Byte)) : Option State :=
  if (Store.find n (s.core (coreKey dk core)).images).isSome then some s
  else
    (s.roomFor dk core (imageLen image) n).map fun (r : State × Nat) =>
      let s := r.1.clearCore dk core r.2 (imageLen image)
      let s := (imageBlocks image).zipIdx.foldl (fun s p =>
        s.install (coreAddr dk core (r.2 + 256 * p.2)) ((image.filter fun q => q.1 / 16 = p.1).map fun q => (q.1 % 16, q.2))) s
      let c := s.core (coreKey dk core)
      s.setCore (coreKey dk core) { c with images := Store.ins n (r.2, imageLen image) c.images }

/-- Block `b` of the core memory at `base` is that of the image: its other granules are zero and empty (R36). -/
def State.imageBlock (s : State) (base : Nat) (image : List (Nat × List Byte)) (b : Nat) : Bool :=
  (List.range 16).all fun j =>
    let g := 16 * b + j
    (Store.find g image).isSome || (s.bytes (base + 16 * g) 16 == List.replicate 16 0 && !s.isFull (base / 16 + g))

/-- The team placed as `tid` shares the blocks of the template image of its stem with the core's resident copy (R36, R358); none
where the residency cannot be given there yet (R353). A team whose core memory leaves no room for a copy beside it on any core
has the blocks as its own from the start. DESIGN CHOICE: log entry 66. -/
def State.shareImage (s : State) (tid n : Nat) (image : List (Nat × List Byte)) : Option State :=
  let t := s.team tid
  let area := s.teamArea t.dk
  if image.isEmpty then some s
  else if area.2 - area.1 < t.bytes + imageLen image then some (s.setTeam tid { t with img := none, blocks := [] })
  else (s.giveImage t.dk t.core n image).map fun s =>
    s.setTeam tid { t with img := some n, blocks := (imageBlocks image).filter (s.imageBlock (s.teamBase t) image) }

/-! ### freeze (R249 to R254) -/

/-- The lowest stem number that is free on a die. -/
def State.freeStem (s : State) (dk : Nat) : Option Nat := (List.range 64).find? fun n => (s.stemAt dk n).isNone

/-- The next generation of a stem number: 0 is skipped (R247). -/
def nextGen (g : BitVec 14) : BitVec 14 := if g + 1 = 0 then 1 else g + 1

/-- The stem that the group in hand makes (R34): bounds of its kernel, rows with its width table. -/
def State.stemHere (s : State) (pc : BitVec 56) : Stem :=
  let g := s.g
  { isOpen := true, depth := g.depth + 1, regs := g.regs, rows := g.shared ++ g.rows, targets := g.targets, exec := g.exec,
    live := g.live, mscl := g.mscl, image := g.image, pc := pc, budget := g.budget, bytes := s.kernelBytes,
    lk := s.myTeam.lk }

/-- Stem number `n` of the die allocated: its generation advances, its frame is taken (R247, R358). -/
def State.allocStem (s : State) (n : Nat) : State :=
  let dk := s.g.dk
  let d := s.die dk
  (s.setDie dk { d with gens := Store.put (fun _ => 1#14) n (nextGen (s.stemGen dk n)) d.gens }).poolTake dk (stemFrame n) frameBytes

/-- Item indices of a grid group: 128 × group index + lane (R23). -/
def gridItems (gidx : Nat) : Lanes := Lanes.tab fun i => BitVec.ofNat 32 (128 * gidx + i.val)

/-- The heap registers of a launch's groups (Table 10-3), and its ARGS. -/
def Launch.heap (l : Launch) : Heap :=
  ⟨BitVec.ofNat 64 (pkt l.packet 0x40 8) &&& 0x00FFFFFFFFFF0000, BitVec.ofNat 64 (pkt l.packet 0x48 8) &&& 0x00FFFFFFFFFF0000,
   BitVec.ofNat 64 (pkt l.packet 0x50 8) &&& 0xFFFFFFFFFFFF0000, BitVec.ofNat 64 (pkt l.packet 0x58 8) &&& 0x003FFFFFFFFFF1FF⟩
def Launch.args (l : Launch) : DWord := BitVec.ofNat 64 (pkt l.packet 0x08 8)

/-- The start of a group of the team as an inflection of its team-level stem. -/
def State.startMember (s : State) (tid n : Nat) (st : Stem) (j : Nat) : State :=
  let t := s.team tid
  let g := s.group (16 * tid + j)
  let l := Store.find t.lk s.launches
  let a : Start := ⟨tid, j, g.dk, g.core, g.part, g.slot, g.role, g.ridx, ((t.roles[g.role]?).map (·.2)).getD g.budget, g.asn,
    (l.map Launch.heap).getD g.heap, gridItems j, (l.map Launch.args).getD 0⟩
  (s.unsync (coreKey g.dk g.core) g.key).setGroup g.key (a.member n st)

/-- The ending form, once the stem `n` stands: the group ends, its rows pass to the stem; the prologue of a grid makes the grid
stem (R253), the prologue of a team makes the team stem, its image is installed and made resident, and every group of the team
starts (R254, R358); none where the core has no room for the image yet. A supervisor group never ends (R149): it continues.
DEDUCED: log entry 14. -/
def State.frozen (s : State) (i : Instr) (n : Nat) (st : Stem) : Option State :=
  let t := s.myTeam
  if s.g.priv then some (s.advance i)
  else if t.prologue ∧ s.g.gidx = 0 then
    let tid := s.g.tid
    let s := s.emit 6 []
    let s := s.setTeam tid { t with prologue := false, tstem := some n }
    ((s.install (s.teamBase t) st.image).shareImage tid n st.image).map fun s =>
      (List.range t.size).foldl (fun s j => s.startMember tid n st j) s
  else
    let s := match t.kind with
      | .prologue => s.launchUpdate t.lk fun l => if l.stem.isNone then { l with stem := some n } else l
      | _ => s
    let s := s.emit 6 []
    some { s with g := { s.g with status := .ending, wait := .none, rows := [], shared := [] } }

/-- What both forms wait for and check, then `k` with the stem's number (R249, R250, R358); the release of R252 finds every earlier
access performed. `row` says whether the row of D's value can be had: without it the register copy fault, the lower code, is the
one reported (R46). -/
def freezeOn (s : State) (row : Bool) (k : State → Nat → Out) : Out :=
  drainAll .freezing s fun s =>
    if s.g.depth = 3 then (if row then takeTrap (plainTrap 7 3) s else rowFault s)
     else
      match s.freeStem s.g.dk with
      | some n => if s.poolRoom s.g.dk frameBytes then k s n else waitFor .room s
      | none => waitFor .room s

/-- The outcome `t`, where there is one and the partitions of the core hold its rows with the new stem's residency (R19, R358); else
the group waits at the boundary. DEDUCED: log entry 67. -/
def State.rowsOr (s : State) (t : Option State) : Out :=
  match t with
  | some t => if t.rowsOk s.g.dk s.g.core then .next t else waitFor .room s
  | none => waitFor .room s

/-- `freeze` (R249). -/
def execFreeze (s : State) : Out :=
  issue .freeze [] [] s
    (freezeOn s true fun s n =>
      let s' := s.allocStem n
      let st := s'.stemHere (s'.g.pc + 4)
      s.rowsOr ((s'.setStem s.g.dk n st).frozen .freeze n st))

/-- `freeze.keep` (R249, R251): the handle is written first; the group shares its rows with the stem. -/
def execFreezeKeep (d : Reg) (s : State) : Out :=
  let i : Instr := .freezeKeep d
  issue i [one d] [] s
    (freezeOn s (s.putRegs [(d.toNat, Lanes.uni 1#32)]).isSome fun s n =>
      let s' := s.allocStem n
      match s'.putRegs [(d.toNat, Lanes.uni (s'.stemHandle s.g.dk n))] with
      | some s' =>
        let st := s'.stemHere (s'.g.pc + 4)
        let s' := s'.setStem s.g.dk n st
        s.rowsOr (some ({ s' with g := { s'.g with rows := [], shared := st.rows, share := n } }.advance i))
      | none => rowFault s)

/-! ### stemend (R255) -/

/-- `stemend`. -/
def execStemend (a : Reg) (s : State) : Out :=
  let i : Instr := .stemend a
  issue i [one a] [] s
    (match s.stemOf s.g.dk (s.g.u a.toNat) with
     | some n => done i (s.endStem s.g.dk n)
     | none => done i s)

/-! ### spawn (R256 to R260) -/

/-- The open stem that a lane spawns into. -/
def State.spawnStem (s : State) (e : Option (Fin 128 → Word)) (i : Fin 128) : Option Nat :=
  let n := match e with
    | some h => s.stemOf s.g.dk (h i)
    | none => if s.g.depth = 0 then none else some s.g.stem
  match n with
  | some n => if ((s.stemAt s.g.dk n).map (·.isOpen)).getD false then some n else none
  | none => none

/-- One item appended to the bin of its key, with the release of its spawn (R260); a full bin launches at once (R258). -/
def State.binAdd (s : State) (dk stem : Nat) (t : BitVec 54) (r : Rel) (x : Word) : State :=
  let d := s.die dk
  let d := if d.bins.any fun b => b.stem = stem && b.target == t then d
    else { d with bins := d.bins ++ [⟨stem, t, [], s.cycle, []⟩] }
  let s := s.setDie dk { d with bins := d.bins.map fun b =>
    if b.stem = stem ∧ b.target = t then { b with items := b.items ++ [x], tags := latest r b.tags } else b }
  s.launchBins dk fun b => b.stem = stem && b.target == t && b.items.length == 128

/-- A spawn of the items `x`, into the stems that `e` names or into the group's own. -/
def execSpawnOn (i : Instr) (ops : List Opnd) (n : BitVec 3) (x : Fin 128 → Word) (e : Option (Fin 128 → Word))
    (s : State) : Out :=
  issue i ops [] s
    (let t := s.g.target n
     let dk := s.g.dk
     if !t.v then takeTrap (plainTrap 2 1) s
     else
      let ls := (lanesIn s.g.exec).map fun l => (l, s.spawnStem e l)
      match ls.find? fun p => p.2.isNone with
      | some p => takeTrap { plainTrap 7 2 with lane := some p.1.val } s
      | none =>
        let keys := (ls.filterMap (·.2)).eraseDups
        let new := keys.filter fun k => !((s.die dk).bins.any fun b => b.stem = k && b.target == t.addr)
        if 256 < (s.die dk).bins.length + new.length then waitFor .room s
        else
          done i (keys.foldl (fun s k =>
            (ls.filter fun p => p.2 = some k).foldl (fun s p => s.binAdd dk k t.addr (s.g.release 2) (x p.1)) s) s))

/-- `spawn` (R256). -/
def execSpawn (n : BitVec 3) (c : Reg) (s : State) : Out :=
  execSpawnOn (.spawn n c) [one c] n (fun l => (s.g.rd c.toNat)[l]) none s

/-- `spawnf` (R256). -/
def execSpawnf (n : BitVec 3) (c : Reg) (s : State) : Out :=
  execSpawnOn (.spawnf n c) [pair c] n (fun l => (s.g.rd c.toNat)[l]) (some fun l => (s.g.rd (c.toNat + 1))[l]) s

/-- The period of a bin's timer: BINTIMER of the launch that made its stem, 0 meaning 3000 (R360, Table 11-1). -/
def State.binPeriod (s : State) (dk : Nat) (b : Bin) : Nat :=
  let n := (((s.stemAt dk b.stem).bind fun st => Store.find st.lk s.launches).map fun l =>
    bits (natLE (slice l.packet 0x60 4)) 23 0).getD 0
  if n = 0 then 3000 else n

/-- A bin put in its place among others by the cycle in which it is due. -/
def insertDue (d : Nat) (b : Bin) : List (Nat × Bin) → List (Nat × Bin)
  | [] => [(d, b)]
  | e :: t => if d < e.1 then (d, b) :: e :: t else e :: insertDue d b t

/-- The bins of a die whose timers have reached their periods, in the order in which they did. -/
def State.dueBins (s : State) (dk : Nat) : List (Nat × Bin) :=
  ((s.die dk).bins.filter fun b => decide (s.binPeriod dk b ≤ s.cycle - b.since)).foldl
    (fun l b => insertDue (b.since + s.binPeriod dk b) b l) []

/-- A bin whose timer reaches its period launches in that cycle, with the items it holds (R360). -/
def State.expireBins (s : State) (dk : Nat) : State :=
  if (s.die dk).bins.isEmpty then s
  else (s.dueBins dk).foldl (fun s b => s.launchBins dk fun x => x.stem = b.2.stem && x.target == b.2.target) s

/-- The timers of every die, as cycles pass. -/
def State.binTimers (s : State) : State := s.dies.foldl (fun s d => s.expireBins d.1) s

/-- BIN_TIMER_EXPIRY (R360): the bins of a die that are due launch. -/
def execBinTimerExpiry (s : State) : Out := .next (s.expireBins s.arg.key)

end Sys2Proof.Machine
end

