-- ==== Sys2Proof/Machine/Launch.lean ====
section
/-! DEFINITION. Launches (R348 to R355, R359, R369 to R371): the packet and its checks, `launch`, the dispatch of teams, grid
prologues and bin groups, failure, completion, and the end of a group. -/

namespace Sys2Proof.Machine

/-! ### Accesses at user privilege in an address space -/

/-- What an access of the scheduler or of the parser comes to. -/
inductive AccRes where
  | ok (ps : List Piece)
  | bad (cls code va : Nat)
  | ask (key : Nat)
  | wait
  deriving DecidableEq, Repr

/-- Steps of R338 without the heap window, at user privilege, with the checks of a load or store; `fail` is a page that the
host refused, with its class 12 code. -/
def State.plainAccess (s : State) (dk asn p n : Nat) (k : Kind) (fail : Option (Nat × Nat)) : AccRes :=
  let c : Ctx := ⟨dk, asn, false, Heap.zero, false⟩
  match s.xlat c p n k, fail.bind fun f => (s.refusedAt c p n k f.1).map fun va => (va, f.2) with
  | .bad cls code va _, _ => .bad cls code va
  | _, some (va, code) => .bad 12 code va
  | .ats key, none => .ask key
  | .ok ps, none =>
    match s.engPieces dk (bits p 63 60) k n ps with
    | .ok _ =>
      match if k.writes then s.engPoison ps else none with
      | some va => .bad 4 1 va
      | none => .ok ps
    | .bad 2 code va => .bad 3 code va
    | .bad _ code va => .bad 4 code va
    | _ => .wait

/-- Bytes read by such an access. -/
def State.plainRead (s : State) (dk : Nat) (ps : List Piece) : List Byte :=
  ps.flatMap fun p => s.readAt dk p.x.home p.x.ga p.len

/-- Bytes written by such an access: the walker's marks, the recall of copies, the bytes. -/
def State.plainWrite (s : State) (dk : Nat) (ps : List Piece) (bs : List Byte) : State :=
  let s := s.mark ps
  let s := ps.foldl (fun s p => s.engLines true p.x.home p.x.ga p.len) s
  s.engWrite dk (ps.map fun p => (p.x.home, p.x.ga, p.len)) bs

/-! ### The checks of Table 11-2 -/

/-- The reserved bits of a launch packet: reason 1. -/
def pktReason1 (b : List Byte) : Bool :=
  bits (pkt b 0x10 8) 63 48 != 0 || pkt b 0x18 4 == 0 || bits (pkt b 0x1C 4) 31 24 != 0 || bits (pkt b 0x20 4) 31 12 != 0 ||
  bits (pkt b 0x60 4) 31 24 != 0 || pkt b 0x64 28 != 0

/-- The named dies: reason 4. -/
def State.pktReason4 (s : State) (dk : Nat) (b : List Byte) : Bool :=
  let w := pkt b 0x1C 4
  let ps := (List.range (bits w 23 14 + 1)).map (· + bits w 13 4)
  bits w 3 0 == 0 || decide (1023 < bits w 13 4 + bits w 23 14) ||
  ps.any (fun p => (s.cellOf dk p).isNone) ||
  (!(s.dev dk 0x0800).getLsbD 31 && ps.any (· != 0))

/-- The addresses of the record and of the signal: reason 8. -/
def pktReason8 (b : List Byte) : Bool := pkt b 0x28 8 % 32 != 0 || pkt b 0x30 8 % 4 != 0

/-- The heap: reason 6. -/
def pktReason6 (b : List Byte) : Bool :=
  let at_ := pkt b 0x58 8
  at_ % 2 == 1 && (bits at_ 11 9 != 0 || bits at_ 63 54 != 0 || decide (pkt b 0x48 8 ≤ pkt b 0x40 8) || decide (8 ≤ bits at_ 6 3))

/-- The address space: reason 5. -/
def State.pktReason5 (s : State) (dk : Nat) (b : List Byte) : Bool :=
  let asn := bits (pkt b 0x20 4) 11 0
  let at_ := bits (s.dev dk 0x0000).toNat 53 16 * 65536 + 16 * asn
  decide (bits (s.dev dk 0x0008).toNat 12 0 ≤ asn) || s.rdN at_ 1 % 2 == 0

/-- The kernel descriptor's reserved bits: reason 2. -/
def descReason2 (d : List Byte) : Bool :=
  bits (pkt d 0x0C 4) 31 3 != 0 || bits (pkt d 0x20 8) 63 48 != 0 || bits (pkt d 0x28 4) 31 8 != 0 || pkt d 0x30 16 != 0 ||
  (List.range 4).any fun r => bits (pkt d (0x10 + 4 * r) 4) 7 5 != 0 || bits (pkt d (0x10 + 4 * r) 4) 31 16 != 0

/-- Roles declared by a descriptor: group count and budget, absent ones included. -/
def descRoles (d : List Byte) : List (Nat × Nat) :=
  (List.range 4).map fun r => (bits (pkt d (0x10 + 4 * r) 4) 4 0, bits (pkt d (0x10 + 4 * r) 4) 15 8)

/-- Roles and core memory: reason 3. -/
def State.descReason3 (s : State) (dk : Nat) (d : List Byte) : Bool :=
  let rs := descRoles d
  let present := rs.takeWhile fun r => r.1 != 0
  let area := s.teamArea dk
  present.isEmpty || (rs.drop present.length).any (fun r => r.1 != 0 || r.2 != 0) ||
  present.any (fun r => decide (r.2 < 32) || decide (128 < r.2) || r.2 % 8 != 0) ||
  decide (16 < (present.map (·.1)).sum) || pkt d 0x08 4 % 256 != 0 || decide (area.2 - area.1 < pkt d 0x08 4)

/-- The cores of the rectangle at the packet's origin for the die; none when any good core will do (R353, R82). -/
def rectCores (rect : Nat × Nat) (org : Nat) : Option (List Nat) :=
  if org.testBit 7 then
    some ((List.range rect.1).flatMap fun i => (List.range rect.2).map fun j =>
      12 * ((bits org 6 4 + i) % 8) + (bits org 3 0 + j) % 12)
  else none

/-- RECT of a descriptor as counts. -/
def descRect (d : List Byte) : Nat × Nat := (bits (pkt d 0x28 4) 3 0 + 1, bits (pkt d 0x28 4) 7 4 + 1)

/-- The placement: reason 7. -/
def State.descReason7 (s : State) (dk : Nat) (b d : List Byte) : Bool :=
  let org := pkt b (0x24 + dk % 4) 1
  match rectCores (descRect d) org with
  | some cs => decide (11 < bits org 3 0) || cs.any (s.coreBad dk)
  | none => (pkt d 0x0C 4).testBit 2

/-- The verdict on a packet. -/
inductive Verdict where
  | take (desc : List Byte)
  | refuse (reason : Nat)
  | ask (key : Nat)
  | wait
  deriving DecidableEq, Repr

/-- Table 11-2 in the order 1, 4, 8, 6, 5, 2, 3, 7 (R350). -/
def State.verdict (s : State) (dk : Nat) (b : List Byte) (fail : Option (Nat × Nat)) : Verdict :=
  if pktReason1 b then .refuse 1
  else if s.pktReason4 dk b then .refuse 4
  else if pktReason8 b then .refuse 8
  else if pktReason6 b then .refuse 6
  else if s.pktReason5 dk b then .refuse 5
  else if pkt b 0 8 % 64 ≠ 0 then .refuse 2
  else
    match s.plainAccess dk (bits (pkt b 0x20 4) 11 0) (pkt b 0 8) 64 .read fail with
    | .bad _ _ _ => .refuse 2
    | .ask key => .ask key
    | .wait => .wait
    | .ok ps =>
      let d := s.plainRead dk ps
      if descReason2 d then .refuse 2
      else if s.descReason3 dk d then .refuse 3
      else if s.descReason7 dk b d then .refuse 7
      else .take d

/-! ### Taking a share (R351) -/

/-- The executing die as the packet numbers it: a package whose identity is not set reads as 0 (R402). -/
def State.pktSelf (s : State) (dk : Nat) : Nat := 4 * (s.galId dk).1 + dk % 4

/-- The die that the packet means by a number. -/
def State.pktDie (s : State) (dk n : Nat) : Nat := if n / 4 = (s.galId dk).1 then dk / 4 * 4 + n % 4 else n

/-- The home die of a packet for the executing die; a packet that names no die has the executing one (R261). -/
def State.pktHome (s : State) (dk : Nat) (b : List Byte) : Nat :=
  match pktDies b with
  | [] => dk
  | n :: _ => s.pktDie dk n

/-- The packet as its dies see it: the package numbers of the gallery. -/
def State.pktFix (s : State) (dk : Nat) (b : List Byte) : List Byte :=
  if (s.dev dk 0x0800).getLsbD 31 then b
  else
    let w := pkt b 0x1C 4
    slice b 0 0x1C ++ bytesLE (w - bits w 13 4 * 16 + (dk / 4) * 16) 4 ++ b.drop 0x20

/-- The launch of an identity and home die that is active on a die. -/
def State.activeLaunch (s : State) (dk : Nat) (lid : Word) (home : Nat) : Option (Nat × Launch) :=
  s.launches.find? fun l => l.2.dk = dk && l.2.lid == lid && l.2.home / 4 == home / 4

/-- The home die has the packet, from the supervisor of a core: the reports that it held may be looked at. -/
def State.homeTakes (s : State) (dk core : Nat) (lid : Word) (home : Nat) (b : List Byte) : State :=
  if dk = home then s.homeUpdate home lid fun h => { h with taken := true, packet := b, core := core } else s

/-- The named dies of a launch whose cells are dead on the home die (R369). -/
def State.deadDies (s : State) (home : Nat) (b : List Byte) : List Nat :=
  (pktDies b).filter fun n =>
    match s.cellOf home (n / 4) with
    | some c => (s.dev home 0x0808).getLsbD c
    | none => false

/-- A named package lies in a cell that is dead on the home die: the launch fails (R369, R370). -/
def State.deadCheck (s : State) (dk : Nat) (lid : Word) : State :=
  match s.homeFind dk lid with
  | some (_, h) =>
    match s.deadDies dk h.packet with
    | n :: _ =>
      if h.taken ∧ h.fail.isNone then
        { s with reports := s.reports ++ [⟨dk, lid, dk,
          some ⟨1, 0, 4, 5, BitVec.ofNat 32 (n % 4 * 2 ^ 13 + n / 4 % 1024 * 2 ^ 15 + 3 * 2 ^ 25), 0⟩⟩] }
      else s
    | [] => s
  | none => s

/-- The die takes no share: its teams count as retired and it is quiescent (R370). DEDUCED: log entry 13. -/
def State.noShare (s : State) (dk : Nat) (lid : Word) (home : Nat) (b : List Byte) : State :=
  let r := pktRank b dk
  s.homeUpdate home lid fun h => { h with
    retired := h.retired + (if r.2 < r.1 then shareSize (gridSize b) r.1 r.2 else 0), quiet := h.quiet ++ [dk] }

/-- The die takes its share. Of the descriptor's ENTRY bits [55:2] are the address. DESIGN CHOICE: log entry 64. -/
def State.takeShare (s : State) (dk : Nat) (lid : Word) (home : Nat) (b d : List Byte) : State :=
  let flags := pkt d 0x0C 4
  let l : Launch := {
    dk := dk, lid := lid, home := home, packet := b, entry := BitVec.ofNat 56 (pkt d 0 8) &&& ~~~3#56,
    gridStem := flags.testBit 0, teamStem := flags.testBit 1, bytes := pkt d 0x08 4,
    roles := (descRoles d).filter fun r => r.1 != 0, rect := descRect d, next := 0,
    pro := if flags.testBit 0 then 1 else 0, stem := none, binq := [], swapq := [], swapTurn := false, ended := false,
    quiet := false, charge := 0, total := 0 }
  let lk := s.fresh
  let e := s.die dk
  let s := { s with fresh := s.fresh + 1, launches := Store.ins lk l s.launches }
  ((s.setDie dk { e with launches := e.launches ++ [lk] }).quiesce lk).deadCheck dk lid

/-- The die has taken no share of a launch that has not completed: it refused the packet, or acted on a notice it had kept
(R351, R370). -/
def State.shareless (s : State) (dk : Nat) (lid : Word) (home : Nat) : Bool :=
  match s.homeFind home lid with
  | some (_, h) => h.quiet.contains dk
  | none => false

/-- What a launch of a packet comes to: it has had its effect, or waits for a page of the host, for the descriptor's line, or for room
among the active launches. -/
inductive Launching where
  | done (s : State)
  | ask (key : Nat)
  | line
  | full

/-- The die acts on a packet that its supervisor, or its parser, launches; `fail` is a page that the host refused. One that does not
name the die has no other effect (R261). A kept notice stays until the launch completes, and neither it nor a refusal is acted on
twice (R351). -/
def State.launchWith (s : State) (dk core : Nat) (raw : List Byte) (fail : Option (Nat × Nat)) : Launching :=
  let b := s.pktFix dk raw
  let lid := BitVec.ofNat 32 (pkt b 0x18 4)
  let home := s.pktHome dk raw
  let named := (pktDies raw).isEmpty || (pktDies raw).contains (s.pktSelf dk)
  if !named then .done s
  else if (s.activeLaunch dk lid home).isSome ∨ s.shareless dk lid home then .done s
  else if (s.die dk).notices.contains (lid, home) then
    .done ((s.homeTakes dk core lid home b).noShare dk lid home b)
  else if 32 ≤ (s.die dk).launches.length then .full
  else
    match s.verdict dk raw fail with
    | .take d => .done ((s.homeTakes dk core lid home b).takeShare dk lid home b d)
    | .refuse r =>
      let s := (s.homeTakes dk core lid home b).noShare dk lid home b
      .done { s with reports := s.reports ++ [⟨home, lid, dk, some ⟨2, r, 0, 0, s.unitWord dk 0 0 0 3, 0⟩⟩] }
    | .ask key => .ask key
    | .wait => .line

/-- `launch` (R261). -/
def execLaunch (a : Reg) (s : State) : Out :=
  let i : Instr := .launch a
  let p := (s.g.u64 a.toNat).toNat
  issue i [pair a] [(7, !s.g.priv)] s
    (s.access ⟨.read, true, true, true, true⟩ [⟨s.g.ulane, p, p, 128, if p % 128 = 0 then [] else [(3, 10)]⟩] (fun s _ => s)
      fun s' accs =>
        let r := s'.readLanes 1 6 accs
        let s' := r.1
        let b := r.2.flatMap (·.2)
        match s'.launchWith s.g.dk s.g.core b s.g.hostFail with
        | .done t => done i t
        | .ask key => .next (s'.askHost key)
        | .line => waitFor .owned s'
        | .full => waitFor .busy s')

/-! ### Placing a team (R353, R356) -/

/-- The places of a team's groups by role (R10): role, index in the role, partition. -/
def rolePlaces (roles : List (Nat × Nat)) : List (Nat × Nat × Nat) :=
  roles.zipIdx.flatMap fun r => (List.range r.1.1).map fun j => (r.2, j, j % 4)

/-- Groups in frames whose page has been supplied: they take the next free slots of their partition before any dispatch
(R367). -/
def State.returnersAt (s : State) (dk core part : Nat) : List Group :=
  s.allGroups.filter fun g => g.dk = dk && g.core = core && g.part = part && g.status == .returning &&
    (s.team g.tid).status == .resident

/-- Free slots of a partition for a dispatch, ascending; none where it is OFF (R51). -/
def State.freeSlots (s : State) (dk core part : Nat) : List Nat :=
  if s.partOff dk core part then []
  else
    let used := (s.partGroups dk core part).map fun g => g.slot
    ((List.range 16).filter fun n => !used.contains n && !(part == 0 && n == 0)).drop (s.returnersAt dk core part).length

/-- A slot for each place, in order; none when one is missing. -/
def State.slotsFor (s : State) (dk core : Nat) (ps : List (Nat × Nat × Nat)) : Option (List Nat) :=
  ps.zipIdx.foldr (fun p r =>
    match r with
    | none => none
    | some l =>
      let before := ((ps.take p.2).filter fun q => q.2.2 = p.1.2.2).length
      match (s.freeSlots dk core p.1.2.2)[before]? with
      | some n => some (n :: l)
      | none => none) (some [])

/-- The core takes dispatches: good, running, not withheld, not under test, with no team held by a team stop (R51, R50, R446,
R448, R460). -/
def State.coreTakes (s : State) (dk core : Nat) : Bool :=
  !(s.die dk).badUnits.contains core && !s.underTest dk core &&
  !(s.teams.any fun t => t.2.dk = dk && t.2.core = core && t.2.held && t.2.status == .resident) &&
  decide (core < 96) && !s.coreBad dk core && !(s.core (coreKey dk core)).stopped && !(s.core (coreKey dk core)).withheld &&
  !(s.die dk).inReset && !(s.pkg (dk / 4)).dead

/-- The core lies in the launch's rectangle, if it has one. -/
def Launch.coreOk (l : Launch) (core : Nat) : Bool :=
  match rectCores l.rect (pkt l.packet (0x24 + l.dk % 4) 1) with
  | some cs => cs.contains core
  | none => true

/-- Energy admission (R368). -/
def State.admitted (s : State) (lk : Nat) (l : Launch) : Bool :=
  let cap := pkt l.packet 0x3C 4
  cap == 0 || decide (l.charge < cap) || !(s.teams.any fun t => t.2.lk == lk && t.2.status == .resident)

/-- A team about to be placed. -/
structure Placement where
  lk : Nat
  core : Nat
  kind : TeamKind
  tidx : DWord
  roles : List (Nat × Nat)
  bytes : Nat
  /-- The item indices of v1 by group index. -/
  items : Nat → Lanes
  /-- The stem whose template image the team starts from. -/
  stem : Option (Nat × Stem)

/-- The image of the team's stem, if it has one, in its allocation (R33, R259) and shared with the core's resident copy. -/
def State.imageFor (s : State) (tid : Nat) (stem : Option (Nat × Stem)) : Option State :=
  match stem with
  | some (n, st) => (s.install (s.teamBase (s.team tid)) st.image).shareImage tid n st.image
  | none => some s

/-- A team placed on its core, where it can be (R353): slots, core memory, the residency of its stem, then each group as `mk`
starts it. -/
def State.place (s : State) (l : Launch) (p : Placement) (mk : Start → Group) : Option State :=
  let ps := rolePlaces p.roles
  match s.slotsFor l.dk p.core ps, s.roomFor l.dk p.core p.bytes ((p.stem.map (·.1)).getD 64) with
  | some slots, some (s, base) =>
    let tid := s.fresh
    let t : Team := { supervisorTeam 0 0 with
      kind := p.kind, dk := l.dk, core := p.core, lk := p.lk, tidx := p.tidx,
      gdim := if p.kind = .bin then 0 else BitVec.ofNat 64 (pkt l.packet 0x10 8),
      roles := p.roles, size := ps.length, base := base, bytes := p.bytes, since := s.cycle }
    let s := ({ s with fresh := s.fresh + 1 }.setTeam tid t).clearCore l.dk p.core base p.bytes
    (s.imageFor tid p.stem).bind fun s =>
      let s := (ps.zip slots).zipIdx.foldl (fun s q =>
        let role := q.1.1.1
        s.setGroup (16 * tid + q.2) (mk ⟨tid, q.2, l.dk, p.core, q.1.1.2.2, q.1.2, role, q.1.1.2.1,
          ((p.roles[role]?).map (·.2)).getD 32, bits (pkt l.packet 0x20 4) 11 0, l.heap, p.items q.2,
          BitVec.ofNat 64 (pkt l.packet 0x08 8)⟩)) s
      if s.rowsOk l.dk p.core then some s else none
  | _, _ => none

/-- The key that the next team receives. -/
def State.nextTeam (s : State) : Nat := s.fresh

/-- The largest budget among roles. -/
def maxBudget (roles : List (Nat × Nat)) : Nat := (roles.map (·.2)).foldl max 32

/-- A bin launch on a core (R259), after what the spawns released (R260), `taken` once it has left its queue; v1 holds nothing stated in the lanes without an item.
DESIGN CHOICE: log entry 6. -/
def State.startBin (s : State) (lk : Nat) (l : Launch) (core : Nat) (b : BinLaunch) (taken : State → State) : Option State :=
  match s.stemAt l.dk b.stem with
  | some st =>
    let items := Lanes.tab fun i => (b.items[i.val]?).getD ((Config.free 14 (128 * s.steps + i.val)).extractLsb' 0 32)
    let mask := BitVec.ofNat 128 (2 ^ b.items.length - 1)
    let mk := fun (a : Start) => { a.inflection b.stem st with pc := b.target ++ 0#2, exec := mask, live := mask }
    (s.place l ⟨lk, core, .bin, b.seq.zeroExtend 64, [(1, st.budget)], st.bytes, fun _ => items, some (b.stem, st)⟩ mk).map fun s =>
      (b.tags.foldl State.releaseTo (taken s)).reapStem l.dk b.stem
  | none => some (taken s)

/-- The head of the bin queue of a launch on a core (R259). -/
def State.dispatchBin (s : State) (lk : Nat) (l : Launch) (core : Nat) : Option State :=
  match l.binq with
  | b :: rest => s.startBin lk l core b fun s => s.launchUpdate lk fun l => { l with binq := rest }
  | [] => none

/-- In place of a launch, for the bin launches of a stem that no launch made (R259): address space 0 and no heap window, as the
supervisor group that made the stem has them. DEDUCED: log entry 69. -/
def noLaunch (dk : Nat) : Launch :=
  ⟨dk, 0, dk, [], 0, false, false, 0, [], (1, 1), 0, 0, none, [], [], false, false, false, 0, 0⟩

/-- The oldest bin launch of a stem that no launch made, on a core (R259). -/
def State.dispatchStray (s : State) (dk core : Nat) : Option State :=
  match (s.die dk).strays with
  | b :: rest => s.startBin 0 (noLaunch dk) core b fun s => s.setDie dk { s.die dk with strays := rest }
  | [] => none

/-- Coordinates of team `t` as CTX.TIDX holds them (R352). -/
def teamCoords (b : List Byte) (t : Nat) : DWord :=
  let e := pktGrid b
  BitVec.ofNat 64 (t % e.1 + t / e.1 % e.2.1 * 2 ^ 16 + t / e.1 / e.2.1 * 2 ^ 32)

/-- The head of the share on a core (R355, R254). -/
def State.dispatchShare (s : State) (lk : Nat) (l : Launch) (core : Nat) : Option State :=
  let r := pktRank l.packet l.dk
  let tid := s.nextTeam
  let st := l.stem.bind fun n => (s.stemAt l.dk n).map fun st => (n, st)
  let start := fun (a : Start) =>
    match st with
    | some (n, st) => a.member n st
    | none => a.group l.entry
  let mk := fun (a : Start) =>
    if l.teamStem then
      (if a.gidx = 0 then start { a with budget := maxBudget l.roles }
       else { a.group l.entry with status := .notStarted, rows := [] })
    else start a
  (s.place l ⟨lk, core, .grid, teamCoords l.packet (shareTeam r.1 r.2 l.next), l.roles, l.bytes, gridItems, st⟩ mk).map fun s =>
    let s := s.setTeam tid { s.team tid with prologue := l.teamStem }
    s.launchUpdate lk fun l => { l with next := l.next + 1, swapTurn := true }

/-- The launch has been served: the next one's turn (R354). DESIGN CHOICE: log entry 45. -/
def State.rotateLaunch (s : State) (dk lk : Nat) : State :=
  let d := s.die dk
  s.setDie dk { d with launches := d.launches.filter (· != lk) ++ (d.launches.filter (· == lk)) }

/-- The source of a launch's next dispatch (R354): 0 none, 1 bin queue, 2 swap queue, 3 share. -/
def Launch.source (l : Launch) : Nat :=
  let share := decide (l.next < l.share) && l.pro == 0 && (!l.gridStem || l.stem.isSome)
  if l.ended then 0
  else if !l.binq.isEmpty then 1
  else if !l.swapq.isEmpty ∧ (l.swapTurn ∨ !share) then 2
  else if share then 3
  else 0

/-- The swapped team that a team stop waits for (R460). -/
def State.stopWaits (s : State) (dk : Nat) : Option Nat :=
  let tid := (s.die dk).dbgTeam
  if s.dbgState dk = 1 ∧ (s.team tid).status = .swapped then some tid else none

/-- A restore for a team stop comes before a dispatch on the core (R460). -/
def State.stopFirst (s : State) (dk core : Nat) : Bool :=
  match s.stopWaits dk with
  | some tid => !(s.team tid).pinned || (s.team tid).core == core
  | none => false

/-- The prologue group of a launch's grid stem waits to be placed (R359). -/
def State.prologueWaits (s : State) (lk : Nat) (l : Launch) : Bool := l.pro == 1 && !l.ended && s.admitted lk l

/-- The prologue group of a grid stem placed on a core (R253, R359). -/
def State.placePrologue (s : State) (lk : Nat) (l : Launch) (core : Nat) : Option State :=
  (s.place l ⟨lk, core, .prologue, 0, [(1, maxBudget l.roles)], l.bytes, fun _ => laneNumbers, none⟩ fun a => a.group l.entry).map
    fun s => s.launchUpdate lk fun l => { l with pro := 2 }

def State.prologueDispatch (s : State) (dk core : Nat) : State :=
  if !s.coreTakes dk core ∨ s.stopFirst dk core then s
  else
    ((s.die dk).launches.findSome? fun lk =>
      (Store.find lk s.launches).bind fun l => if s.prologueWaits lk l then s.placePrologue lk l core else none).getD s

/-- GRID_PROLOGUE_DISPATCH (R359). -/
def execGridPrologueDispatch (s : State) : Out := .next (s.prologueDispatch s.arg.key s.arg.sub)

/-! ### The end of a group (R148) -/

/-- GROUP_END: the group that executed its last instruction frees its slot (R148, R369). -/
def execGroupEnd (s : State) : Out :=
  let k := s.arg.key
  .next (if (s.group k).status = .ending then s.endGroup k else s)

/-! ### Failure (R370) -/

/-- LAUNCH_FAILURE_REPORT: the report at place `sub` of those on their way arrives; the first fixes the record, and every named
die is to be told. -/
def execLaunchFailureReport (s : State) : Out :=
  .next (match s.reports[s.arg.sub]? with
    | some r =>
      if r.home ≠ s.arg.key then s
      else
        match s.homeFind r.home r.lid with
        | some (_, h) =>
          if !h.taken then s
          else
            let s := { s with reports := s.reports.eraseIdx s.arg.sub }
            if h.fail.isSome then s
            else s.homeUpdate r.home r.lid fun h => { h with fail := r.fail, notices := (pktDies h.packet) }
        | none => { s with reports := s.reports.eraseIdx s.arg.sub }
    | none => s)

/-- LAUNCH_END_NOTICE: a named die ends the launch, or keeps the notice until its supervisor launches the packet. -/
def execLaunchEndNotice (s : State) : Out :=
  let dk := s.arg.key
  let lid := BitVec.ofNat 32 s.arg.num
  .next (match s.homes.find? fun h => h.2.lid = lid && h.2.notices.contains dk with
    | some (_, h) =>
      let s := s.homeUpdate h.dk lid fun h => { h with notices := h.notices.filter (· != dk) }
      match s.activeLaunch dk lid h.dk with
      | some (lk, l) => if l.ended then s else s.endLaunch lk (l.share - l.next)
      | none =>
        if h.quiet.contains dk then s
        else
          let d := s.die dk
          s.setDie dk { d with notices := d.notices ++ [(lid, h.dk)] }
    | none => s)

/-! ### Completion (R369, R371) -/

/-- A message or a collective of the launch has still to complete (R369). -/
def State.launchBusy (s : State) (h : Home) : Bool :=
  let mine := (s.launches.filter fun l => l.2.home = h.dk && l.2.lid == h.lid).map (·.1)
  (s.msgs.any fun m => mine.contains m.2.lk && !m.2.sent) ||
  s.colls.any fun c => c.2.members.any fun m => mine.contains m.lk && !m.drained

/-- The launch is drained: all teams retired, every die that is awaited quiescent and with no bin or group of the launch since (R259),
no report or notice outstanding, and its work complete (a team retires with its copies complete, R148). -/
def State.drained (s : State) (h : Home) : Bool :=
  let named := pktDies h.packet
  let dead := s.deadDies h.dk h.packet
  h.taken && h.notices.all (dead.contains ·) && (named.filter fun n => !dead.contains n).all (h.quiet.contains ·) &&
  (!dead.isEmpty || named.isEmpty || h.retired == gridSize h.packet) &&
  (dead.isEmpty || h.fail.isSome) &&
  !(s.reports.any fun r => r.home == h.dk && r.lid == h.lid) && !s.launchBusy h &&
  (s.launches.filter fun l => l.2.home == h.dk && l.2.lid == h.lid && !dead.contains (4 * (s.galId l.2.dk).1 + l.2.dk % 4)).all
    fun l => s.restful l.1 l.2

/-- The completion record (Table 11-5). -/
def recordOf (h : Home) : List Byte :=
  let f := h.fail.getD ⟨0, 0, 0, 0, 0, 0⟩
  bytesLE (f.kind + f.reason * 256) 4 ++ bytesLE (f.cls + f.code * 16) 4 ++ bytesLE f.unit.toNat 4 ++ bytesLE h.lid.toNat 4 ++
  bytesLE f.addr.toNat 8 ++ bytesLE (h.exited % 2 ^ 48) 8

/-- The runs of a die that wait for a launch learn how it ended (R373). -/
def State.tellRuns (s : State) (dk : Nat) (lid : Word) (res : Bool × Nat × Nat) : State :=
  let d := s.die dk
  s.setDie dk { d with runs := d.runs.map fun r =>
    if r.phase = 1 ∧ r.on = lid.toNat ∧ r.ended.isNone then { r with ended := some res } else r }

/-- The launch is no longer active on any die; stems that it made and that are open end (R248). -/
def State.closeLaunch (s : State) (home : Nat) (lid : Word) : State :=
  let mine := (s.launches.filter fun l => l.2.home = home && l.2.lid == lid).map fun l => (l.1, l.2.dk)
  let s := mine.foldl (fun s m =>
    let d := s.die m.2
    let stems := (d.stems.filter fun p => p.2.lk = m.1).map (·.1)
    let s := s.setDie m.2 { d with launches := d.launches.filter (· != m.1) }
    let s := { s with msgs := s.msgs.filter fun x => x.2.lk != m.1 }
    stems.foldl (fun s n => s.endStem m.2 n) s) s
  { s with launches := s.launches.filter fun l => !(l.2.home = home && l.2.lid == lid),
           homes := s.homes.filter fun h => !(h.2.dk = home && h.2.lid == lid),
           dies := s.dies.map fun (d : Nat × Die) => (d.1, { d.2 with notices := d.2.notices.filter (· != (lid, home)) }) }

/-- One write of the completion, or the fault that it meets. -/
def State.completeWrite (s : State) (h : Home) (p : Nat) (bs : List Byte) : AccRes × State :=
  let r := s.plainAccess h.dk (bits (pkt h.packet 0x20 4) 11 0) p bs.length .write none
  match r with
  | .ok ps =>
    (r, (ps.filter fun p => p.x.home != 4).foldl (fun s p => s.tagWrite p.x.ga p.len [hostAgent.release 6]) (s.plainWrite h.dk ps bs))
  | _ => (r, s)

/-- The mailbox record of a completion write that faults (R371). -/
def State.completeFault (s : State) (h : Home) (cls code va : Nat) : State :=
  (s.postNote h.dk h.core
    ⟨0, BitVec.ofNat 32 (cls + code * 16), BitVec.ofNat 64 va, 0⟩).tellRuns h.dk h.lid (true, cls, code)

/-- LAUNCH_COMPLETION (R369): the record, then the signal. -/
def State.completeLaunch (s : State) (h : Home) : State :=
  let b := h.packet
  match s.completeWrite h (pkt b 0x28 8) (recordOf h) with
  | (.bad cls code va, s) => (s.completeFault h cls code va).closeLaunch h.dk h.lid
  | (.ask key, s) => s.askFor h.dk key
  | (.wait, s) => s
  | (.ok _, s') =>
    match s'.completeWrite h (pkt b 0x30 8) (bytesLE (pkt b 0x38 4) 4) with
    | (.bad cls code va, s') => (s'.completeFault h cls code va).closeLaunch h.dk h.lid
    | (.ask key, _) => s.askFor h.dk key
    | (.wait, _) => s
    | (.ok _, s') =>
      (s'.tellRuns h.dk h.lid (h.fail.isSome, (h.fail.map (·.cls)).getD 0, (h.fail.map (·.code)).getD 0)).closeLaunch h.dk h.lid

/-- LAUNCH_COMPLETION (R369). -/
def execLaunchCompletion (s : State) : Out :=
  .next (match s.homeFind s.arg.key (BitVec.ofNat 32 s.arg.num) with
    | some (_, h) => if s.drained h then s.completeLaunch h else s
    | none => s)

end Sys2Proof.Machine
end

