-- ==== Sys2Proof/Machine/Parser.lean ====
section
/-! DEFINITION. The parser (R275, R372 to R374): uniform majors 0x78 to 0x7A, and the steps that perform a clause. -/

namespace Sys2Proof.Machine

/-! ### Runs -/

/-- The run of a die with this handle. -/
def State.runOf (s : State) (dk : Nat) (h : Word) : Option Run := (s.die dk).runs.find? fun r => r.handle == h

def State.setRun (s : State) (dk : Nat) (h : Word) (f : Run → Run) : State :=
  let d := s.die dk
  s.setDie dk { d with runs := d.runs.map fun r => if r.handle = h then f r else r }

/-- The status word of R374. -/
def runStatus (st cls code : Nat) : Word := BitVec.ofNat 32 (st + cls % 16 * 2 ^ 8 + code % 256 * 2 ^ 12)

/-- A run ends; a clause that failed is the last one performed (R374). -/
def State.runEnd (s : State) (dk : Nat) (h : Word) (st cls code : Nat) : State :=
  s.setRun dk h fun r =>
    { r with phase := 6, copy := [], status := runStatus st cls code, last := if st = 1 then BitVec.ofNat 32 r.cur else r.last }

/-- The clause that a run performs has been performed; `next` is the index of the following one, 0xFFFF_FFFF of none. -/
def State.runNext (s : State) (dk : Nat) (h : Word) (next : Nat) : State :=
  s.setRun dk h fun r =>
    if next = 0xFFFFFFFF then { r with phase := 6, copy := [], status := 0, last := BitVec.ofNat 32 r.cur, fail := none, ended := none }
    else { r with phase := 0, copy := [], cur := next, last := BitVec.ofNat 32 r.cur, fail := none, ended := none, since := s.cycle }

/-! ### The instructions (R275) -/

/-- `grun` (R275, R372). -/
def execGrun (d a : Reg) (s : State) : Out :=
  let i : Instr := .grun d a
  let p := s.g.u64 a.toNat
  issue i [one d, pair a] [] s
    (if p.toNat % 64 ≠ 0 then takeTrap { plainTrap 3 10 with addr := p, va := p.toNat % 2 ^ 56 } s
     else if 16 ≤ (s.die s.g.dk).runs.length then waitFor .busy s
     else
      let e := s.die s.g.dk
      let h := e.nextRun
      let r : Run := {
        handle := h, asn := s.g.asn, clauses := p, count := 0, cur := 0, last := 0xFFFFFFFF#32, phase := 0, on := 0, status := 0,
        fail := none, core := s.g.core, since := s.cycle, ended := none, loaded := false,
        rel := [s.g.release 2], copy := [] }
      let s' := s.setDie s.g.dk { e with runs := e.runs ++ [r], nextRun := if h = 0xFFFFFFFF#32 then 1 else h + 1 }
      wbOn i s s' [(d.toNat, Lanes.uni h)])

/-- A condition word's place, as a run remembers it. -/
def wordPlace (ps : List Piece) : Nat := (ps.head?.map fun p => p.x.home / 4 * 2 ^ 64 + p.x.ga).getD 0

/-- Every run of the die that waits on the word reads it again. -/
def State.wakeRuns (s : State) (dk at_ : Nat) : State :=
  let d := s.die dk
  s.setDie dk { d with runs := d.runs.map fun r => if r.phase = 4 ∧ r.on = at_ then { r with phase := 0 } else r }

/-- `gset` (R275): a store of one word, then the runs that wait on it wake. -/
def execGset (a b : Reg) (s : State) : Out :=
  let i : Instr := .gset a b
  let p := (s.g.u64 a.toNat).toNat
  let put := fun (s' : State) (accs : List LaneAcc) => s'.storeLanes 2 5 accs fun _ => bytesLE (s.g.u b.toNat).toNat 4
  issue i [pair a, one b] [] s
    (s.access ⟨.write, true, true, true, true⟩ [⟨s.g.ulane, p, p, 4, if p % 4 = 0 then [] else [(3, 10)]⟩] put
      fun s' accs => done i ((put s' accs).wakeRuns s.g.dk (wordPlace (accs.flatMap (·.ps)))))

/-- `gwait` (R275, R374). -/
def execGwait (d a : Reg) (s : State) : Out :=
  let i : Instr := .gwait d a
  let h := s.g.u a.toNat
  issue i [pair d, one a] [] s
    (match s.runOf s.g.dk h with
     | none => wb i s [(d.toNat, Lanes.uni 3#32), (d.toNat + 1, Lanes.uni 0xFFFFFFFF#32)]
     | some r =>
      if r.phase ≠ 6 then waitFor .gwait s
      else
        let e := s.die s.g.dk
        wbOn i s (s.setDie s.g.dk { e with runs := e.runs.filter fun r => r.handle != h }).acquired
          [(d.toNat, Lanes.uni r.status), (d.toNat + 1, Lanes.uni r.last)])

/-! ### Reading what a run names -/

/-- An access of a run at user privilege in its address space: what follows, what a fault does, or a wait for a page. -/
def State.runAccess (s : State) (dk : Nat) (r : Run) (p n : Nat) (k : Kind) (bad : Nat → Nat → State)
    (ok : State → List Piece → State) : State :=
  match s.plainAccess dk r.asn p n k r.fail with
  | .ok ps => ok (s.mark ps) ps
  | .bad cls code va =>
    if cls = 3 ∧ code = 1 ∧ s.ringCount dk ≠ 0 then
      let q := s.engPage dk va r.asn k 3 r.core
      q.1.setRun dk r.handle fun r => { r with phase := 5, on := q.2 }
    else bad cls code
  | .ask key => (s.askFor dk key).setRun dk r.handle fun r => { r with phase := 5, on := hostPage key, fail := none }
  | .wait => s

/-- The fields of a graph descriptor that break Table 11-6. -/
def badGraph (b : List Byte) : Bool :=
  pkt b 0 8 % 64 != 0 || bits (pkt b 0x08 4) 31 16 != 0 || pkt b 0x08 4 == 0 || bits (pkt b 0x10 4) 31 12 != 0 || pkt b 0x14 44 != 0

/-- The descriptor of a run is read (Table 11-6), after the accesses of its group before the `grun` (R275). DEDUCED: log entry
24. -/
def State.runLoad (s : State) (dk : Nat) (r : Run) : State :=
  let s := r.rel.foldl State.releaseTo s
  s.runAccess dk r r.clauses.toNat 64 .read (fun _ _ => s.runEnd dk r.handle 2 0 0) fun s ps =>
    let b := s.plainRead dk ps
    if badGraph b then s.runEnd dk r.handle 2 0 0
    else
      s.setRun dk r.handle fun r => { r with
        loaded := true, clauses := BitVec.ofNat 64 (pkt b 0 8), count := pkt b 0x08 4, cur := pkt b 0x0C 4,
        asn := pkt b 0x10 4, fail := none, since := s.cycle }

/-- The fields of a clause that break Table 11-7. -/
def badClause (b : List Byte) : Bool :=
  let k := pkt b 0 4
  match k with
  | 1 => pkt b 0x08 8 % 128 != 0 || pkt b 0x10 48 != 0
  | 2 => pkt b 0x20 32 != 0 || pkt b 0x18 8 != ctlLen (BitVec.ofNat 64 (pkt b 0x18 8))
  | 3 => decide (2 < pkt b 0x20 4) || pkt b 0x28 24 != 0
  | 4 => pkt b 0x08 8 % 4 != 0 || bits (pkt b 0x14 4) 31 3 != 0 || pkt b 0x1C 36 != 0
  | 5 => pkt b 0x08 8 % 4 != 0 || bits (pkt b 0x14 4) 31 2 != 0 || pkt b 0x1C 36 != 0
  | _ => true

/-! ### Clauses (R373) -/

/-- A launch clause: the share is taken as `launch` would, and the clause ends with the signal. DEDUCED: log entry 26. -/
def State.clauseLaunch (s : State) (dk : Nat) (r : Run) (b : List Byte) : State :=
  s.runAccess dk r (pkt b 0x08 8) 128 .read (fun cls code => s.runEnd dk r.handle 1 cls code) fun s ps =>
    let p := s.plainRead dk ps
    if pktDies p ≠ [s.pktSelf dk] then s.runEnd dk r.handle 2 0 0
    else
      match s.launchWith dk r.core p r.fail with
      | .done t => t.setRun dk r.handle fun r => { r with phase := 1, on := pkt p 0x18 4, fail := none }
      | .ask key => (s.askFor dk key).setRun dk r.handle fun r => { r with phase := 5, on := hostPage key, fail := none }
      | _ => s

/-- The request of a copy clause: `cpy` between pointers in the run's address space, with LEN only (Table 11-7). -/
def Run.request (r : Run) (b : List Byte) : CopyReq where
  gk := noGroup
  tag := ⟨none, 0, 0, 0⟩
  kind := .cpy
  d := BitVec.ofNat 64 (pkt b 0x08 8)
  a := BitVec.ofNat 64 (pkt b 0x10 8)
  ctl := BitVec.ofNat 64 (ctlLen (BitVec.ofNat 64 (pkt b 0x18 8)))
  e := 0
  heap := Heap.zero
  asn := r.asn
  priv := false
  started := false
  sent := false
  skip := false
  since := r.since
  late := false
  page := none
  hostFail := r.fail.map (·.1)
  units := []
  dst := []
  taken := []
  hand := false

/-- A copy clause starts: as the request of a queue would (R386). -/
def State.clauseCopyStart (s : State) (dk : Nat) (r : Run) (b : List Byte) : State :=
  let c := r.request b
  let next := pkt b 0x04 4
  if c.d.extractLsb' 56 4 ≠ 0#4 ∨ c.a.extractLsb' 56 4 ≠ 0#4 then s.runEnd dk r.handle 1 3 8
  else
    let p := s.planRows c { deadTeam with dk := dk }
    match p.res with
    | .bad code _ _ => s.runEnd dk r.handle 1 5 code
    | .page va k =>
      let q := s.engPage dk va r.asn k 3 r.core
      q.1.setRun dk r.handle fun r => { r with phase := 5, on := q.2 }
    | .ask key => (s.askFor dk key).setRun dk r.handle fun r => { r with phase := 5, on := hostPage key, fail := none }
    | .wait => s
    | .ok _ =>
      if p.units.isEmpty then s.runNext dk r.handle next
      else
        let q := s.beginCopy dk c p
        q.1.setRun dk r.handle fun r => { r with phase := 2, on := next, fail := none, copy := [q.2] }

/-- Unit `n` of a copy clause is copied; with its last unit the clause ends. -/
def State.clauseCopyUnit (s : State) (dk : Nat) (r : Run) (c : CopyReq) (n : Nat) : State :=
  match c.units[n]? with
  | some u =>
    match s.unitRes dk c u with
    | .ok _ =>
      let q := s.copyUnits dk c [u] (c.units.eraseIdx n)
      if q.2.units.isEmpty then q.1.runNext dk r.handle r.on
      else q.1.setRun dk r.handle fun r => { r with copy := [q.2], since := s.cycle }
    | .bad code _ _ => s.runEnd dk r.handle 1 5 code
    | _ => s
  | none => s

/-- A copy clause: one copy between pointers, unit by unit. DESIGN CHOICE: log entry 43. -/
def State.clauseCopy (s : State) (n dk : Nat) (r : Run) (b : List Byte) : State :=
  match r.copy with
  | c :: _ => s.clauseCopyUnit dk r c n
  | [] => s.clauseCopyStart dk r b

/-- A collective clause: an issue as the member of a core of the die, which ends as `cwait` would. -/
def State.clauseCollective (s : State) (dk : Nat) (r : Run) (b : List Byte) : State :=
  match r.ended with
  | some (bad, cls, code) => if bad then s.runEnd dk r.handle 1 cls code else s.runNext dk r.handle (pkt b 0x04 4)
  | none =>
    let w := pkt b 0x24 4
    let at_ := s.absPlace dk w
    let oper := pkt b 0x20 4
    let d : DWord := BitVec.ofNat 64 (pkt b 0x08 8)
    let a : DWord := BitVec.ofNat 64 (pkt b 0x10 8)
    let ctl : DWord := BitVec.ofNat 64 (pkt b 0x18 8)
    if badAbsPlace w ∨ at_.1 ≠ dk then s.runEnd dk r.handle 2 0 0
    else if r.phase = 3 then s
    else
      match leastTrap (s.collTraps dk at_.2 oper d a ctl) with
      | some t => s.runEnd dk r.handle 1 t.cls t.code
      | none =>
        let m : Member := {
          rank := 0, dk := dk, core := at_.2, gk := none, lk := 0, oper := oper, ctl := ctl, d := d, a := a, heap := Heap.zero,
          asn := r.asn, priv := false, tag := ⟨none, r.handle.toNat, 0, 0⟩, page := none, hostFail := none,
          drained := false, noticed := false }
        match s.collJoin m with
        | none => s
        | some (t, key) => (t.setRun dk r.handle fun r => { r with phase := 3, on := key }).collLate key m

/-- Word OP VALUE of a conditional clause. -/
def clauseTest (op w v : Nat) : Bool :=
  match op with
  | 0 => w == v
  | 1 => w != v
  | 2 => decide (w < v)
  | _ => decide (v ≤ w)

/-- The release tags of the bytes of pieces of memory. -/
def State.pieceTags (s : State) (ps : List Piece) : List Rel :=
  (ps.filter fun p => p.x.home != 4).flatMap fun p => s.tagsAt p.x.ga p.len

/-- A conditional or while clause: the word is read as an acquire at gal; the field at 0x18 names the clause that follows where the test holds. DEDUCED: log entry 25. -/
def State.clauseTest (s : State) (dk : Nat) (r : Run) (b : List Byte) : State :=
  s.runAccess dk r (pkt b 0x08 8) 4 .read (fun cls code => s.runEnd dk r.handle 1 cls code) fun s ps =>
    let s := s.syncFor (dieAgent dk) 5 (s.pieceTags ps)
    let w := natLE (s.plainRead dk ps)
    if Machine.clauseTest (bits (pkt b 0x14 4) 1 0) w (pkt b 0x10 4) then
      (if r.count ≤ pkt b 0x18 4 then s.setRun dk r.handle fun r => { r with last := BitVec.ofNat 32 r.cur, phase := 6, status := runStatus 2 0 0 }
       else s.runNext dk r.handle (pkt b 0x18 4))
    else if (pkt b 0x14 4).testBit 2 then s.setRun dk r.handle fun r => { r with phase := 4, on := wordPlace ps, fail := none }
    else s.runNext dk r.handle (pkt b 0x04 4)

/-- The run is where its next clause can go on. -/
def Run.ready (r : Run) : Bool := r.phase == 0 || r.phase == 2 || ((r.phase == 1 || r.phase == 3) && r.ended.isSome)

/-- The clause that a ready run performs next, where it can be read now. -/
def State.peekClause (s : State) (dk : Nat) (r : Run) : Option (List Byte) :=
  match s.plainAccess dk r.asn (r.clauses.toNat + 64 * r.cur) 64 .read r.fail with
  | .ok ps => some (s.plainRead dk ps)
  | _ => none

/-- Pointers and lengths that the next step of a run accesses: its descriptor, or its clause and what the clause names. -/
def State.runReads (s : State) (dk : Nat) (r : Run) : List (Nat × Nat) :=
  if !r.loaded then [(r.clauses.toNat, 64)]
  else
    (r.clauses.toNat + 64 * r.cur, 64) ::
    match s.peekClause dk r with
    | some b =>
      (match pkt b 0 4 with
        | 1 => [(pkt b 0x08 8, 128)]
        | 2 => [(pkt b 0x08 8, pkt b 0x18 4), (pkt b 0x10 8, pkt b 0x18 4)]
        | 4 => [(pkt b 0x08 8, 4)]
        | 5 => [(pkt b 0x08 8, 4)]
        | _ => [])
    | none => []

/-- The places that the next step of a run accesses, or that its copy clause has still to access: home and address. -/
def State.runPlaces (s : State) (dk : Nat) (r : Run) : List (Nat × Nat) :=
  if r.phase = 2 then r.copy.flatMap fun c => c.left.map fun p => (p.1, p.2.1)
  else
    (s.runReads dk r).flatMap fun p =>
      (s.okPieces ⟨dk, r.asn, false, Heap.zero, false⟩ p.1 p.2 .read).map fun q => (q.x.home, q.x.ga)

/-- An access of a run leaves its die; one waits behind the block of a migration (R346). -/
def State.runAway (s : State) (dk : Nat) (r : Run) : Bool := (s.runPlaces dk r).any fun p => p.1 != 4 && gaDie p.2 != dk
def State.runBlocked (s : State) (dk : Nat) (r : Run) : Bool :=
  (s.runPlaces dk r).any fun p => p.1 != 4 && p.1 != 5 && s.blocked p.2

/-- One step of a run toward its next clause: the descriptor is read first; a clause that cannot be read, or that breaks
Table 11-7, ends the run; a clause of kind `k` is performed. -/
def State.clause (s : State) (k : Nat) (f : State → Nat → Run → List Byte → State) : State :=
  let dk := s.arg.key
  let h := BitVec.ofNat 32 s.arg.sub
  match s.runOf dk h with
  | some r =>
    if !r.ready then s
    else if !r.loaded then s.runLoad dk r
    else if r.phase = 2 then (if k = 2 then f s dk r [] else s)
    else if r.count ≤ r.cur then s.runEnd dk h 2 0 0
    else
      s.runAccess dk r (r.clauses.toNat + 64 * r.cur) 64 .read (fun _ _ => s.runEnd dk h 2 0 0) fun s ps =>
        let b := s.plainRead dk ps
        if badClause b then s.runEnd dk h 2 0 0
        else if pkt b 0 4 = k then f s dk r b
        else s
  | none => s

/-- CLAUSE_LAUNCH (R373). -/
def execClauseLaunch (s : State) : Out :=
  .next (s.clause 1 fun s dk r b =>
    match r.ended with
    | some (bad, cls, code) => if bad then s.runEnd dk r.handle 1 cls code else s.runNext dk r.handle (pkt b 0x04 4)
    | none => s.clauseLaunch dk r b)

/-- CLAUSE_COPY (R373). -/
def execClauseCopy (s : State) : Out := .next (s.clause 2 fun t => t.clauseCopy s.arg.num)

/-- CLAUSE_COLLECTIVE (R373). -/
def execClauseCollective (s : State) : Out := .next (s.clause 3 State.clauseCollective)

/-- CLAUSE_CONDITIONAL (R373). -/
def execClauseConditional (s : State) : Out := .next (s.clause 4 State.clauseTest)

/-- CLAUSE_WHILE (R373). -/
def execClauseWhile (s : State) : Out := .next (s.clause 5 State.clauseTest)

end Sys2Proof.Machine
end

