-- ==== Sys2Proof/Machine/Sampling.lean ====
section
/-! DEFINITION. The SAMP and TRACE registers of a core, sampling (R456 to R458), and what falls due as cycles pass: samples and the
bins whose period is over (R258). -/

namespace Sys2Proof.Machine

/-- A SAMP or TRACE register of a core. -/
def State.coreSys (s : State) (ck n : Nat) : DWord := Store.get (fun _ => 0#64) (s.core ck).sys n

def State.setCoreSys (s : State) (ck n : Nat) (v : DWord) : State :=
  let c := s.core ck
  s.setCore ck { c with sys := Store.put (fun _ => 0#64) n v c.sys }

/-- LID of a team's launch, 0 for the supervisor team. -/
def State.lidOf (s : State) (tid : Nat) : Nat := ((Store.find (s.team tid).lk s.launches).map fun l => l.lid.toNat).getD 0

/-- The trace unit of a core cannot write: the home of its next byte is out of reach or silent, or lies under a migration block
(R463). -/
def State.traceStuck (s : State) (ck : Nat) : Bool :=
  let size := (s.coreSys ck 0x403).toNat
  let ga := (s.coreSys ck 0x402).toNat + (s.coreSys ck 0x404).toNat % size
  s.traceOn ck && (!s.reachable (ck / 96) (gaPkg ga) || !s.hears (gaDie ga) (ck / 96 / 4) || (s.pkg (gaPkg ga)).dead || s.blocked ga)

/-- A traced group waits for its trace unit (R463). -/
def State.traceWaits (s : State) (g : Group) : Bool := s.traced g && s.traceStuck (coreKey g.dk g.core)

/-- STALL of a group that has not issued (Table 15-3); a group that is not waiting shows one of the reasons of the pipes, a free
choice, or that a `yield` has passed it over. -/
def State.stallOf (s : State) (g : Group) (free : Nat) : Nat :=
  if (s.team g.tid).held then 1
  else if g.status = .trapped ∨ g.status = .posting then 2
  else if g.status = .notStarted then 16
  else if s.traceWaits g then 13
  else
    match g.wait with
    | .none =>
      let codes := [3, 4, 6, 7, 8] ++ (if g.passed.isEmpty then [] else [15]) ++ [16]
      (codes[free % codes.length]?).getD 16
    | .matrix => 5
    | .bar _ _ => 9
    | .quota => 9
    | .ldcw => 10
    | .mwait => 11
    | .cwait => 11
    | .rwait => 11
    | .gwait => 11
    | .wline => 12
    | .room => 13
    | .row => 13
    | .busy => 13
    | .drain => 14
    | .freezing => 14
    | .page _ => 4
    | .bist _ _ _ => 16
    | .txn => 4
    | .owned => 4
    | .firewall _ => 4

/-- The sample record of a group at a cycle (Table 15-2); whether it issued in the cycle is free where nothing holds it.
DESIGN CHOICE: log entry 6. -/
def State.sampleRecord (s : State) (g : Group) (at_ : Nat) : List Byte :=
  let t := s.team g.tid
  let f := (Config.free 11 s.steps).toNat
  let ready := g.status == .live && g.wait == .none && !t.held
  let issued := ready && f % 2 == 1
  let b := match g.wait with
    | .bar b _ => some b
    | _ => none
  let phase := (t.barriers[(b.getD 0).toNat]).p
  bytesLE (bits g.pc.toNat 55 2 * 4 + (if issued then 1 else 0)) 8 ++ bytesLE (s.lidOf g.tid) 4 ++ bytesLE at_ 4 ++
  bytesLE t.tidx.toNat 8 ++
  bytesLE ((if issued then 0 else s.stallOf g (f / 2)) + g.slot % 16 * 2 ^ 5 + g.part % 4 * 2 ^ 9 + g.gidx % 16 * 2 ^ 11) 4 ++
  bytesLE ((b.getD 0).toNat + (if b.isSome then 16 else 0) + phase.toNat * 2 ^ 16) 4

/-- The resident groups of a partition, the supervisor group among them before anything has listed it. -/
def State.residents (s : State) (dk core part : Nat) : List Group :=
  let k := 16 * coreKey dk core
  s.partGroups dk core part ++
    (if part = 0 ∧ k ≠ s.g.key ∧ (Store.find k s.groups).isNone ∧ !s.coreBad dk core then [groupDefault k] else [])

/-- The group of a partition next in rotation after a slot. -/
def nextSlot (gs : List Group) (last : Nat) : Option Group :=
  ((List.range 16).map fun i => (last + 1 + i) % 16).findSome? fun n => gs.find? fun g => g.slot = n

/-- One partition's sample of a cycle. -/
def State.samplePart (s : State) (dk core part at_ : Nat) : State :=
  let ck := coreKey dk core
  let c := s.core ck
  let size := (s.coreSys ck 0x302).toNat
  match nextSlot (s.residents dk core part) ((c.sampled.toList[part]?).getD 15) with
  | some g =>
    let head := (s.coreSys ck 0x303).toNat
    let s := s.setBytes ((s.coreSys ck 0x301).toNat + 32 * (head % size)) (s.sampleRecord g at_)
    let s := s.setCoreSys ck 0x303 (BitVec.ofNat 64 ((head + 1) % 2 ^ 32))
    let c := s.core ck
    s.setCore ck { c with sampled := c.sampled.mapFinIdx fun i x _ => if i = part then g.slot else x }
  | none => s

/-- Sampling is enabled on the core, with a ring that does not stop it. -/
def State.sampling (s : State) (ck : Nat) : Bool :=
  let size := (s.coreSys ck 0x302).toNat
  (s.coreSys ck 0x300).getLsbD 0 && decide (64 ≤ size) && decide (size ≤ 65536) && decide (size = 2 ^ Nat.log2 size)

/-- The sampling period: 2^LOG2N cycles, LOG2N held within 6 and 16 (Table 15-1). -/
def State.samplePeriod (s : State) (ck : Nat) : Nat := 2 ^ max 6 (min 16 (bits (s.coreSys ck 0x300).toNat 5 1))

/-- The samples that have fallen due, one for each multiple of the period that CTX.CYCLE has passed, the partitions of the core
in ascending order. -/
def State.sampleDue (s : State) (ck : Nat) : State :=
  let now := s.cycleOf (ck / 96)
  let p := s.samplePeriod ck
  let last := (s.core ck).ticked / p
  let s := (List.range (now / p - last)).foldl (fun s j =>
    (List.range 4).foldl (fun s part => s.samplePart (ck / 96) (ck % 96) part ((last + 1 + j) * p)) s) s
  s.setCore ck { s.core ck with ticked := now }

/-- The samples of every sampling core that have fallen due (R456). -/
def State.samplesDue (s : State) : State :=
  (s.cores.filter fun c => s.sampling c.1).foldl (fun s c => s.sampleDue c.1) s

/-- Cycles pass: bins whose period ends in them launch (R258, R360), the samples that fall due are taken. -/
def State.elapse (s : State) (n : Nat) : State :=
  let s := { s with cycle := s.cycle + n }
  s.binTimers.samplesDue

end Sys2Proof.Machine
end

