-- ==== Sys2Proof/Machine/Fabric.lean ====
section
/-! DEFINITION. Die edges and fabric ports (R382 to R384, R417, R418), transaction timeouts (R420 to R422), the death of cells
(R423 to R431), and the register writes of Table 13-6 as steps. -/

namespace Sys2Proof.Machine

/-! ### Gallery packets (Table 13-3) -/

/-- OP values that Table 13-3 assigns. -/
def pktOps : List Nat := [1, 2, 3, 4, 5, 6, 7, 8, 9, 0x10, 0x11, 0x20, 0x21, 0x22, 0x23, 0x24, 0x30, 0x31]

/-- A packet header that R418 discards. A LEN above 256 is not in the rule's list of reasons, but Table 13-3 gives 0 to 256: such a
packet is discarded and counted with them. DESIGN CHOICE: log entry 83. -/
def State.badPacket (s : State) (dk : Nat) (h : List Byte) : Bool :=
  !pktOps.contains (pkt h 0 1) || bits (pkt h 1 1) 7 4 != 0 || bits (pkt h 2 2) 15 10 != 0 || bits (pkt h 4 2) 15 10 != 0 ||
  bits (pkt h 6 1) 7 6 != 0 || pkt h 7 1 != 0 || decide (2 ^ 54 ≤ pkt h 12 8) || decide (256 < pkt h 24 4) || pkt h 28 4 != 0 ||
  s.cellOf dk (pkt h 2 2) != some (pkt h 6 1)

/-- BULK_PACKET (R418): a packet that breaks Table 13-3 is discarded and counted. What a bulk packet of a copy, message or
collective carries is moved by the steps of its engine. -/
def State.bulkPacket (s : State) (dk : Nat) (h : List Byte) : State :=
  if !(s.dev dk 0x0800).getLsbD 31 then s
  else if s.badPacket dk h then s.countBad dk
  else s

def execBulkPacket (s : State) : Out := .next (s.bulkPacket s.arg.key s.arg.hdr)

/-! ### Links (R383, R384, R418) -/

/-- One side of a die edge changed. -/
def State.edgeSet (s : State) (dk e : Nat) (f : Link → Link) : State :=
  let d := s.die dk
  s.setDie dk { d with edges := d.edges.mapFinIdx fun i l _ => if i = e % 2 then f l else l }

/-- One side of a die edge. -/
def State.edge (s : State) (dk e : Nat) : Link := (s.die dk).edges[e % 2]'(Nat.mod_lt _ (by decide))

/-- Station `i` of one side of a die edge. -/
def State.station (s : State) (dk e i : Nat) : Station := (s.edge dk e).stations[i % 8]'(Nat.mod_lt _ (by decide))

def State.stationSet (s : State) (dk e i : Nat) (f : Station → Station) : State :=
  s.edgeSet dk e fun l => { l with stations := l.stations.mapFinIdx fun j x _ => if j = i % 8 then f x else x }

/-- A whole packet, at most 32 + 256 bytes, enters the station of an edge (R382) that bits [9:7] of its gallery address choose (R381);
an edge under test takes no new work (R283). -/
def State.stationTake (s : State) (dk e : Nat) (bs : List Byte) : State :=
  if bs.length < 32 ∨ 288 < bs.length ∨ bs.length ≠ 32 + pkt bs 24 4 ∨ s.underTest dk (0x2000 + e % 2) then s
  else s.stationSet dk e (bits (pkt bs 12 8) 9 7) fun x => { x with wait := x.wait ++ bs }

/-- Whole packets taken from the accepted bytes (R382), by the LEN of their headers (Table 13-3), whose first byte is an OP and so
not zero: zeros before it fill the flit. With what is left. DEDUCED: log entry 28. -/
def takePackets (bs : List Byte) : Nat → List (List Byte) × List Byte
  | 0 => ([], bs)
  | f + 1 =>
    let bs := bs.dropWhile (· == 0#8)
    let n := 32 + min (pkt bs 24 4) 256
    if bs.length < 32 ∨ bs.length < n then ([], bs)
    else
      let r := takePackets (bs.drop n) f
      (bs.take n :: r.1, r.2)

/-- A flit accepted: the next SEQ is expected, its payload joins what was accepted before, and the packets that are whole now are
delivered to the die (R382). A flit with packet bytes makes the station owe an ACK. -/
def Station.accept (x : Station) (payload : List Byte) : Station :=
  let r := takePackets (x.part ++ payload) 16
  { x with seq := x.seq + 1, owes := x.owes || payload.any (· != 0#8), part := r.2, got := x.got ++ r.1 }

/-- An ACK covers the flits up to its SEQ: the sender keeps them no longer (R383). -/
def Station.acked (x : Station) (ack : BitVec 12) : Station :=
  match x.kept.findIdx? fun f => f.1 == ack with
  | some i => { x with kept := x.kept.drop (i + 1), again := x.again - (i + 1) }
  | none => x

/-- The other side has reported the SEQ that it expects: what no ACK covers is sent again from the oldest on (R383). -/
def Station.replay (x : Station) (expected : BitVec 12) : Station := { x.acked (expected - 1) with again := 0 }

/-- A flit counted, with the errors of the last 2^20 (R384). -/
def Link.counted (l : Link) (ok : Bool) : Link :=
  let es := l.errors.filter fun n => decide (l.flits < n + 2 ^ 20)
  { l with flits := l.flits + 1, errors := if ok then es else es ++ [l.flits] }

/-- Bytes 0 to 247 of a flit (Table 12-2). The spec does not say how LINK holds credits and retrain state: its word is a free value,
and nothing rests on it. DESIGN CHOICE: log entry 82. -/
def flitBytes (seq ack : BitVec 12) (link : Word) (payload : List Byte) : List Byte :=
  bytesLE seq.toNat 2 ++ bytesLE ack.toNat 2 ++ bytesLE link.toNat 4 ++ payload

/-- A flit reaches station `i` of an edge (R383): accepted only with a correct CRC and the next SEQ; any other is discarded, and the
SEQ expected is reported, from which the sender sends again. More than 8 errors within 2^20 flits start a retrain (R384). DEDUCED:
log entry 28. -/
def State.edgeFlit (s : State) (dk e i : Nat) (flit : List Byte) (ok : Bool) : State :=
  let l := s.edge dk e
  if !l.up ∨ l.training then s
  else
    let l := l.counted ok
    let s := s.edgeSet dk e fun _ => l
    let x := if ok then (s.station dk e i).acked (BitVec.ofNat 12 (pkt flit 2 2)) else s.station dk e i
    if ok ∧ BitVec.ofNat 12 (pkt flit 0 2) = x.seq then s.stationSet dk e i fun _ => x.accept (slice flit 8 240)
    else
      let peer := edgePeer dk (e % 2)
      let s := (s.stationSet dk e i fun _ => x).edgeSet peer e fun l => { l with replays := l.replays + 1 }
      let s := s.stationSet peer e i fun y => y.replay x.seq
      if 8 < l.errors.length then s.edgeUpdate dk (e % 2) fun l => { l with training := true, errors := [] } else s

/-- DIE_EDGE_FLIT: `val` holds the first eight bytes of the flit (Table 12-2). -/
def execDieEdgeFlit (s : State) : Out :=
  .next (s.edgeFlit s.arg.key s.arg.sub s.arg.num (bytesLE s.arg.val.toNat 8 ++ s.arg.data) s.arg.flag)

/-- The next flit of a station, and the station after it: one that is to be sent again, or a new one of 240 bytes of its packets, while
fewer than 512 are unacknowledged (R383). A station that owes an ACK and has no packets sends it in a flit without any, or, with 512
unacknowledged, in the oldest of them sent again. DESIGN CHOICE: log entry 82. -/
def Station.next (x : Station) : Option ((BitVec 12 × List Byte) × Station) :=
  match x.kept[x.again]? with
  | some f => some (f, { x with again := x.again + 1, owes := false })
  | none =>
    if x.wait.isEmpty ∧ !x.owes then none
    else if 512 ≤ x.kept.length then
      if x.owes then x.kept.head?.map fun f => (f, { x with owes := false }) else none
    else
      let f := (x.sent, x.wait.take 240 ++ List.replicate (240 - x.wait.length) 0#8)
      some (f, { x with wait := x.wait.drop 240, sent := x.sent + 1, kept := x.kept ++ [f], again := x.kept.length + 1, owes := false })

/-- Station `i` of an edge sends its next flit; it reaches the die on the other side (R382, R383). -/
def State.flitSend (s : State) (dk e i : Nat) (ok : Bool) : State :=
  let l := s.edge dk e
  if !l.up ∨ l.training then s
  else
    match (s.station dk e i).next with
    | some (f, x) =>
      (s.stationSet dk e i fun _ => x).edgeFlit (edgePeer dk (e % 2)) e i
        (flitBytes f.1 (x.seq - 1) ((Config.free 21 s.steps).setWidth 32) f.2) ok
    | none => s

/-- What no ACK covers is sent again after a retrain (R384). The spec does not say whether that counts in D2D.STAT.REPLAYS: it does
not here. DESIGN CHOICE: log entry 82. -/
def Link.resend (l : Link) : Link := { l with stations := l.stations.map fun x => { x with again := 0 } }

/-- DIE_EDGE_RETRAIN (R384): a retrain of an edge ends, and its senders send again what is not acknowledged; with `num` 1 a lane fails
and a retrain begins. -/
def execDieEdgeRetrain (s : State) : Out :=
  .next (s.edgeUpdate s.arg.key (s.arg.sub % 2) fun l =>
    if s.arg.num = 1 then (if l.up then { l with training := true } else l)
    else if l.up ∨ l.training then (l.retrained s.arg.flag).resend else l)

/-- D2D_RETRAIN (R384). -/
def execD2dRetrain (s : State) : Out := .next (s.d2dRetrain s.arg.key (s.arg.sub % 2) s.arg.val.toNat)

/-- A fabric port of a die changed. -/
def State.fabSet (s : State) (dk n : Nat) (f : Link → Link) : State :=
  let d := s.die dk
  s.setDie dk { d with ports := d.ports.mapFinIdx fun i l _ => if i = n then f l else l }

/-- FABRIC_PORT_RETRAIN (R418): a retrain of a port ends. -/
def execFabricPortRetrain (s : State) : Out :=
  .next (s.fabSet s.arg.key s.arg.sub fun l => if l.up ∨ l.training then l.retrained s.arg.flag else l)

/-- FAB_RETRAIN (R418). -/
def execFabRetrain (s : State) : Out := .next (s.fabRetrain s.arg.key s.arg.val.toNat)

/-- FABRIC_LINK_TRAINING (R418): a port completes training with a partner, unless the defect map marks it bad or a test has. -/
def execFabricLinkTraining (s : State) : Out :=
  let dk := s.arg.key
  .next (if (s.sysReg dk 0x706).getLsbD (2 + s.arg.sub) ∨ (s.die dk).badUnits.contains (0x3000 + s.arg.sub) then s
    else s.fabSet dk s.arg.sub fun l => { l with up := true, training := false, failed := 0 })

/-! ### Timeouts (R420 to R422) -/

/-- The issuer of a request waits for it no more: its response, when it comes, is handed back (R422). -/
def State.orphan (s : State) (t : Txn) : State :=
  if t.op ≤ 3 ∧ t.src ≠ gaPkg t.ga then
    { s with fresh := s.fresh + 1, txns := Store.ins s.fresh { t with gk := noGroup } s.txns }
  else s

/-- A group's transaction expires (R421) once its limit has passed; a request of a line leaves its orphan, whose response is handed back (R422). -/
def State.expireTxn (s : State) (key : Nat) : State :=
  match Store.find key s.txns with
  | some t =>
    let g := s.group t.gk
    if t.gk = noGroup ∨ t.op = 10 ∨ (1 < t.phase ∧ t.phase ≠ 8) ∨ g.dk = gaDie t.ga ∨ s.blocked t.ga ∨ s.cycle - t.since < s.txnLimit g.dk then s
    else
      let s := s.countExpired g.dk
      { s with txns := Store.ins key { t with phase := if t.phase = 0 ∨ 5 ≤ t.grant then 4 else 7 } s.txns }.orphan t
  | none => s

/-- A message's data packet expires at its sender. -/
def State.expireMsg (s : State) (key : Nat) : State :=
  match Store.find key s.msgs with
  | some m =>
    let away := (m.places.getD []).any fun p => p.1 != 4 && gaDie p.2.1 != m.dk
    if m.go ∧ !m.sent ∧ away ∧ !s.msgBlocked m ∧ s.overdue m.dk m.since then (s.countExpired m.dk).failSend key m 5 3 2 m.ptr else s
  | none => s

/-- An instance of a collective loses a transaction between dies (R400). The wait for a member that has not issued it counts as one, from
the last issue on. DESIGN CHOICE: log entry 85. -/
def State.expireColl (s : State) (key : Nat) : State :=
  match Store.find key s.colls with
  | some x =>
    match x.members with
    | m :: _ =>
      let dies := (x.places.map fun w => (s.absPlace m.dk w).1).eraseDups
      if x.performed ∨ dies.length < 2 ∨ s.collBlocked x ∨ !s.overdue m.dk x.since then s else (s.countExpired m.dk).endColl key 6 7 0 none
    | [] => s
  | none => s

/-- A clause's transaction beyond its die expires (R420, R422). -/
def State.expireRun (s : State) (dk : Nat) (h : Word) : State :=
  match s.runOf dk h with
  | some r =>
    if (r.phase = 0 ∨ r.phase = 2) ∧ s.runAway dk r ∧ !s.runBlocked dk r ∧ s.overdue dk r.since then
      (s.countExpired dk).runEnd dk h 1 4 2
    else s
  | none => s

/-- A transaction of the table walk of a group's next access is not answered within its limit: the walk expires (R421). -/
def State.expireWalk (s : State) (key : Nat) : State :=
  let g := s.group key
  if g.status = .live ∧ !g.late then
    (s.elapse (s.txnLimit g.dk)).setGroup key { g with late := true }
  else s

/-- TRANSACTION_TIMEOUT: of a group's transaction (0), an engine request (1), a collective (2), a parser clause (3), a
translation request to the host (4), a message (5), a table walk of a group (6). -/
def execTransactionTimeout (s : State) : Out :=
  let a := s.arg
  .next (match a.num with
    | 0 => s.expireTxn a.key
    | 1 => s.copyExpire a.key a.sub
    | 2 => s.expireColl a.key
    | 3 => s.expireRun a.key (BitVec.ofNat 32 a.sub)
    | 4 => s.hostSilent a.key a.sub
    | 5 => s.expireMsg a.key
    | 6 => s.expireWalk a.key
    | _ => s)

/-! ### Dead cells (R423 to R431) -/

/-- CELL_FAILURE (R430): the packages of a cell stop. -/
def execCellFailure (s : State) : Out :=
  let c := s.arg.sub
  .next (((s.dies.filter fun d => (s.dev d.1 0x0800).getLsbD 31 && s.myCell d.1 == c).map fun d => d.1 / 4).foldl
    (fun s p => s.setPkg p { s.pkg p with dead := true }) s)

/-- RECOVERY_FENCE (R424): what the declaration began, again; launches that name a package of the cell fail. -/
def State.recFence (s : State) (dk : Nat) : State :=
  let r := (s.die dk).recov
  if r.phase ≠ 1 then s
  else
    let s := s.fenceCell dk r.cell
    let lids := (s.homes.filter fun h => h.2.dk = dk).map fun h => h.2.lid
    let s := lids.foldl (fun s lid => s.deadCheck dk lid) s
    s.setDie dk { s.die dk with recov := { r with phase := 2 } }

def execRecoveryFence (s : State) : Out := .next (s.recFence s.arg.key)

/-- The line involves a cell: its owner or one of its copies lies there, or its vector names it. -/
def State.lineOfCell (s : State) (dk c line : Nat) : Bool :=
  let d := s.dirAt line
  d.state != 0 && (d.cells.getLsbD c || (decide (2 ≤ d.state) && s.inCell dk c d.owner))

/-- RECOVERY_RESOLVE (R425): the lines that transactions at this home wait for. -/
def State.recResolve (s : State) (dk : Nat) : State :=
  let r := (s.die dk).recov
  if r.phase ≠ 2 then s
  else
    let lines := ((s.txns.filter fun t => t.2.phase = 0 && gaDie t.2.ga = dk).map fun t => t.2.ga / 128).eraseDups
    let s := lines.foldl (fun s l => if s.lineOfCell dk r.cell l then s.resolveOne dk r.cell l else s.answered dk r.cell l) s
    s.setDie dk { s.die dk with recov := { (s.die dk).recov with phase := 3 } }

def execRecoveryResolve (s : State) : Out := .next (s.recResolve s.arg.key)

/-- RECOVERY_SWEEP (R425, R426): every remote-directory entry of the die that involves the cell; in Report the lines lost stand in
REC.LOST. -/
def State.recSweep (s : State) (dk : Nat) : State :=
  let r := (s.die dk).recov
  if r.phase ≠ 3 then s
  else
    let lines := (s.dir.map (·.1)).filter fun l => gaDie (l * 128) = dk && s.lineOfCell dk r.cell l
    let s := lines.foldl (fun s l => s.resolveOne dk r.cell l) s
    let s := s.setDie dk { s.die dk with recov := { (s.die dk).recov with phase := 4 } }
    s.setDev dk 0x0820 (s.dev dk 0x0820 + BitVec.ofNat 64 (s.die dk).recov.lost)

def execRecoverySweep (s : State) : Out := .next (s.recSweep s.arg.key)

/-- RECOVERY_REPORT (R425): the record is posted, the next declaration is taken. -/
def State.recReport (s : State) (dk : Nat) : State :=
  let r := (s.die dk).recov
  if r.phase ≠ 4 then s
  else
    let s := s.postNote dk (s.firstCore dk)
      ⟨0, BitVec.ofNat 32 (4 + 6 * 16), 0, BitVec.ofNat 64 (r.cell % 64 + r.lost % 2 ^ 32 * 2 ^ 32)⟩
    s.setDie dk { s.die dk with recov := match r.queue with
      | c :: rest => ⟨1, c, rest, 0⟩
      | [] => ⟨0, 0, [], 0⟩ }

def execRecoveryReport (s : State) : Out := .next (s.recReport s.arg.key)

/-! ### Register writes -/

/-- GAL_ID_WRITE (R402). -/
def execGalIdWrite (s : State) : Out := .next (s.galIdWrite s.arg.key s.arg.val.toNat)

/-- REC_DECLARE (R423). -/
def execRecDeclare (s : State) : Out := .next (s.recDeclare s.arg.key (s.arg.val.toNat % 2 ^ 32))

/-- REC_READMIT (R431). -/
def execRecReadmit (s : State) : Out := .next (s.recReadmit s.arg.key (s.arg.val.toNat % 2 ^ 32))

/-- FIREWALL_WRITE (R416). -/
def execFirewallWrite (s : State) : Out :=
  .next (if s.arg.sub = 0x0830 ∨ (0x1000 ≤ s.arg.sub ∧ s.arg.sub < 0x3000 ∧ (devWidth s.arg.sub).isSome) then
      s.firewallWrite s.arg.key s.arg.sub s.arg.val.toNat else s)

/-- RDIR_QUERY (R433). -/
def execRdirQuery (s : State) : Out := .next (s.rdirQuery s.arg.key s.arg.val.toNat)

/-- REGISTER_WRITE (R347): a write by an agent of the die's own package. -/
def execRegisterWrite (s : State) : Out := .next (s.devWrite (s.arg.key / 4) s.arg.key s.arg.sub s.arg.val.toNat)

end Sys2Proof.Machine
end

