-- ==== Sys2Proof/Machine/System.lean ====
section
/-! DEFINITION. System registers, supervisor call and return, waiting on memory, translation drops, software trace, self-test,
energy (R42 to R44, R276 to R284), `ext` without its instruction, words that are no instruction, fetch faults (R64, R76, R136). -/

namespace Sys2Proof.Machine

/-! ### System registers (Tables 1-8 to 1-10, 10-3, 14-6, 15-1) -/

/-- Width of a system register; none where the number is absent (R42). -/
def sysWidth (n : Nat) : Option Nat :=
  if n < 0x100 then
    if n = 2 ∨ n = 3 ∨ n = 8 then some 64 else if n ≤ 8 then some 32 else none
  else if n < 0x200 then (if n ≤ 0x103 then some 64 else none)
  else if n < 0x300 then (if n = 0x201 then some 32 else if n ≤ 0x203 then some 64 else none)
  else if n < 0x400 then (if n = 0x301 then some 64 else if n ≤ 0x303 then some 32 else none)
  else if n < 0x500 then (if n = 0x400 ∨ n = 0x403 then some 32 else if n ≤ 0x404 then some 64 else none)
  else if n < 0x600 then (if n = 0x503 then some 32 else if n ≤ 0x502 then some 64 else none)
  else if n < 0x700 then (if n ≤ 0x602 then some 32 else none)
  else if n < 0x800 then (if n ≤ 0x707 ∨ (0x710 ≤ n ∧ n ≤ 0x73F) then some 64 else none)
  else none

/-- A user group may read the register (Table 1-8). -/
def userReads (n : Nat) : Bool := decide (n < 0x300) || (decide (0x500 ≤ n) && decide (n < 0x600))

/-- The register is read-only in itself (R42). -/
def sysReadOnly (n : Nat) : Bool :=
  decide (n < 0x100) || n == 0x303 || n == 0x404 || n == 0x500 || n == 0x501 || n == 0x503 || decide (0x700 ≤ n)

/-- The charge of a launch: the energy of the cores by its issue cycles, of the engines by its request bytes, of L2, DRAM and the
network by its L2 requests, each of the die's total; the sum rounded down (R452). -/
def chargeOf (es w total : Nat × Nat × Nat) : Nat :=
  let c := max 1 total.1
  let b := max 1 total.2.1
  let l := max 1 total.2.2
  (es.1 * w.1 * b * l + es.2.1 * w.2.1 * c * l + es.2.2 * w.2.2 * c * b) / (c * b * l)

/-- Energy used up to now becomes visible: what the cores, the engines and the memories have used is a free amount, added to the
die's counters and charged to its launches by their work (R452). DESIGN CHOICE: log entry 6. -/
def State.meter (s : State) (dk : Nat) : State :=
  let room := 2 ^ 64 - 1 - max (s.sysReg dk 0x500).toNat (s.sysReg dk 0x501).toNat
  let cut := fun (point : Nat) => (Config.free point s.steps).toNat % (room / 3 + 1)
  let es := (cut 4, cut 7, cut 19)
  let used := BitVec.ofNat 64 (es.1 + es.2.1 + es.2.2)
  let work := (s.die dk).work
  let total := work.foldl (fun t w => (t.1 + w.2.1, t.2.1 + w.2.2.1, t.2.2 + w.2.2.2)) (0, 0, 0)
  let s := (s.setSysReg dk 0x500 (s.sysReg dk 0x500 + used)).setSysReg dk 0x501 (s.sysReg dk 0x501 + used)
  let s := s.setDie dk { s.die dk with work := [] }
  { s with launches := s.launches.map fun (l : Nat × Launch) =>
      if l.2.dk = dk then
        let n := chargeOf es ((Store.find l.1 work).getD (0, 0, 0)) total
        (l.1, { l.2 with charge := l.2.charge + n, total := l.2.total + n })
      else l }

/-- Value of a system register as the group in hand reads it. -/
def State.sysRead (s : State) (n : Nat) : DWord :=
  let g := s.g
  let t := s.myTeam
  match n with
  | 0x000 => (s.locWord g.dk g.core g.part g.slot).zeroExtend 64
  | 0x001 => BitVec.ofNat 64 (s.galId g.dk).2
  | 0x002 => t.tidx
  | 0x003 => t.gdim
  | 0x004 => (s.ctxGrp g).zeroExtend 64
  | 0x005 => BitVec.ofNat 64 (if g.depth = 0 then 0 else g.stem + 64 * g.depth)
  | 0x006 => BitVec.ofNat 64 (g.budget + 256 * g.rows.length)
  | 0x007 => if g.priv then 1 else 0
  | 0x008 => BitVec.ofNat 64 (s.cycleOf g.dk)
  | 0x100 => g.heap.base
  | 0x101 => g.heap.limit
  | 0x102 => g.heap.offset
  | 0x103 => g.heap.attr
  | 0x200 => g.trap.pc
  | 0x201 => g.trap.cause.zeroExtend 64
  | 0x202 => g.trap.addr
  | 0x203 => g.trap.info
  | 0x602 => s.sysReg g.dk n &&& ~~~1#64
  | _ =>
    if n < 0x500 then Store.get (fun _ => 0#64) (s.core (coreKey g.dk g.core)).sys n
    else s.sysReg g.dk n

/-- Before a system register is read: the energy counters stand as metered up to now (R452); SAMP.HEAD and TRACE.HEAD are acquires
of what they count (R457, R463). -/
def State.readySys (s : State) (n : Nat) : State :=
  if n = 0x500 ∨ n = 0x501 then s.meter s.g.dk
  else if n = 0x303 ∨ n = 0x404 then s.acquired
  else s

/-- `sysr` (R276). -/
def execSysr (d : Reg) (n : BitVec 12) (s : State) : Out :=
  let i : Instr := .sysr d n
  let num := n.toNat
  let s' := s.readySys num
  issue i [if sysWidth num = some 64 then pair d else one d]
    [(6, (sysWidth num).isNone), (7, !s.g.priv && !userReads num)] s
    (if sysWidth num = some 64 then wbOn i s s' (uniPair d.toNat (s'.sysRead num))
     else wbOn i s s' [(d.toNat, Lanes.uni ((s'.sysRead num).extractLsb' 0 32))])

/-- Bits of a system register that a write stores. -/
def sysMask (n : Nat) : DWord :=
  match n with
  | 0x100 => 0x00FFFFFFFFFF0000
  | 0x101 => 0x00FFFFFFFFFF0000
  | 0x102 => 0xFFFFFFFFFFFF0000
  | 0x103 => 0x003FFFFFFFFFF1FF
  | 0x200 => 0x00FFFFFFFFFFFFFC
  | 0x201 => 0x1FFFFF
  | 0x300 => 0x3F
  | 0x301 => 0x3FFFFFFFFFFFE0
  | 0x302 => 0x1FFFF
  | 0x400 => 1
  | 0x402 => 0x3FFFFFFFFFF000
  | 0x403 => 0xFFFFF000
  | 0x600 => 0xFFFFFF
  | 0x601 => 0xFFFFFFFF
  | _ => 0xFFFFFFFFFFFFFFFF

/-- A voltage offset held within 20 steps (R449). -/
def voltClamp (b : BitVec 8) : BitVec 8 := BitVec.ofInt 8 (max (-20) (min 20 b.toInt))

/-- MARG.VOLT written: each field clamped, reads return the applied value (R449). -/
def State.margVolt (s : State) (dk : Nat) (v : DWord) : State :=
  s.setSysReg dk 0x600 (0#40 ++ voltClamp (v.extractLsb' 16 8) ++ voltClamp (v.extractLsb' 8 8) ++ voltClamp (v.extractLsb' 0 8))

/-- MARG.LRUN written: GO starts a run where MARG.LSEL selects a link (R449); the register holds GO while it runs.
DEDUCED: log entry 30. -/
def State.margLrun (s : State) (dk : Nat) (v : DWord) : State :=
  if v.getLsbD 0 ∧ (s.sysReg dk 0x601).extractLsb' 0 2 ≠ 3#2 then s.setSysReg dk 0x602 1 else s

/-- A MARG register written: those of die 0 are in the locked set (R441). -/
def State.margWrite (s : State) (dk n : Nat) (v : DWord) : State :=
  let k := s.pkg (dk / 4)
  if dk % 4 = 0 ∧ k.tdi ≠ 0 then (if k.tdi = 3 then s else s.setPkg (dk / 4) { k with tdi := 3 })
  else
    match n with
    | 0x600 => s.margVolt dk v
    | 0x601 => s.setSysReg dk 0x601 v
    | _ => s.margLrun dk v

/-- SAMP.CTL or SAMP.SIZE written: the samples due before are taken, and others fall due from now on (R456). -/
def State.sampWrite (s : State) (ck n : Nat) (v : DWord) : State :=
  let s := (if s.sampling ck then s.sampleDue ck else s).setCoreSys ck n v
  s.setCore ck { s.core ck with ticked := s.cycleOf (ck / 96) }

/-- TRACE.CTL written: from 0 to 1 every traced group emits a SYNC (R462). -/
def State.traceCtl (s : State) (ck : Nat) (v : DWord) : State :=
  let was := (s.coreSys ck 0x400).getLsbD 0
  let s := s.setCoreSys ck 0x400 (v &&& 1)
  if v.getLsbD 0 ∧ !was then
    let s := s.setCore ck { s.core ck with synced := [] }
    (s.tracedGroups ck).foldl (fun s g => if (s.core ck).synced.contains g.key then s else s.traceSync ck g) s
  else s

/-- TRACE.CTL written by the group in hand, whose next instruction is the one after (R462). -/
def State.traceCtlHere (s : State) (ck : Nat) (v : DWord) : State :=
  let t := { s with g := { s.g with pc := s.g.pc + 4 } }.traceCtl ck v
  { t with g := s.g }

/-- TRACE.SEL or TRACE.SIZE written: groups that are traced no more emit a SYNC when they are traced again (R462). -/
def State.traceSel (s : State) (ck n : Nat) (v : DWord) : State :=
  let s := s.setCoreSys ck n v
  let c := s.core ck
  s.setCore ck { c with synced := c.synced.filter fun k => s.traced (s.group k) }

/-- A system register written by the group in hand. -/
def State.sysWrite (s : State) (n : Nat) (v : DWord) : State :=
  let g := s.g
  let w := v &&& sysMask n
  let ck := coreKey g.dk g.core
  match n with
  | 0x100 => { s with g := { g with heap := { g.heap with base := w } } }
  | 0x101 => { s with g := { g with heap := { g.heap with limit := w } } }
  | 0x102 => { s with g := { g with heap := { g.heap with offset := w } } }
  | 0x103 => { s with g := { g with heap := { g.heap with attr := w } } }
  | 0x200 => { s with g := { g with trap := { g.trap with pc := w } } }
  | 0x201 => { s with g := { g with trap := { g.trap with cause := w.extractLsb' 0 32 } } }
  | 0x202 => { s with g := { g with trap := { g.trap with addr := w } } }
  | 0x203 => { s with g := { g with trap := { g.trap with info := w } } }
  | 0x300 => s.sampWrite ck n w
  | 0x302 => s.sampWrite ck n w
  | 0x400 => s.traceCtlHere ck w
  | 0x401 => s.traceSel ck n w
  | 0x403 => s.traceSel ck n w
  | 0x600 => s.margWrite g.dk n w
  | 0x601 => s.margWrite g.dk n w
  | 0x602 => s.margWrite g.dk n w
  | _ => if n < 0x500 then s.setCoreSys ck n w else s.setSysReg g.dk n w

/-- `sysw` (R276). -/
def execSysw (d : Reg) (n : BitVec 12) (s : State) : Out :=
  let i : Instr := .sysw d n
  let num := n.toNat
  let wide := sysWidth num = some 64
  issue i [if wide then pair d else one d]
    [(6, (sysWidth num).isNone), (7, !s.g.priv), (8, sysReadOnly num)] s
    (done i (s.sysWrite num (if wide then s.g.u64 d.toNat else (s.g.u d.toNat).zeroExtend 64)))

/-! ### Supervisor call and return (R277 to R279) -/

/-- `svc` (R278). -/
def execSvc (n : BitVec 10) (s : State) : Out :=
  issue (.svc n) [] [] s (takeTrap { plainTrap 11 1 with info := n.zeroExtend 64 } s)

/-- The group of a core that is suspended under a token. -/
def State.suspended (s : State) (dk core : Nat) (token : Word) : Option Group :=
  if token = 0 then none
  else s.allGroups.find? fun g =>
    g.dk = dk && g.core = core && g.token == token && (g.status == .trapped || g.status == .posting)

/-- The team of a group suspended in a trap terminated: its launch records the trap's class and code (R279). -/
def State.killFor (s : State) (g : Group) : State :=
  let c := g.trap.cause
  s.killTeam g.tid (some ⟨1, 0, (c.extractLsb' 0 4).toNat, (c.extractLsb' 4 8).toNat,
    s.unitWord g.dk g.core g.part g.slot 1, g.trap.addr⟩)

/-- The TRAP registers that a mailbox record at an address gives, without the bits that Table 1-10 leaves zero. -/
def State.recordTrap (s : State) (at_ : Nat) : TrapRegs :=
  ⟨BitVec.ofNat 64 (s.rdN at_ 8) &&& 0x00FFFFFFFFFFFFFC, BitVec.ofNat 32 (s.rdN (at_ + 0x18) 4) &&& 0x1FFFFF,
    BitVec.ofNat 64 (s.rdN (at_ + 8) 8), BitVec.ofNat 64 (s.rdN (at_ + 0x10) 8)⟩

/-- Mailbox record `k` acted on (R279): the return from a trap. It is a release toward the group that it resumes, which returns
nothing older than what it has seen before (Table 9-3). -/
def State.rettOn (s : State) (k : Nat) : State :=
  let dk := s.g.dk
  let core := s.g.core
  let at_ := coreAddr dk core (64 * k)
  if !s.isFull (at_ / 16) then s
  else
    let s := s.releaseTo (s.g.release 2)
    let token := BitVec.ofNat 32 (s.rdN (at_ + 0x1C) 4)
    let s' := match s.suspended dk core token with
      | some g =>
        let tr := s.recordTrap at_
        let s := s.setGroup g.key { g with trap := tr }
        if s.rdN (at_ + 0x38) 4 = 0 then
          (s.resumeAt g.key ((BitVec.ofNat 56 (s.rdN (at_ + 0x30) 8)) &&& ~~~3#56)).forget g.key
        else s.killFor { g with trap := tr }
      | none => s
    s'.markSlot dk core k false

/-- `rett` (R279). -/
def execRett (a : Reg) (s : State) : Out :=
  issue (.rett a) [one a] [(7, !s.g.priv)] s
    (done (.rett a) (s.rettOn ((s.g.u a.toNat).extractLsb' 0 6).toNat))

/-! ### Waiting on memory, dropping translations (R280, R281) -/

/-- A mailbox record stands in the core's mailbox. -/
def State.mailHeld (s : State) (dk core : Nat) : Bool := (List.range 64).any fun k => s.isFull (mailGranule dk core k)

/-- `wline` (R280). -/
def execWline (d a b : Reg) (s : State) : Out :=
  let i : Instr := .wline d a b
  let p := (s.g.u64 a.toNat).toNat
  issue i [one d, pair a, one b] [] s
    (s.access ⟨.read, true, true, true, true⟩ [⟨s.g.ulane, p, p, 4, if p % 4 = 0 then [] else [(3, 10)]⟩] (fun s _ => s)
      fun s' accs =>
        let r := s'.readLanes 1 6 accs
        let s' := r.1
        let v := BitVec.ofNat 32 (natLE (r.2.flatMap (·.2)))
        let x := s.g.u b.toNat
        if v ≠ x then wbOn i s s' [(d.toNat, Lanes.uni v)]
        else if s.g.priv ∧ s.mailHeld s.g.dk s.g.core then wbOn i s s' [(d.toNat, Lanes.uni x)]
        else waitFor .wline s')

/-- The die lies in the scope of a `tlbinv` of die `dk`. -/
def State.inScope (s : State) (dk scope other : Nat) : Bool :=
  match scope with
  | 2 => other == dk
  | 3 => other / 4 == dk / 4
  | 4 => other / 4 == dk / 4 || (match s.cellOf dk (other / 4), s.cellOf dk (dk / 4) with
      | some a, some b => a == b
      | _, _ => false)
  | _ => true

/-- A `tlbinv` of a kind names a translation, or a table entry, of the page at `at_` of an address space: kind 0 the page of `va`,
1 one address space, 2 every one (R281). DEDUCED: log entry 12. -/
def dropNames (kind va asn at_ bytes a : Nat) : Bool :=
  match kind with
  | 0 => decide (at_ ≤ va) && decide (va < at_ + bytes)
  | 1 => a == asn
  | _ => true

/-- A leaf of a HOME 1 page, whose lines occupy a slice (R325). -/
def Leaf.pinned (l : Leaf) : Bool := bits l.lo.toNat 10 9 == 1

/-- The slice of a HOME 1 page writes the page's dirty lines back and releases them, where no translation of its frame is left
(R325). -/
def State.unpin (s : State) (l : Leaf) : State :=
  let frame := bits l.lo.toNat 53 16 * 65536
  let u := l2Unit (gaDie frame)
  if !l.pinned ∨ s.tlb.any fun x => x.pinned && bits x.lo.toNat 53 16 * 65536 == frame then s
  else
    (s.inner.filter fun e => e.1 % 2 ^ 20 == u && decide (frame ≤ e.1 / 2 ^ 20 * 128) && decide (e.1 / 2 ^ 20 * 128 < frame + l.bytes)).foldl
      (fun s e => (s.writeBack (e.1 / 2 ^ 20) (· == u)).dropInner (e.1 / 2 ^ 20) (· == u)) s

/-- The translations that `p` picks leave the TLBs. -/
def State.dropLeaves (s : State) (p : Leaf → Bool) : State :=
  (s.tlb.filter p).foldl State.unpin { s with tlb := s.tlb.filter fun l => !p l }

/-- Every access of the groups in a scope that have been translated in the address space, or in any, is performed (R336). -/
def State.settleScope (s : State) (dk kind scope asn : Nat) : State :=
  (s.allGroups.filter fun g => s.inScope dk scope g.dk && (kind != 1 || g.asn == asn)).foldl (fun s g => s.performed g.key) s

/-- Translations and table entries dropped from the TLBs and walker caches in the scope (R281, R336). -/
def State.dropTlb (s : State) (dk kind scope va asn : Nat) : State :=
  let s := s.dropLeaves fun l => s.inScope dk scope l.dk && dropNames kind va asn l.va l.bytes l.asn
  { s with walker := s.walker.filter fun w => !(s.inScope dk scope w.dk && dropNames kind va asn w.va w.bytes w.asn) }

/-- An engine in the scope still has accesses to make through translations that may be dropped (R336, R388). -/
def State.transInUse (s : State) (dk kind scope asn : Nat) : Bool :=
  s.copyHolds (s.inScope dk scope) (fun a => kind != 1 || a == asn) false ||
  s.msgHolds (s.inScope dk scope) (fun a => kind != 1 || a == asn) false

/-- `tlbinv` (R281): it completes once the accesses that engines and groups have translated are performed (R336). -/
def execTlbinv (a b : Reg) (s : State) : Out :=
  let w := s.g.u b.toNat
  let kind := (w.extractLsb' 0 2).toNat
  let scope := (w.extractLsb' 2 3).toNat
  let bad := kind = 3 ∨ scope < 2 ∨ 5 < scope
  let kind := if bad then 2 else kind
  let scope := if bad then 5 else scope
  issue (.tlbinv a b) [pair a, one b] [(7, !s.g.priv)] s
    (if s.transInUse s.g.dk kind scope s.g.asn then waitFor .busy s
     else done (.tlbinv a b) ((s.settleScope s.g.dk kind scope s.g.asn).dropTlb s.g.dk kind scope ((s.g.u64 a.toNat).extractLsb' 0 56).toNat s.g.asn))

/-! ### Software trace, self-test, energy (R282 to R284, R448) -/

/-- `trc` (R282). -/
def execTrc (a : Reg) (s : State) : Out :=
  issue (.trc a) [one a] [] s (done (.trc a) (s.emitUser (bytesLE (s.g.u a.toNat).toNat 4)))

/-- The test applies to the unit (Table 14-5), which is not the issuing core. -/
def bistOk (core test unit : Nat) : Bool :=
  let kind := unit / 4096
  let idx := unit % 4096
  match test, kind with
  | 1, 0 => decide (idx < 96) && idx != core
  | 1, 1 => decide (idx < 192)
  | 2, 0 => decide (idx < 96) && idx != core
  | 3, 0 => decide (idx < 96) && idx != core
  | 4, 2 => decide (idx < 2)
  | 4, 3 => decide (idx < 6)
  | 5, 4 => decide (idx < 32)
  | _, _ => false

/-- `bist` (R283): refused at once, or the test runs until BIST_TEST_COMPLETE. -/
def execBist (d a : Reg) (s : State) : Out :=
  let w := s.g.u a.toNat
  let test := (w.extractLsb' 0 8).toNat
  let unit := (w.extractLsb' 8 16).toNat
  issue (.bist d a) [pair d, one a] [(7, !s.g.priv)] s
    (if bistOk s.g.core test unit then waitFor (.bist d.toNat test unit) s
     else uniWb64 (.bist d a) s d (BitVec.ofNat 64 (2 + 256 * test)))

/-- What `energy` reads (R284, R368). DESIGN CHOICE: log entry 6. -/
def State.energyValue (s : State) (sel : Word) : DWord :=
  match sel.toNat with
  | 0 =>
    match Store.find s.myTeam.lk s.launches with
    | some l =>
      let cap := natLE (slice l.packet 0x3C 4)
      if cap = 0 then BitVec.allOnes 64 else BitVec.ofNat 64 (cap - l.charge)
    | none => Config.free 5 s.steps
  | 1 =>
    match Store.find s.myTeam.lk s.launches with
    | some l => BitVec.ofNat 64 l.total
    | none => Config.free 6 s.steps
  | 2 => s.sysReg s.g.dk 0x500
  | _ => BitVec.allOnes 64

/-- `energy` (R284). -/
def execEnergy (d a : Reg) (s : State) : Out :=
  let s' := s.meter s.g.dk
  issue (.energy d a) [pair d, one a] [] s
    (wbOn (.energy d a) s s' (uniPair d.toNat (s'.energyValue (s.g.u a.toNat))))

/-! ### What is no instruction (R64, R76, R136) -/

/-- The word has an unassigned major opcode (Tables 2-4 and 2-6). -/
def unassigned (w : Word) : Bool := (rowsAt (major w)).isEmpty && major w != 0xFF

/-- The lowest code of an `ext` and the word after it, which do not form an instruction (R46, R63, R64): 1 for an unassigned
major, 2 for a broken payload or word, else 3. -/
def extCode (p : BitVec 24) (w2 : Word) : Nat :=
  if unassigned w2 then 1
  else if p.extractLsb' 22 2 = 3#2 ∨ (p.extractLsb' 22 2 = 1#2 ∧ p.extractLsb' 10 12 ≠ 0#12) then 2
  else if major w2 = 0xFF then 3
  else
    match decodeOne w2 none with
    | .wordNotAnInstruction _ => 2
    | i => if Instr.reserved i then 2 else 3

/-- An `ext` whose second word does not accept it. -/
def execExt (p : BitVec 24) (w2 : BitVec 32) (s : State) : Out :=
  takeTrap ⟨1, extCode p w2, none, false, 0, (0xFF#8 ++ p) ++ w2, 0⟩ s

/-- A word that is no instruction (R76). -/
def execWordNotAnInstruction (w : BitVec 32) (s : State) : Out :=
  takeTrap ⟨1, if unassigned w then 1 else 2, none, false, 0, w.zeroExtend 64, 0⟩ s

/-- A fault in fetching the word (R136). -/
def execInstructionFetchFault (cls : BitVec 4) (code : BitVec 8) (addr info : BitVec 64) (s : State) : Out :=
  takeTrap ⟨cls.toNat, code.toNat, none, false, addr, info, (addr.extractLsb' 0 56).toNat⟩ s

end Sys2Proof.Machine
end

