-- ==== Sys2Proof/Machine/Moves.lean ====
section
/-! DEFINITION. Migration of pages (R345, R346, R427) and moves of L2 buckets (R322, R323), step by step. -/

namespace Sys2Proof.Machine

/-! ### Migration (Table 10-11) -/

/-- MIG_GO (R345). -/
def execMigGo (s : State) : Out := .next (s.migGo s.arg.key s.arg.val.toNat)

/-- The cycle from which the limit of a transaction runs that has queued behind the block of a page until now (R346). -/
def Migration.unqueued (m : Migration) (now since : Nat) : Nat := since + (now - max m.since since)

/-- The time that transactions, requests, messages, collectives and clauses have queued behind the block of a migration does not count
toward their limits (R346): said when it lets them go on. -/
def State.unqueue (s : State) (m : Migration) : State :=
  let on := m.unqueued s.cycle
  let req := fun (t : Team) (r : CopyReq) => if s.copyBlocked r || s.askBlocked r t then { r with since := on r.since } else r
  { s with
    txns := s.txns.map fun (t : Nat × Txn) => (t.1, if s.blocked t.2.ga then { t.2 with since := on t.2.since } else t.2)
    teams := s.teams.map fun (t : Nat × Team) =>
      (t.1, { t.2 with queues := t.2.queues.map fun q => { q with reqs := q.reqs.map (req t.2) } })
    msgs := s.msgs.map fun (x : Nat × Msg) => (x.1, if s.msgBlocked x.2 then { x.2 with since := on x.2.since } else x.2)
    colls := s.colls.map fun (x : Nat × Coll) => (x.1, if s.collBlocked x.2 then { x.2 with since := on x.2.since } else x.2)
    dies := s.dies.map fun (d : Nat × Die) => (d.1, { d.2 with
      runs := d.2.runs.map fun r => if s.runBlocked d.1 r then { r with since := on r.since } else r }) }

/-- The page's translations leave the TLBs, in every die (R345). -/
def State.migDrop (s : State) (m : Migration) : State :=
  s.dropLeaves fun l => bits l.lo.toNat 53 16 * 65536 == m.src && l.bytes == m.bytes

/-- The migration of a die leaves its state with a result, and what queued behind its block goes on. -/
def State.migEnd (s : State) (dk result : Nat) : State :=
  let s := match (s.die dk).mig with
    | some m => s.unqueue m
    | none => s
  (s.setDie dk { s.die dk with mig := none }).migResult dk result

/-- One step of a migration in a phase. With the destination's cell declared dead it ends with RESULT 4, and once the leaf names the
destination no translation of the page is left (R427); with the source's cell declared dead at the destination, or its package
without power, it stands still. -/
def State.migStep (s : State) (dk phase : Nat) (f : State → Migration → State) : State :=
  match (s.die dk).mig with
  | some m =>
    if m.phase ≠ phase ∨ (s.pkg (dk / 4)).dead then s
    else if s.declared dk (gaPkg m.dst) then (if m.phase < 4 then s else s.migDrop m).migEnd dk 4
    else if s.declared (gaDie m.dst) (dk / 4) then s
    else f s m
  | none => s

def State.migPhase (s : State) (dk : Nat) (m : Migration) (phase : Nat) : State :=
  s.setDie dk { s.die dk with mig := some { m with phase := phase } }

/-- Places of a held translation inside the source page, as they are once its leaf names the destination (R345): home 5. -/
def Migration.place (m : Migration) (p : Nat × Nat × Nat) : Nat × Nat × Nat :=
  if p.1 ≠ 4 ∧ m.src ≤ p.2.1 ∧ p.2.1 < m.src + m.bytes then (5, p.2.1 - m.src + m.dst, p.2.2) else p

def Migration.elem (m : Migration) (e : Elem) : Elem :=
  let p := m.place (e.home, e.ga, 0)
  { e with home := p.1, ga := p.2.1 }

/-- The accesses that started requests and accepted messages have still to make are forwarded to the destination (R345), and so are
those of groups that are not performed whole (R315). -/
def State.migRebase (s : State) (m : Migration) : State :=
  let unit := fun (u : CopyUnit) => { u with src := u.src.map m.place, els := u.els.map fun e => (m.elem e.1, e.2) }
  let key := fun (e : (Nat × Nat) × List Byte) =>
    let p := m.place (e.1.1, e.1.2 * 16, 0)
    ((p.1, p.2.1 / 16), e.2)
  let req := fun (r : CopyReq) => { r with units := r.units.map unit, taken := r.taken.map key }
  let group := fun (g : Group) => { g with mo := g.mo.moved m.src m.dst m.bytes }
  { s with
    g := group s.g
    groups := s.groups.map fun (g : Nat × Group) => (g.1, group g.2)
    teams := s.teams.map fun (t : Nat × Team) =>
      (t.1, { t.2 with queues := t.2.queues.map fun q => { q with reqs := q.reqs.map req } })
    dies := s.dies.map fun (d : Nat × Die) => (d.1, { d.2 with
      runs := d.2.runs.map fun r => { r with copy := r.copy.map req } })
    msgs := s.msgs.map fun (x : Nat × Msg) => (x.1, { x.2 with places := x.2.places.map fun ps => ps.map m.place }) }

/-- Accesses through the translations of the page are still to be performed (R336). -/
def State.migInUse (s : State) (m : Migration) : Bool :=
  let inside := fun (p : Nat × Nat × Nat) => p.1 == 5 && decide (m.dst ≤ p.2.1) && decide (p.2.1 < m.dst + m.bytes)
  (s.copyReqs.any fun r => r.2.units.any fun u => u.sources.any inside) ||
  s.msgs.any fun x => !x.2.sent && (x.2.places.getD []).any inside

/-- Some line of `n` bytes from `a` is owned by a copy engine (R311). -/
def State.engineIn (s : State) (a n : Nat) : Bool :=
  s.copyReqs.any fun r => r.2.units.any fun u => u.home != 4 && decide (u.ga < a + n) && decide (a < u.ga + u.len)

/-- The lines of a page that some cache holds, or that DRAM and the caches differ in. -/
def State.copiedIn (s : State) (m : Migration) : List Nat :=
  let all : List Nat := s.dir.map (fun (p : Nat × Dir) => p.1) ++ s.held.map (fun (p : Nat × Nat) => p.1 / 1024) ++
    s.inner.map (fun (p : Nat × Nat) => p.1 / 2 ^ 20) ++ s.snoop.map (fun (p : Nat × (Bool × List Byte)) => p.1 / 8) ++
    s.lag.map (fun (p : Nat × List Byte) => p.1 / 8)
  all.filter fun l => decide (m.src ≤ l * 128) && decide (l * 128 < m.src + m.bytes)

/-- MIGRATION_RECALL: every cached copy of the page is written back and dropped. -/
def State.migRecall (s : State) (m : Migration) : State :=
  let s := s.flushRange m.src m.bytes
  (s.copiedIn m).foldl (fun s l => s.dropCopies l) s

def execMigrationRecall (s : State) : Out :=
  let dk := s.arg.key
  .next (s.migStep dk 1 fun s m =>
    if s.engineIn m.src m.bytes ∨ (s.copiedIn m).any fun l => s.recallStuck l true then s
    else (s.migRecall m).migPhase dk m 2)

/-- MIGRATION_COPY: every line, with its tags, its poison and the releases that cover its bytes, stands at the destination. -/
def State.migCopy (s : State) (m : Migration) : State :=
  let inside := fun (base unit k : Nat) => decide (base ≤ k * unit) && decide (k * unit < base + m.bytes)
  let mem := s.mem.filter fun c => inside m.src 1 c.1
  let tags := s.tags.filter fun c => inside m.src 32 c.1
  let poison := s.poison.filter fun c => inside m.src 128 c.1
  let rels := s.rels.filter fun c => inside m.src 1 c.1
  let s := { s with
    rels := rels.foldl (fun l c => Store.ins (m.dst + (c.1 - m.src)) c.2 l) (s.rels.filter fun c => !inside m.dst 1 c.1)
    mem := s.mem.filter fun c => !inside m.dst 1 c.1
    tags := s.tags.filter fun c => !inside m.dst 32 c.1
    poison := s.poison.filter fun c => !inside m.dst 128 c.1 }
  let s := mem.foldl (fun s c => s.setByte (m.dst + (c.1 - m.src)) c.2) s
  let s := tags.foldl (fun s c => s.setTag (m.dst / 32 + (c.1 - m.src / 32)) c.2) s
  poison.foldl (fun s c => s.setPoison (m.dst / 128 + (c.1 - m.src / 128)) c.2) s

def execMigrationCopy (s : State) : Out :=
  let dk := s.arg.key
  .next (s.migStep dk 2 fun s m => (s.migCopy m).migPhase dk m 3)

/-- MIGRATION_REMAP: the leaf names the destination unless more than A and D of it changed; what arrives at the source from then
on is forwarded. -/
def execMigrationRemap (s : State) : Out :=
  let dk := s.arg.key
  .next (s.migStep dk 3 fun s m =>
    let now : DWord := BitVec.ofNat 64 (s.rdN m.pte 8)
    if (now ^^^ m.old) &&& ~~~0x60#64 ≠ 0#64 then s.migEnd dk 2
    else
      let new := bits now.toNat 63 54 * 2 ^ 54 + m.dst + bits now.toNat 15 0
      (((s.unqueue m).wrN m.pte 8 new).migRebase m).migPhase dk { m with since := s.cycle } 4)

/-- MIGRATION_FORWARD: the page's translations are dropped at gal scope, once what used them has been performed (R336). -/
def execMigrationForward (s : State) : Out :=
  let dk := s.arg.key
  .next (s.migStep dk 4 fun s m =>
    if s.migInUse m then s
    else (s.migDrop m).migPhase dk m 5)

/-- MIGRATION_RELEASE. -/
def execMigrationRelease (s : State) : Out :=
  let dk := s.arg.key
  .next (s.migStep dk 5 fun s _ => s.migEnd dk 1)

/-! ### Buckets (Table 10-2) -/

/-- BUCKET_WRITE (R322, R323). -/
def execBucketWrite (s : State) : Out :=
  .next (if s.arg.sub < 4096 then s.bucketWrite s.arg.key s.arg.sub s.arg.val.toNat else s)

/-- An access served by an L2 slice is counted under its bucket (R322), and for its launch (R452); a slice under test serves none
(R283). -/
def State.sliceServes (s : State) (dk b lk : Nat) : State :=
  let d := s.die dk
  if 4096 ≤ b ∨ s.underTest dk (0x1000 + s.bucket dk b) then s
  else
    let s := s.setDie dk { d with served := Store.ins b ((Store.find b d.served).getD 0 + 1) d.served }
    if ((Store.find lk s.launches).map (·.dk)) = some dk then s.workDone lk 0 0 1 else s

/-- Accesses that a slice has served in the period: of its buckets. -/
def State.sliceLoad (s : State) (dk sl : Nat) : Nat :=
  ((s.die dk).served.filter fun e => s.bucket dk e.1 = sl).foldl (fun n e => n + e.2) 0

/-- The first entry of a list with the greatest, or with the least, count. -/
def mostOf (l : List (Nat × Nat)) : Option (Nat × Nat) :=
  l.foldl (fun b p =>
    match b with
    | some q => if q.2 < p.2 then some p else b
    | none => some p) none
def leastOf (l : List (Nat × Nat)) : Option (Nat × Nat) :=
  l.foldl (fun b p =>
    match b with
    | some q => if p.2 < q.2 then some p else b
    | none => some p) none

/-- The move that the rebalancer asks for at the end of a period: the busiest bucket of the busiest slice goes to the least busy
good slice, when the busiest served more than (1 + THRESH / 16) times the mean of the good slices. DESIGN CHOICE: log entry 75. -/
def State.rebalance (s : State) (dk : Nat) : Option (Nat × Nat) :=
  let good := (List.range 192).filter fun n => !s.sliceBad dk n
  let loads := good.map fun n => (n, s.sliceLoad dk n)
  let total := loads.foldl (fun n l => n + l.2) 0
  match mostOf loads, leastOf loads with
  | some a, some b =>
    if a.2 * 16 * good.length ≤ (16 + bits (s.dev dk 0x0060).toNat 7 4) * total then none
    else (mostOf ((s.die dk).served.filter fun e => s.bucket dk e.1 = a.1)).map fun e => (e.1, b.1)
  | _, _ => none

/-- Cycles of the rebalancer's period (Table 10-10). -/
def State.rebPeriod (s : State) (dk : Nat) : Nat := bits (s.dev dk 0x0060).toNat 31 8 * 256

/-- REBALANCE_PERIOD (R322): a period ends, and the rebalancer asks for a move where one slice is too busy. -/
def execRebalancePeriod (s : State) : Out :=
  let dk := s.arg.key
  let d := s.die dk
  .next (if s.cycle - d.period < s.rebPeriod dk then s
    else
      let more := match s.rebalance dk with
        | some m => if (s.dev dk 0x0060).getLsbD 0 then [m] else []
        | none => []
      s.setDie dk { d with reb := d.reb ++ more, served := [], period := s.cycle })

/-- Bucket of a die offset (R321). -/
def bucketOf (o : Nat) : Nat :=
  let l := bits o 35 7
  (bits l 11 0) ^^^ (bits l 23 12) ^^^ (bits l 28 24)

/-- The bucket holds a line under a migration block of the die. -/
def State.bucketBlocked (s : State) (dk b : Nat) : Bool :=
  match (s.die dk).mig with
  | some m => decide (65536 < m.bytes) || (List.range 512).any fun i => bucketOf (m.src + 128 * i) == b
  | none => false

/-- The L2 of a die writes back its dirty lines of a bucket and drops every copy of the bucket; the lines keep their directory state
(Table 10-2). -/
def State.bucketEmpty (s : State) (dk b : Nat) : State :=
  let u := l2Unit dk
  (s.inner.filter fun e => e.1 % 2 ^ 20 == u && bucketOf (e.1 / 2 ^ 20 * 128) == b).foldl
    (fun s e => (s.writeBack (e.1 / 2 ^ 20) (· == u)).dropInner (e.1 / 2 ^ 20) (· == u)) s

/-- BUCKET_DRAIN (Table 10-2): the move at the head of the queue is carried out; one to the slice in use, or of a bucket that holds
a line in state B, leads back to Idle. -/
def State.bucketDrain (s : State) (dk : Nat) : State :=
  let d := s.die dk
  match d.reb with
  | (b, t) :: rest =>
    if s.bucket dk b = t ∨ s.bucketBlocked dk b then s.setDie dk { d with reb := rest }
    else
      let s := s.bucketEmpty dk b
      let s := s.setDie dk { d with reb := rest, regs := Store.ins (0x4000 + 4 * b) (BitVec.ofNat 64 t) d.regs }
      let v := (s.dev dk 0x0064).toNat
      s.setDev dk 0x0064 (BitVec.ofNat 64 (v % 256 + (v / 256 + 1) % 2 ^ 24 * 256))
  | [] => s

def execBucketDrain (s : State) : Out := .next (s.bucketDrain s.arg.key)

end Sys2Proof.Machine
end

