-- ==== Sys2Proof/Machine/Swap.lean ====
section
/-! DEFINITION. Mailbox posting (R277), frames, swapping and restoring (R52 to R54, R362 to R367), and the choice among the
sources of teams (R354): the steps of the scheduler that save and place teams and groups. -/

namespace Sys2Proof.Machine

/-! ### The mailbox (R277) -/

/-- A record with its posting sequence number in place. -/
def withSeq (r : List Byte) (seq : Word) : List Byte := slice r 0 44 ++ bytesLE seq.toNat 4 ++ r.drop 48

/-- The core's next record posted, if its slot is empty: one that concerns no group, else that of a suspended group. DESIGN
CHOICE: log entry 70. -/
def State.mailPost (s : State) (dk core : Nat) : State :=
  let ck := coreKey dk core
  match (s.core ck).posts with
  | r :: rest =>
    match s.tryPost dk core (withSeq r) [] with
    | some s' => s'.setCore ck { s'.core ck with posts := rest }
    | none => s
  | [] =>
    match s.allGroups.find? fun g => g.dk = dk && g.core = core && g.status == .posting with
    | some g =>
      match s.tryPost dk core (s.groupRecord g) [{ g.release 2 with whole := true }] with
      | some s' => s'.setGroup g.key { g with status := .trapped }
      | none => s
    | none => s

/-- MAILBOX_POST (R277). -/
def execMailboxPost (s : State) : Out := .next (s.mailPost (s.arg.key / 96) (s.arg.key % 96))

/-! ### Rows and frames -/

/-- Work that a frame waits for (R52): matrix operations of the group that can complete, copy requests of it that have
started. -/
def State.frameBusy (s : State) (g : Group) : Bool :=
  g.mat.any (s.canFinish g) || (s.team g.tid).queues.toList.any fun q => q.reqs.any fun r => r.gk == g.key && r.started

/-- A group frame as the group returns from it (R53): prefetch buffers empty. -/
def Group.framed (g : Group) : Group :=
  let g := g.refetch
  match g.status with
  | .paging r => { g with status := .paged r }
  | .rowWait => { g with status := .live, wait := .none }
  | _ => g

/-- Bytes of a group frame whose layout the device keeps to itself: free values. DESIGN CHOICE: log entry 6. -/
def State.privateBytes (s : State) (g : Group) (i n : Nat) : List Byte :=
  (List.range n).map fun j => (Config.free 17 (8192 * (2 ^ 24 * s.steps + g.key) + i + j)).extractLsb' 0 8

/-- A group frame (Table 1-13): registers in order, target registers, masks, pc, scale state, batch counters, placement-free CTX
values, the TRAP registers, fault records and suspension state. Of the TRAP registers the table gives the size alone: they stand in
the order PC, CAUSE, ADDR, INFO, each in 8 bytes. DESIGN CHOICE: log entry 87. -/
def State.frameImage (s : State) (g : Group) : List Byte :=
  ((List.range 128).flatMap fun r => allLanes.flatMap fun i => bytesLE (g.rd r)[i].toNat 4) ++
  (g.targets.toList.flatMap fun t => bytesLE t.value.toNat 8) ++ bytesLE g.exec.toNat 16 ++ bytesLE g.live.toNat 16 ++
  bytesLE g.pc.toNat 8 ++ bytesLE g.mscl.toNat 8 ++ bytesLE g.issued.toNat 4 ++ bytesLE g.done.toNat 4 ++
  s.privateBytes g 0 64 ++
  bytesLE g.trap.pc.toNat 8 ++ bytesLE g.trap.cause.toNat 8 ++ bytesLE g.trap.addr.toNat 8 ++ bytesLE g.trap.info.toNat 8 ++
  s.privateBytes g 64 7976

/-- A group saved not present goes to its group frame at gallery address `at_`; its page is requested only now (R339). -/
def State.saveGroup (s : State) (k at_ : Nat) : State :=
  let g := s.group k
  let s := s.setBytes at_ (s.frameImage g)
  match g.status with
  | .saving va kind =>
    let (s, req) := s.requestPage g.dk va g.asn kind 0 g.core
    s.setGroup k { g.refetch with status := .paged req, wait := .none }
  | _ => s.setGroup k g.framed

/-- `n` bytes of memory copied from `src` to `dst`, which do not overlap. -/
def State.copyBytes (s : State) (src dst n : Nat) : State :=
  let put := s.mem.filter fun c => decide (src ≤ c.1) && decide (c.1 < src + n)
  let s := { s with mem := s.mem.filter fun c => !(decide (dst ≤ c.1) && decide (c.1 < dst + n)) }
  put.foldl (fun s c => s.setByte (c.1 - src + dst) c.2) s

/-- The full/empty bits of `n` granules from `g16` on, as bytes. -/
def State.fullBytes (s : State) (g16 n : Nat) : List Byte :=
  (List.range (n / 8)).map fun k => BitVec.ofNat 8 ((List.range 8).foldl (fun b i => b + if s.isFull (g16 + 8 * k + i) then 2 ^ i else 0) 0)

/-- A team may be swapped: resident, not the supervisor team, not held (R364, R365, R460). -/
def Team.swappable (t : Team) : Bool := t.kind != .supervisor && t.status == .resident && !t.held

/-- The teams of a core that may be swapped, by key. -/
def State.swapTeams (s : State) (dk core : Nat) : List (Nat × Team) :=
  s.teams.filter fun p => p.2.dk = dk && p.2.core = core && p.2.swappable

/-- The team of the list that became resident first. -/
def longest (l : List (Nat × Team)) : Option (Nat × Team) :=
  l.foldl (fun b p =>
    match b with
    | some q => if p.2.since < q.2.since then some p else b
    | none => some p) none

/-- The pool can hold the team's frame in place of the frames of its groups, which it contains (R362, R367). -/
def State.teamRoom (s : State) (tid : Nat) : Bool :=
  let t := s.team tid
  (frameHole ((s.die t.dk).frames.filter fun f => !ofTeam tid f.1) (s.poolSize t.dk) t.frameSize).isSome

/-- A group re-executes its instruction after its register copy fault. -/
def Group.retry (g : Group) : Group := { g with status := .live, wait := .none }

/-- The groups that a team was chosen for re-execute (R365). -/
def State.retryAll (s : State) (ks : List Nat) : State :=
  ks.foldl (fun s k => if (s.group k).status = .rowWait then s.setGroup k (s.group k).retry else s) s

/-- The team frame written (R54, R362): the group frames, the core memory, its full/empty bits; the team takes the place at the
end of its launch's swap queue, one of a stem that no launch made in its die's; groups that waited for its rows re-execute. -/
def State.swapOut (s : State) (tid : Nat) : State :=
  let t := s.team tid
  let a := s.teamBase t
  let s := s.settleTeam tid
  let s := s.flushFills fun g => decide (a / 16 ≤ g) && decide (g < (a + t.bytes) / 16)
  let mem := (s.mem.filter fun c => decide (a ≤ c.1) && decide (c.1 < a + t.bytes)).map fun c => (c.1 - a, c.2)
  let inside := fun (m : List (Nat × Bool)) =>
    (m.filter fun c => decide (a / 16 ≤ c.1) && decide (c.1 < (a + t.bytes) / 16)).map fun c => c.1 - a / 16
  let s := (s.dropFrames t.dk tid).poolTake t.dk (teamFrame tid) t.frameSize
  let at_ := s.frameAddr t.dk (teamFrame tid)
  let core := at_ + t.size * frameBytes
  let s := (s.teamGroups tid).foldl (fun s g => s.saveGroup g.key (at_ + g.gidx * frameBytes)) s
  let s := (s.copyBytes a core t.bytes).setBytes (core + t.bytes) (s.fullBytes (a / 16) (t.bytes / 16))
  let s := s.setTeam tid { t with
    status := .swapped, yielded := false, leaving := false, lfor := [], frame := mem, frameFull := inside s.full,
    frameBad := inside s.bad }
  let s := if t.lk = 0 then s.setDie t.dk { s.die t.dk with strayq := (s.die t.dk).strayq ++ [tid] }
    else s.launchUpdate t.lk fun l => { l with swapq := l.swapq ++ [tid] }
  s.retryAll t.lfor

/-- A team can be saved now: nothing of it is awaited (R52). -/
def State.canSave (s : State) (tid : Nat) : Bool := !((s.teamGroups tid).any s.frameBusy)

/-- A team chosen to be swapped: saved, or stopped at its boundaries until what its frame waits for has completed (R52). -/
def State.swapChosen (s : State) (tid : Nat) : State :=
  if s.canSave tid then s.swapOut tid else s.setTeam tid { s.team tid with leaving := true }

/-- The team of a core that is chosen already and waits to be saved. -/
def State.leaver (s : State) (dk core : Nat) : Option Nat := ((s.swapTeams dk core).find? fun p => p.2.leaving).map (·.1)

/-! ### The register copy fault (R365) -/

/-- REGISTER_COPY_REEXECUTE (R21, R365): the longest-resident other team of the core, else the group's own, is swapped; the instruction
is re-executed once its frame has been written, by whatever step that is. -/
def State.rowRetry (s : State) (k : Nat) : State :=
  let g := s.group k
  if g.status ≠ .rowWait then s
  else
    let cands := (s.swapTeams g.dk g.core).filter fun p => p.1 ≠ g.tid
    let own := s.team g.tid
    let victim := (((s.swapTeams g.dk g.core).find? fun p => p.2.lfor.contains k).orElse fun _ => longest cands).map (·.1) |>.orElse
      fun _ => if own.swappable then some g.tid else none
    match victim with
    | some tid =>
      if !s.teamRoom tid then
        (if g.priv then (if s.rowsFree g.dk g.core g.part = 0 then s else s.setGroup k g.retry)
         else
          let s := s.setDev g.dk 0x0420 (s.dev g.dk 0x0420 ||| 0x100)
          let me := s.g.key
          ((s.take k).suspend (plainTrap 7 1)).take me)
      else
        let t := s.team tid
        (s.setTeam tid { t with lfor := t.lfor.filter (· != k) ++ [k] }).swapChosen tid
    | none => if s.rowsFree g.dk g.core g.part = 0 then s else s.setGroup k g.retry

def execRegisterCopyReexecute (s : State) : Out := .next (s.rowRetry s.arg.key)

/-! ### Restoring (R53, R54, R363, R367) -/

/-- The group holds no slot in its team's frame: it is saved to a group frame, or has not ended its wait for one. -/
def Group.away (g : Group) : Bool :=
  match g.status with
  | .paged _ => true
  | _ => false

/-- A team placed again from its frame (R54): core memory, full/empty bits, every group in a free slot of its partition, its
prefetch windows empty (R53, R140, R154). -/
def State.restoreTeam (s : State) (tid core : Nat) : Option State :=
  let t := s.team tid
  let all := (s.teamGroups tid).filter fun g => !g.away
  let img := t.img.bind fun n => (s.stemAt t.dk n).map fun st => (n, st.image)
  match s.slotsFor t.dk core (all.map fun g => (g.role, g.ridx, g.part)), s.roomFor t.dk core t.bytes (t.img.getD 64) with
  | some slots, some (s, base) =>
    let s := s.dropFrames t.dk tid
    let s := s.clearCore t.dk core base t.bytes
    let a := coreAddr t.dk core base
    let s := t.frame.foldl (fun s c => s.setByte (a + c.1) c.2) s
    let s := t.frameFull.foldl (fun s n => s.setFull (a / 16 + n) true) s
    let s := t.frameBad.foldl (fun s n => s.setBad (a / 16 + n) true) s
    let s := (all.zip slots).foldl (fun s p =>
      let g := s.group p.1.key
      let back := g.status == .returning
      s.setGroup g.key { g.refetch with
        core := core, slot := p.2, status := if back then .live else g.status, wait := if back then .none else g.wait }) s
    let s := all.foldl (fun s g => s.unsync (coreKey t.dk core) g.key) s
    let s := ((s.teamGroups tid).filter Group.away).foldl (fun s g =>
      let s := s.poolTake t.dk (groupFrame g.key) frameBytes
      (s.setBytes (s.frameAddr t.dk (groupFrame g.key)) (s.frameImage g)).setGroup g.key { g with core := core }) s
    let s := s.setTeam tid { t with
      status := .resident, core := core, base := base, since := s.cycle, frame := [], frameFull := [], frameBad := [] }
    let s := (s.unswap tid).launchUpdate t.lk fun l => { l with swapTurn := false }
    let shared := match img with
      | some (n, image) => if t.blocks.isEmpty then some s else s.giveImage t.dk core n image
      | none => some s
    shared.bind fun s => if s.rowsOk t.dk core then some s else none
  | _, _ => none

/-! ### The choice among the sources (R354) -/

/-- A swapped team restored where it may be (R363): on the core it was swapped from when it is pinned, else in its launch's
rectangle; a grid prologue goes to any core (R359). DEDUCED: log entry 27. -/
def State.restoreOn (s : State) (l : Launch) (tid core : Nat) : Option State :=
  let t := s.team tid
  if t.status = .swapped ∧ (t.kind = .prologue ∨ l.coreOk core) ∧ (!t.pinned ∨ core = t.core) then s.restoreTeam tid core else none

/-- The head of a source of a launch placed on a core: 1 the bin queue, 2 the swap queue, 3 the share. -/
def State.placeHead (s : State) (lk : Nat) (l : Launch) (src core : Nat) : Option State :=
  match src with
  | 1 => if l.coreOk core then s.dispatchBin lk l core else none
  | 2 => l.swapq.head?.bind fun tid => s.restoreOn l tid core
  | 3 => if l.coreOk core then s.dispatchShare lk l core else none
  | _ => none

/-- The head of a die's queue of swapped teams of stems that no launch made, restored on a core. -/
def State.restoreStray (s : State) (dk core : Nat) : Option State :=
  (s.die dk).strayq.head?.bind fun tid =>
    if (s.team tid).status = .swapped ∧ (!(s.team tid).pinned ∨ core = (s.team tid).core) then s.restoreTeam tid core else none

/-- What a core serves next (R354): of the first launch in rotation whose head it can take, the source and the state after; the
bin launches of stems that no launch made come first, then their swapped teams. DESIGN CHOICE: log entry 45. -/
def State.nextServed (s : State) (dk core : Nat) : Option (Nat × State) :=
  if !s.coreTakes dk core ∨ s.stopFirst dk core then none
  else
    ((s.dispatchStray dk core).map fun x => (1, x)).orElse fun _ => ((s.restoreStray dk core).map fun x => (2, x)).orElse fun _ =>
      (s.die dk).launches.findSome? fun lk =>
        (Store.find lk s.launches).bind fun l =>
          if !s.admitted lk l then none
          else (s.placeHead lk l l.source core).map fun (x : State) => (l.source, x.rotateLaunch dk lk)

/-- TEAM_DISPATCH: a team of a share or a bin group, where that is what the core serves next (R353, R354). -/
def State.tryDispatch (s : State) (dk core : Nat) : Option State :=
  match s.nextServed dk core with
  | some (src, x) => if src = 2 then none else some x
  | none => none

def State.teamDispatch (s : State) (dk core : Nat) : State := (s.tryDispatch dk core).getD s

/-- TEAM_DISPATCH (R353). -/
def execTeamDispatch (s : State) : Out := .next (s.teamDispatch s.arg.key s.arg.sub)

/-- TEAM_RESTORE: the swapped team that a core serves next (R354), or that a team stop waits for (R460). -/
def State.tryRestore (s : State) (tid core : Nat) : Option State :=
  let t := s.team tid
  if s.stopWaits t.dk = some tid then
    (Store.find t.lk s.launches).bind fun l =>
      if s.coreTakes t.dk core ∧ s.admitted t.lk l then
        (s.restoreOn l tid core).map fun (x : State) => x.rotateLaunch t.dk t.lk
      else none
  else
    match s.nextServed t.dk core with
    | some (src, x) => if src = 2 ∧ (x.team tid).status = .resident ∧ t.status = .swapped then some x else none
    | none => none

def execTeamRestore (s : State) : Out := .next ((s.tryRestore s.arg.key s.arg.sub).getD s)

/-- GROUP_FRAME_WRITE (R52, R339): the group leaves its slot. -/
def execGroupFrameWrite (s : State) : Out :=
  let k := s.arg.key
  let s := s.settleMem k
  let g := s.group k
  .next (match g.status with
    | .saving _ _ => if s.frameBusy g then s else s.saveGroup k (s.frameAddr g.dk (groupFrame k))
    | .paging r =>
      if s.frameBusy g then s
      else (s.setBytes (s.frameAddr g.dk (groupFrame k)) (s.frameImage g)).setGroup k
        { g.refetch with status := .paged r, wait := .none }
    | _ => s)

/-- GROUP_FRAME_RESTORE (R53, R367): the group takes a free slot of its partition and re-executes. -/
def State.frameRestore (s : State) (k : Nat) : State :=
  let g := s.group k
  if g.status ≠ .returning ∨ (s.team g.tid).status ≠ .resident then s
  else
    match s.freeSlot g.dk g.core g.part with
    | some n =>
      let t := ((s.setGroup k { g.refetch with slot := n, status := .live, wait := .none }).poolGive g.dk (groupFrame k)).unsync
        (coreKey g.dk g.core) k
      if t.rowsOk g.dk g.core then t else s
    | none => s

def execGroupFrameRestore (s : State) : Out := .next (s.frameRestore s.arg.key)

/-! ### The quantum (R364) -/

/-- A wait of R364's first choice. -/
def Wait.idle (w : Wait) : Bool :=
  match w with
  | .bar _ _ => true
  | .ldcw => true
  | .wline => true
  | .freezing => true
  | .room => true
  | .mwait => true
  | .cwait => true
  | _ => false

/-- SCHED.QUANTUM in cycles (Table 11-8). -/
def State.quantum (s : State) (dk : Nat) : Nat :=
  let q := bits (s.dev dk 0x0418).toNat 15 0
  1500 * (if q = 0 then 1000 else q)

/-- The team that a core gives up, among those resident for at least one quantum, whether or not work of it is in flight
(R364). -/
def State.quantumVictim (s : State) (dk core : Nat) : Option Nat :=
  let cands := (s.swapTeams dk core).filter fun p => decide (s.quantum dk ≤ s.cycle - p.2.since)
  let waiting := cands.filter fun p => (s.teamGroups p.1).all fun g => g.status == .live && g.wait.idle
  let yielded := cands.filter fun p => p.2.yielded
  ((longest waiting).orElse fun _ => (longest yielded).orElse fun _ => longest cands).map (·.1)

/-- A source of a launch holds a head: 1 the bin queue, 2 the swap queue, 3 the share. -/
def Launch.hasHead (l : Launch) (src : Nat) : Bool :=
  !l.ended &&
    match src with
    | 1 => !l.binq.isEmpty
    | 2 => !l.swapq.isEmpty
    | _ => decide (l.next < l.share) && l.pro == 0 && (!l.gridStem || l.stem.isSome)

/-- The die has a team at the head of a source that no core can take (R364), a grid's prologue group among them (R366). -/
def State.headWaits (s : State) (dk : Nat) : Bool :=
  let free := (List.range 96).filter fun c => s.coreTakes dk c
  (!(s.die dk).strays.isEmpty && free.all fun c => (s.dispatchStray dk c).isNone) ||
  (!(s.die dk).strayq.isEmpty && free.all fun c => (s.restoreStray dk c).isNone) ||
  (s.die dk).launches.any fun lk =>
    match Store.find lk s.launches with
    | some l =>
      (s.prologueWaits lk l && free.all fun c => (s.placePrologue lk l c).isNone) ||
      (s.admitted lk l && [1, 2, 3].any fun src => l.hasHead src && free.all fun c => (s.placeHead lk l src c).isNone)
    | none => false

/-- QUANTUM_SWAP (R364, R366): a core swaps out one of its teams while a head waits that no core can take; the team it chose is
saved once its work in flight has completed. -/
def State.quantumSwap (s : State) (dk core : Nat) : State :=
  match s.leaver dk core with
  | some tid => if s.teamRoom tid then s.swapChosen tid else s.setTeam tid { s.team tid with leaving := false }
  | none =>
    if !s.headWaits dk then s
    else
      match s.quantumVictim dk core with
      | some tid => if s.teamRoom tid ∧ s.poolSize dk ≠ 0 then s.swapChosen tid else s
      | none => s

def execQuantumSwap (s : State) : Out := .next (s.quantumSwap (s.arg.key / 96) (s.arg.key % 96))

end Sys2Proof.Machine
end

