-- ==== Sys2Proof/Machine/Teams.lean ====
section
/-! DEFINITION. Team coordination: named barriers and the quota rendezvous, uniform majors 0x69 to 0x6C (R262 to R265). -/

namespace Sys2Proof.Machine

/-- A named barrier of the team in hand. -/
def State.barrier (s : State) (b : BitVec 4) : Barrier := s.myTeam.barriers[b.toNat]

/-- Groups of the team in hand that have not ended. -/
def State.liveCount (s : State) : Nat := ((s.teamGroups s.g.tid).filter Group.running).length

/-- A barrier after one arrival with count operand `c` while `g` groups have not ended; the groups that arrived are noted for
the dump (R262, Table 15-5). The arrival's release `r` joins those of the phase, and with the phase those of the phases that have
completed (R263). -/
def Barrier.arrive (x : Barrier) (c g gidx : Nat) (r : Rel) : Barrier :=
  let c := if c = 0 ∨ g < c then g else c
  let e := if x.e = 0 then c else x.e
  let tags := latest r x.tags
  if e ≤ x.n + 1 then ⟨0, 0, x.p + 1, 0, [], tags.foldl (fun m r => latest r m) x.past⟩
  else ⟨e, x.n + 1, x.p, x.arrived ||| BitVec.twoPow 16 gidx, tags, x.past⟩

/-- The phase that began at `ph` has completed (R262). -/
def phaseDone (p ph : BitVec 16) : Bool := decide (1 ≤ (p - ph).toNat) && decide ((p - ph).toNat < 2 ^ 15)

/-- The group waits at barrier `b` for a phase that has completed there. -/
def Group.barOver (g : Group) (b : BitVec 4) (p : BitVec 16) : Bool :=
  match g.wait with
  | .bar c ph => c == b && phaseDone p ph
  | _ => false

/-- The groups of the team in hand whose phase has completed at barrier `b` wait no more (R262, R263). -/
def State.barOpen (s : State) (b : BitVec 4) : State :=
  let x := s.barrier b
  ((s.teamGroups s.g.tid).filter fun g => g.barOver b x.p).foldl (fun s g =>
    (s.setGroup g.key { s.group g.key with wait := .none }).barEnd g.key x.past) s

/-- An arrival of the group in hand at barrier `b` (R262). -/
def State.arriveAt (s : State) (b : BitVec 4) (w : Word) : State :=
  let t := s.myTeam
  (s.setTeam s.g.tid { t with
    barriers := t.barriers.set b.toNat ((s.barrier b).arrive (w.extractLsb' 0 5).toNat s.liveCount s.g.gidx (s.g.release 1)) }).barOpen b

/-- The group stands after its arrival, before the next instruction (R264); the end of the wait acquires (R263). -/
def barWait (i : Instr) (b : BitVec 4) (ph : BitVec 16) (s : State) : Out :=
  let s' := s.advance i
  let x := s.barrier b
  .next (if phaseDone x.p ph then s'.barEnd s'.g.key x.past else { s' with g := { s'.g with wait := .bar b ph } })

/-- `bar` (R262). -/
def execBar (a b : Reg) (s : State) : Out :=
  let n := (s.g.u a.toNat).extractLsb' 0 4
  issue (.bar a b) [one a, one b] [] s (barWait (.bar a b) n (s.barrier n).p (s.arriveAt n (s.g.u b.toNat)))

/-- `arrive` (R262). -/
def execArrive (d a b : Reg) (s : State) : Out :=
  let n := (s.g.u a.toNat).extractLsb' 0 4
  issue (.arrive d a b) [one d, one a, one b] [] s
    (wbOn (.arrive d a b) s (s.arriveAt n (s.g.u b.toNat)) [(d.toNat, Lanes.uni ((s.barrier n).p.zeroExtend 32))])

/-- `waitb` (R262). -/
def execWaitb (a b : Reg) (s : State) : Out :=
  let n := (s.g.u a.toNat).extractLsb' 0 4
  issue (.waitb a b) [one a, one b] [] s (barWait (.waitb a b) n ((s.g.u b.toNat).extractLsb' 0 16) s)

/-- A quota value is refused (R265): a budget that no role may have, a sum above the team's allotment, or another value than
that of a group that has arrived. -/
def Team.quotaBad (t : Team) (q : Word) : Bool :=
  (List.range 4).any (fun r =>
    let n := quotaByte q r
    if r < t.roles.length then decide (n < 32) || decide (128 < n) || n % 8 != 0 else n != 0) ||
  decide ((t.roles.map fun r => r.1 * r.2).sum < (t.roles.zipIdx.map fun r => r.1.1 * quotaByte q r.2).sum) ||
  t.quota.any fun a => a.2 != q

/-- `quota` (R265). -/
def execQuota (a : Reg) (s : State) : Out :=
  let i : Instr := .quota a
  let q := s.g.u a.toNat
  issue i [one a] [] s
    (if !s.g.mat.isEmpty then waitFor .matrix s
     else if s.myTeam.quotaBad q then takeTrap (plainTrap 7 4) s
     else
      let t := s.myTeam
      let s := s.setTeam s.g.tid { t with quota := t.quota ++ [(s.g.gidx, q)] }
      let s := s.advance i
      .next ({ s with g := { s.g with wait := .quota } }.quotaDone s.g.tid))

end Sys2Proof.Machine
end

