-- ==== Sys2Proof/Machine/Uniform.lean ====
section
/-! DEFINITION. The uniform arithmetic instructions: uniform majors 0x00 to 0x2E. Each reads its sources through U(v), computes
once with the function of its lane form, and writes all 128 lanes (R155, R157, R159 to R171). -/

namespace Sys2Proof.Machine

/-- A uniform instruction on two single registers. -/
def uniTwo (i : Instr) (d a b : Reg) (s : State) (f : Word → Word → Word) : Out :=
  issue i [one d, one a, one b] [] s (uniWb i s d (f (s.g.u a.toNat) (s.g.u b.toNat)))

/-- A uniform instruction on two single registers that also reads its destination. -/
def uniThree (i : Instr) (d a b : Reg) (s : State) (f : Word → Word → Word → Word) : Out :=
  issue i [one d, one a, one b] [] s (uniWb i s d (f (s.g.u a.toNat) (s.g.u b.toNat) (s.g.u d.toNat)))

/-- A uniform instruction on one single register. -/
def uniOne (i : Instr) (d a : Reg) (s : State) (f : Word → Word) : Out :=
  issue i [one d, one a] [] s (uniWb i s d (f (s.g.u a.toNat)))

/-- A uniform instruction on two pairs. -/
def uniPairs (i : Instr) (d a b : Reg) (s : State) (f : DWord → DWord → DWord) : Out :=
  issue i [pair d, pair a, pair b] [] s (uniWb64 i s d (f (s.g.u64 a.toNat) (s.g.u64 b.toNat)))

/-- A uniform conversion (R171). -/
def uniCvt (i : Instr) (srcWide dstWide : Bool) (d a : Reg) (s : State) (f : DWord → DWord) : Out :=
  issue i [wideOpnd dstWide d, wideOpnd srcWide a] [] s
    (if dstWide then uniWb64 i s d (f (s.g.srcBits srcWide a s.g.ulane))
     else uniWb i s d ((f (s.g.srcBits srcWide a s.g.ulane)).extractLsb' 0 32))


/-- `uadd` (R159). -/
def execUadd (m : BitVec 3) (d a b : Reg) (s : State) : Out :=
  uniTwo (.uadd m d a b) d a b s (aluAdd m)

/-- `usub` (R159). -/
def execUsub (m : BitVec 3) (d a b : Reg) (s : State) : Out :=
  uniTwo (.usub m d a b) d a b s (aluSub m)

/-- `umul` (R159). -/
def execUmul (m : BitVec 3) (d a b : Reg) (s : State) : Out :=
  uniTwo (.umul m d a b) d a b s (aluMul m)

/-- `udiv` (R159). -/
def execUdiv (m : BitVec 3) (d a b : Reg) (s : State) : Out :=
  uniTwo (.udiv m d a b) d a b s (aluDiv m)

/-- `urem` (R159). -/
def execUrem (m : BitVec 3) (d a b : Reg) (s : State) : Out :=
  uniTwo (.urem m d a b) d a b s (aluRem m)

/-- `umin` (R159). -/
def execUmin (m : BitVec 3) (d a b : Reg) (s : State) : Out :=
  uniTwo (.umin m d a b) d a b s (aluMin m)

/-- `umax` (R159). -/
def execUmax (m : BitVec 3) (d a b : Reg) (s : State) : Out :=
  uniTwo (.umax m d a b) d a b s (aluMax m)

/-- `umad` (R159). -/
def execUmad (m : BitVec 3) (d a b : Reg) (s : State) : Out :=
  uniThree (.umad m d a b) d a b s (aluMad m)

/-- `ucmp` on 32 bits (R160). -/
def execUcmp (m : BitVec 3) (d a b : Reg) (s : State) : Out :=
  uniTwo (.ucmp m d a b) d a b s fun x y => predWord (intCond m x y)

/-- `uadd.64` (R165). -/
def execUadd64 (m : BitVec 3) (d a b : Reg) (s : State) : Out :=
  uniPairs (.uadd64 m d a b) d a b s (aluAdd64 m)

/-- `usub.64` (R165). -/
def execUsub64 (m : BitVec 3) (d a b : Reg) (s : State) : Out :=
  uniPairs (.usub64 m d a b) d a b s (aluSub64 m)

/-- `ucmp` on 64 bits (R160). -/
def execUcmp64 (m : BitVec 3) (d a b : Reg) (s : State) : Out :=
  issue (.ucmp64 m d a b) [one d, pair a, pair b] [] s
    (uniWb (.ucmp64 m d a b) s d (predWord (intCond m (s.g.u64 a.toNat) (s.g.u64 b.toNat))))

/-- `ulea` (R165). -/
def execUlea (h : BitVec 3) (d a b : Reg) (s : State) : Out :=
  issue (.ulea h d a b) [pair d, pair a, one b] [] s
    (uniWb64 (.ulea h d a b) s d (aluLea h (s.g.u64 a.toNat) (s.g.u b.toNat)))

/-- `uand` (R161). -/
def execUand (d a b : Reg) (s : State) : Out := uniTwo (.uand d a b) d a b s (· &&& ·)

/-- `uor` (R161). -/
def execUor (d a b : Reg) (s : State) : Out := uniTwo (.uor d a b) d a b s (· ||| ·)

/-- `uxor` (R161). -/
def execUxor (d a b : Reg) (s : State) : Out := uniTwo (.uxor d a b) d a b s (· ^^^ ·)

/-- `uandn` (R161). -/
def execUandn (d a b : Reg) (s : State) : Out := uniTwo (.uandn d a b) d a b s (fun x y => x &&& ~~~y)

/-- `ushl` (R161). -/
def execUshl (d a b : Reg) (s : State) : Out := uniTwo (.ushl d a b) d a b s aluShl

/-- `ushr` (R161). -/
def execUshr (d a b : Reg) (s : State) : Out := uniTwo (.ushr d a b) d a b s aluShr

/-- `usar` (R161). -/
def execUsar (d a b : Reg) (s : State) : Out := uniTwo (.usar d a b) d a b s aluSar

/-- `upopc` (R161). -/
def execUpopc (d a : Reg) (s : State) : Out := uniOne (.upopc d a) d a s aluPopc

/-- `uclz` (R161). -/
def execUclz (d a : Reg) (s : State) : Out := uniOne (.uclz d a) d a s aluClz

/-- `uctz` (R161). -/
def execUctz (d a : Reg) (s : State) : Out := uniOne (.uctz d a) d a s aluCtz

/-- `ubfx` (R162). -/
def execUbfx (sg : BitVec 1) (d a b : Reg) (s : State) : Out :=
  uniTwo (.ubfx sg d a b) d a b s (aluBfx (sg == 1#1))

/-- `usel` (R163). -/
def execUsel (d a b : Reg) (x : Option (BitVec 24)) (s : State) : Out :=
  issue (.usel d a b x) [one d, one a, one b, one (extE x)] [] s
    (uniWb (.usel d a b x) s d (aluSel (s.g.u a.toNat) (s.g.u b.toNat) (s.g.u (extE x).toNat)))

/-- `uaddi` (R164). -/
def execUaddi (d a : Reg) (i : BitVec 10) (x : Option (BitVec 24)) (s : State) : Out :=
  uniOne (.uaddi d a i x) d a s fun v => v + immI true i x

/-- `uandi` (R164). -/
def execUandi (d a : Reg) (i : BitVec 10) (x : Option (BitVec 24)) (s : State) : Out :=
  uniOne (.uandi d a i x) d a s fun v => v &&& immI false i x

/-- `uori` (R164). -/
def execUori (d a : Reg) (i : BitVec 10) (x : Option (BitVec 24)) (s : State) : Out :=
  uniOne (.uori d a i x) d a s fun v => v ||| immI false i x

/-- `ushli` (R164). -/
def execUshli (d a : Reg) (i : BitVec 5) (s : State) : Out := uniOne (.ushli d a i) d a s fun v => v <<< i.toNat

/-- `ushri` (R164). -/
def execUshri (d a : Reg) (i : BitVec 5) (s : State) : Out := uniOne (.ushri d a i) d a s fun v => v >>> i.toNat

/-- `usari` (R164). -/
def execUsari (d a : Reg) (i : BitVec 5) (s : State) : Out := uniOne (.usari d a i) d a s fun v => v.sshiftRight i.toNat

/-- `li` (R164). -/
def execLi (d : Reg) (i : BitVec 17) (x : Option (BitVec 24)) (s : State) : Out :=
  issue (.li d i x) [one d] [] s (uniWb (.li d i x) s d (immL i x))

/-- `ufadd.f32` (R166). -/
def execUfaddF32 (m : BitVec 3) (d a b : Reg) (s : State) : Out :=
  uniTwo (.ufaddF32 m d a b) d a b s (w32 (fpAdd f32 m))

/-- `ufmul.f32` (R166). -/
def execUfmulF32 (m : BitVec 3) (d a b : Reg) (s : State) : Out :=
  uniTwo (.ufmulF32 m d a b) d a b s (w32 (fpMul f32 m))

/-- `ufmac.f32` (R166). -/
def execUfmacF32 (m : BitVec 3) (d a b : Reg) (s : State) : Out :=
  uniThree (.ufmacF32 m d a b) d a b s (w32m (fpMac f32 m))

/-- `ucmp.f32` (R103). -/
def execUcmpF32 (m : BitVec 3) (d a b : Reg) (s : State) : Out :=
  uniTwo (.ucmpF32 m d a b) d a b s fun x y => predWord (fpCmp f32 m x.toNat y.toNat)

/-- `ucvt` to f64, f32, f16 or bf16 (R171). -/
def execUcvtToFloat (m : BitVec 3) (d a : Reg) (c : BitVec 4) (t : BitVec 2) (s : State) : Out :=
  uniCvt (.ucvtToFloat m d a c t) (wideSrc c) (t == 0#2) d a s (toFloat m c t)

/-- `ucvt` to an integer type (R171). -/
def execUcvtToInteger (m : BitVec 3) (d a : Reg) (c : BitVec 4) (t : BitVec 3) (s : State) : Out :=
  uniCvt (.ucvtToInteger m d a c t) (wideSrc c) (t.extractLsb' 0 2 == 3#2) d a s (toInteger m c t)

end Sys2Proof.Machine
end

