-- ==== Sys2Proof/Machine/Upkeep.lean ====
section
/-! DEFINITION. Die reset (R51, R443), energy windows and the clock (R368, R453), team stops and dumps (R459 to R461), sampling
(R456 to R458), trace (R462), margining (R449), the spare lane (R446) and the end of a self-test (R283, R448). -/

namespace Sys2Proof.Machine

/-! ### Die reset (R51, R443) -/

/-- What a die's reset removes: its registers, cores, teams, groups, launches, work in flight, translations, tags.
DESIGN CHOICE: log entry 53. -/
def State.wipeDie (s : State) (dk : Nat) : State :=
  let s := if s.g.dk = dk then s.take (16 * coreKey dk 0) else s
  let onDie := fun (k : Nat) => (s.team k).dk = dk
  let tids := (s.teams.filter fun t => t.2.dk = dk).map (·.1)
  let fuses := (s.die dk).sys.filter fun r => 0x700 ≤ r.1
  let at_ := fun (ga : Nat) => gaDie ga = dk
  let s := { s with
    groups := s.groups.filter fun g => !(g.2.dk = dk && onDie (g.1 / 16))
    teams := s.teams.filter fun t => !tids.contains t.1
    cores := s.cores.filter fun c => c.1 / 96 != dk
    launches := s.launches.filter fun l => l.2.dk != dk
    homes := s.homes.filter fun h => h.2.dk != dk
    reports := s.reports.filter fun r => r.home != dk && r.die != dk
    msgs := s.msgs.filter fun m => m.2.dk != dk
    colls := s.colls.filter fun c => !(c.2.members.any fun m => m.dk == dk)
    txns := s.txns.filter fun t => (s.group t.2.gk).dk != dk
    tlb := s.tlb.filter fun l => l.dk != dk
    walker := s.walker.filter fun w => w.dk != dk
    tags := s.tags.filter fun t => !at_ (t.1 * 32)
    full := s.full.filter fun t => !at_ (t.1 * 16)
    bad := s.bad.filter fun t => !at_ (t.1 * 16)
    mem := s.mem.filter fun c => !(gaRegion c.1 = 1 && at_ c.1)
    fills := s.fills.filter fun g => !at_ (g * 16)
    rels := s.rels.filter fun e => !at_ e.1
    scs := s.scs.filter fun r => r.agent.dk != dk
    inner := s.inner.filter fun e => unitDie (e.1 % 2 ^ 20) != dk && !at_ (e.1 / 2 ^ 20 * 128)
    snoop := s.snoop.filter fun e => !at_ (e.1 * 16)
    lag := s.lag.filter fun e => !at_ (e.1 * 16)
    held := s.held.filter fun h => !at_ (h.1 / 1024 * 128)
    dirUse := s.dirUse.filter fun d => !at_ (d.1 * 128)
    dir := s.dir.filter fun d => !at_ (d.1 * 128) }
  s.setDie dk { Die.reset with sys := fuses, epoch := s.cycle }

/-- The supervisor groups of the good cores start at the image's entry. -/
def State.startDie (s : State) (dk : Nat) (entry : DWord) : State :=
  (List.range 96).foldl (fun s c =>
    let g := supervisorGroup dk c entry
    s.setGroup g.key (if s.coreBad dk c then { g with status := .ended } else g)) s

/-- DIE_RESET: the image, verified by the boot ROM and of a version that the fused rollback counter lets pass, is copied to offset 0 of
DRAM and the supervisors start; an image that is refused leaves the die in reset, and while one of the package is, the TDI stays in
ERROR (R443). DESIGN CHOICE: log entry 2. -/
def State.dieReset (s : State) (dk : Nat) (ok : Bool) (version : Nat) (image : List Byte) : State :=
  let s := s.wipeDie dk
  let p := dk / 4
  let k := s.pkg p
  let s := if dk % 4 = 0 then s.setPkg p { Package.reset with leaf := k.leaf, rollback := k.rollback, out := k.out }
    else s.setPkg p { k with dead := false }
  let entry := natLE (slice image 0 8)
  let s :=
    if ok ∧ k.rollback ≤ version ∧ entry % 4 = 0 then
      ((s.setDie dk { s.die dk with digest := shake256 image }).setBytes (dramAddr dk 0) image).startDie dk (BitVec.ofNat 64 entry)
    else s.setDie dk { s.die dk with inReset := true }
  if s.heldError p then s.setPkg p { s.pkg p with tdi := 3 } else s

def execDieReset (s : State) : Out := .next (s.dieReset s.arg.key s.arg.flag s.arg.num s.arg.data)

/-! ### Energy (R368, R453) -/

/-- The energy window of the die's present cycle: windows are 1,500,000 cycles (R368). -/
def State.windowNow (s : State) (dk : Nat) : Nat := s.cycleOf dk / 1500000

/-- A new window begins once CTX.CYCLE has passed its multiple: charges start at 0 and the clock is restored. -/
def State.newWindow (s : State) (dk : Nat) : State :=
  if s.windowNow dk = (s.die dk).window then s
  else
    let n := s.windowNow dk
    let s := (s.setSysReg dk 0x500 0).setSysReg dk 0x503 1500
    let s := s.setDie dk { s.die dk with window := n }
    { s with launches := s.launches.map fun (l : Nat × Launch) => if l.2.dk = dk then (l.1, { l.2 with charge := 0 }) else l }

/-- ENERGY_WINDOW. -/
def execEnergyWindow (s : State) : Out := .next (s.newWindow s.arg.key)

/-- CLOCK_THROTTLE: the clock is lowered by 100 MHz, to no less than 600 MHz. -/
def execClockThrottle (s : State) : Out :=
  let dk := s.arg.key
  .next (s.setSysReg dk 0x503 (BitVec.ofNat 64 (max 600 ((s.sysReg dk 0x503).toNat - 100))))

/-! ### Team stops (R459 to R461) -/

/-- DBG_STOP. -/
def execDbgStop (s : State) : Out := .next (s.dbgStop s.arg.key s.arg.val.toNat)

/-- DBG_ATTACH. -/
def execDbgAttach (s : State) : Out := .next (s.dbgAttach s.arg.key)

/-- DBG_STEP. -/
def execDbgStep (s : State) : Out := .next (s.dbgStepOp s.arg.key)

/-- DBG_RESUME. -/
def execDbgResume (s : State) : Out := .next (s.dbgResume s.arg.key)

/-- DBG_TERMINATE. -/
def execDbgTerminate (s : State) : Out := .next (s.dbgTerminate s.arg.key)

/-- DBG.HOLD in cycles (Table 15-4). -/
def State.holdLimit (s : State) (dk : Nat) : Nat :=
  let q := bits (s.dev dk 0x0A20).toNat 15 0
  1500000 * (if q = 0 then 1000 else q)

/-- HOLD_LIMIT_EXPIRY: once the limit has passed in state 2, the team resumes. -/
def execHoldLimitExpiry (s : State) : Out :=
  let dk := s.arg.key
  .next (if s.dbgState dk = 2 ∧ s.holdLimit dk ≤ s.cycle - (s.die dk).dbgSince then s.dbgResume dk else s)

/-- A barrier as the dump holds it. -/
def dumpBarrier (b : Barrier) : List Byte :=
  bytesLE (b.e % 32 + b.n % 32 * 2 ^ 8 + b.p.toNat * 2 ^ 16 + b.arrived.toNat * 2 ^ 32) 8

/-- A group's entry of the dump: STALL 1, stopped by a team stop. -/
def State.dumpGroup (s : State) (g : Group) : List Byte :=
  bytesLE g.pc.toNat 8 ++ bytesLE g.exec.toNat 16 ++ bytesLE g.live.toNat 16 ++ bytesLE (s.ctxGrp g).toNat 4 ++ bytesLE 1 4 ++
  bytesLE g.trap.cause.toNat 4 ++ bytesLE g.budget 4 ++ bytesLE g.issued.toNat 4 ++ bytesLE g.done.toNat 4

/-- The dump of a team (Table 15-5). -/
def State.dumpTeam (s : State) (dk tid : Nat) (full : Bool) : List Byte :=
  let t := s.team tid
  let gs := (List.range t.size).map fun j => s.group (16 * tid + j)
  bytesLE (s.lidOf tid + (t.size - 1) % 16 * 2 ^ 32 + (if full then 2 ^ 36 else 0)) 8 ++ bytesLE t.tidx.toNat 8 ++
  bytesLE (s.cycleOf dk) 8 ++ bytesLE 0 40 ++ t.barriers.toList.flatMap dumpBarrier ++ gs.flatMap s.dumpGroup ++
  (if full then gs.flatMap fun g => (List.range g.budget).flatMap fun r => (g.rd r).toList.flatMap fun w => bytesLE w.toNat 4
   else [])

/-- The dump written to DBG.DUMP. -/
def State.writeDump (s : State) (dk : Nat) : State :=
  let d := s.die dk
  s.setBytes (bits (s.dev dk 0x0A10).toNat 53 7 * 128) (s.dumpTeam dk d.dbgTeam d.dbgFull)

/-- The step of a held team is over (R460). -/
def State.endStep (s : State) (dk : Nat) : State :=
  (s.setDie dk { s.die dk with dbgStep := none }).unsyncTeam (s.die dk).dbgTeam

/-- TEAM_STOP_EFFECT (R460, R461): the team stands at its boundaries, the dump is written, then the state and the record; after
a step the dump is written again. -/
def State.stopEffect (s : State) (dk : Nat) : State :=
  let d := s.die dk
  let t := s.team d.dbgTeam
  match s.dbgState dk with
  | 1 =>
    if t.status = .retired then s.setDbg dk 4
    else if t.status = .swapped then s
    else
      let s := s.settleTeam d.dbgTeam
      let s := s.setTeam d.dbgTeam { s.team d.dbgTeam with held := true }
      let s := s.unsyncTeam d.dbgTeam
      let s := (s.writeDump dk).setDbg dk 2
      let s := s.setDie dk { s.die dk with dbgSince := s.cycle }
      s.postNote dk (s.firstCore dk) ⟨0, BitVec.ofNat 32 (10 + 2 * 16), s.dev dk 0x0A10, 0⟩
  | 3 => if t.held ∧ d.dbgStep = some [] then ((s.settleTeam d.dbgTeam).writeDump dk).endStep dk else s
  | _ => s

def execTeamStopEffect (s : State) : Out := .next (s.stopEffect s.arg.key)

/-! ### Sampling (R456), tracing (R462) -/

/-- SAMPLE_TICK (R456), where sampling is enabled. -/
def execSampleTick (s : State) : Out :=
  let ck := s.arg.key
  .next (if s.sampling ck then s.sampleDue ck else s)

/-- TRACE_ENABLE (R462). -/
def execTraceEnable (s : State) : Out := .next (s.traceCtl s.arg.key (s.arg.val &&& 1))

/-! ### Margining (R449) -/

/-- MARG_VOLT. -/
def execMargVolt (s : State) : Out := .next (s.margWrite s.arg.key 0x600 (s.arg.val &&& 0xFFFFFF))

/-- MARG_LRUN. -/
def execMargLrun (s : State) : Out := .next (s.margWrite s.arg.key 0x602 s.arg.val)

/-- MARGIN_RUN_DONE: the run's errors, saturating. -/
def execMarginRunDone (s : State) : Out :=
  let dk := s.arg.key
  .next (if s.sysReg dk 0x602 = 1 then s.setSysReg dk 0x602 (BitVec.ofNat 64 (2 + min s.arg.val.toNat 65535 * 65536)) else s)

/-! ### The spare lane (R446) -/

/-- Bits added to ERR.SPARE. -/
def State.errSpare (s : State) (dk : Nat) (b : DWord) : State := s.setDev dk 0x0938 (s.dev dk 0x0938 ||| b)

/-- A report with LANE valid marks a physical lane: dispatch to the core stops; without a free spare the core is withdrawn. -/
def State.markLane (s : State) (dk core part lane : Nat) : State :=
  let ck := coreKey dk core
  let c := s.core ck
  let part' := 4 * core + part
  let used := c.steered.any (fun x => x.1 == part) || (s.sysReg dk (0x710 + part' / 8)).getLsbD (8 * (part' % 8) + 7)
  if used then (s.setCore ck { c with withheld := true, withdrawn := true }).errSpare dk 2
  else if c.failing.contains (part, lane % 16) then s
  else s.setCore ck { c with withheld := true, failing := c.failing ++ [(part, lane % 16)] }

/-- LANE_SPARE_STEER: with no team left on the core, the lane is steered to the partition's spare and dispatch resumes; a second
lane of the partition withdraws the core. -/
def State.steer (s : State) (dk core part : Nat) : State :=
  let ck := coreKey dk core
  let c := s.core ck
  let busy := s.teams.any fun t => t.2.dk = dk && t.2.core = core && t.2.status == .resident && t.2.kind != .supervisor
  match c.failing.find? fun f => f.1 = part with
  | some f =>
    if busy then s
    else
      let rest := c.failing.filter fun x => x.1 != part
      let second := (c.failing.filter fun x => x.1 = part).length ≠ 1
      let s := s.setCore ck { c with
        steered := c.steered ++ [f], failing := rest, withdrawn := c.withdrawn || second,
        withheld := c.withdrawn || second || !rest.isEmpty }
      s.errSpare dk (if second then 3 else 1)
  | none => s

def execLaneSpareSteer (s : State) : Out := .next (s.steer (s.arg.key / 96) (s.arg.key % 96) s.arg.sub)

/-! ### The end of a self-test (R283, R448) -/

/-- A failed unit is used no more: ERR.SPARE, and a link goes down. -/
def State.failUnit (s : State) (dk unit : Nat) : State :=
  let d := s.die dk
  let s := (s.setDie dk { d with badUnits := d.badUnits ++ [unit] }).errSpare dk 4
  if unit / 4096 = 2 then s.edgeUpdate dk (unit % 2) fun l => { l with up := false, training := false }
  else if unit / 4096 = 3 then
    let d := s.die dk
    s.setDie dk { d with ports := d.ports.mapFinIdx fun i l _ => if i = unit % 4096 then { l with up := false, training := false } else l }
  else s

/-- Packet bytes wait at a station, or are on their way from it (R382). -/
def Station.busy (x : Station) : Bool := !x.wait.isEmpty || x.kept.any fun f => f.2.any (· != 0#8)

/-- The unit under test is not idle (R283): a team resident on the core; packet bytes at a station of the die edge; a request on its
way through the fabric port. An L2 slice and a DRAM channel serve each access within one step. DESIGN CHOICE: log entry 90. -/
def State.unitBusy (s : State) (dk unit : Nat) : Bool :=
  match unit / 4096 with
  | 0 => s.teams.any fun x => x.2.dk = dk && x.2.core = unit && x.2.status == .resident && x.2.kind != .supervisor
  | 2 => (((s.die dk).edges[unit % 4096]?).map fun l => l.stations.toList.any Station.busy).getD false
  | 3 => s.txns.any fun t => decide (t.2.phase ≤ 1) && gaPkg t.2.ga != t.2.src && t.2.src == dk / 4 &&
      s.fabricPort (s.group t.2.gk).dk t.2.ga == dk % 4 * 6 + unit % 4096
  | _ => false

/-- BIST_TEST_COMPLETE: once the unit is idle the test's result is written, and the supervisor goes on. -/
def State.bistDone (s : State) (k n : Nat) : State :=
  let me := s.g.key
  let t := s.take k
  match t.g.wait with
  | .bist d test unit =>
    if t.g.status ≠ .live ∨ t.unitBusy t.g.dk unit then s
    else
      let low : Word := BitVec.ofNat 32 ((if n = 0 then 0 else 1) + 256 * test)
      match t.putRegs [(d, Lanes.uni low), (d + 1, Lanes.uni (BitVec.ofNat 32 (min n 0xFFFFFFFF)))] with
      | some t =>
        let t := { t with g := { t.g with wait := .none, pc := t.g.pc + 4 } }
        (if n = 0 then t else t.failUnit t.g.dk unit).take me
      | none => ({ t with g := { t.g with trap := t.trapRegs (plainTrap 7 1), status := .rowWait, wait := .row } }).take me
  | _ => s

def execBistTestComplete (s : State) : Out := .next (s.bistDone s.arg.key s.arg.val.toNat)

end Sys2Proof.Machine
end

