-- ==== Sys2Proof/Machine/Dispatch.lean ====
section
/-! DEFINITION. One arm per constructor of `Instr`: a call of its meaning. -/

namespace Sys2Proof.Machine

def exec (i : Instr) (s : State) : Host.Outcome State Fault Refusal :=
  match i with
  | .add m d a b => Sys2Proof.Machine.execAdd m d a b s
  | .sub m d a b => Sys2Proof.Machine.execSub m d a b s
  | .mul m d a b => Sys2Proof.Machine.execMul m d a b s
  | .mulh m d a b => Sys2Proof.Machine.execMulh m d a b s
  | .mad m d a b => Sys2Proof.Machine.execMad m d a b s
  | .div m d a b => Sys2Proof.Machine.execDiv m d a b s
  | .rem m d a b => Sys2Proof.Machine.execRem m d a b s
  | .min m d a b => Sys2Proof.Machine.execMin m d a b s
  | .max m d a b => Sys2Proof.Machine.execMax m d a b s
  | .abs m d a => Sys2Proof.Machine.execAbs m d a s
  | .neg m d a => Sys2Proof.Machine.execNeg m d a s
  | .cmp m d a b => Sys2Proof.Machine.execCmp m d a b s
  | .add64 m d a b => Sys2Proof.Machine.execAdd64 m d a b s
  | .sub64 m d a b => Sys2Proof.Machine.execSub64 m d a b s
  | .cmp64 m d a b => Sys2Proof.Machine.execCmp64 m d a b s
  | .lea h d a b => Sys2Proof.Machine.execLea h d a b s
  | .and d a b => Sys2Proof.Machine.execAnd d a b s
  | .or d a b => Sys2Proof.Machine.execOr d a b s
  | .xor d a b => Sys2Proof.Machine.execXor d a b s
  | .andn d a b => Sys2Proof.Machine.execAndn d a b s
  | .shl d a b => Sys2Proof.Machine.execShl d a b s
  | .shr d a b => Sys2Proof.Machine.execShr d a b s
  | .sar d a b => Sys2Proof.Machine.execSar d a b s
  | .rol d a b => Sys2Proof.Machine.execRol d a b s
  | .ror d a b => Sys2Proof.Machine.execRor d a b s
  | .popc d a => Sys2Proof.Machine.execPopc d a s
  | .clz d a => Sys2Proof.Machine.execClz d a s
  | .ctz d a => Sys2Proof.Machine.execCtz d a s
  | .brev d a => Sys2Proof.Machine.execBrev d a s
  | .bfx s0 d a b => Sys2Proof.Machine.execBfx s0 d a b s
  | .bfi d a b => Sys2Proof.Machine.execBfi d a b s
  | .sel d a b x => Sys2Proof.Machine.execSel d a b x s
  | .addi d a k0 x => Sys2Proof.Machine.execAddi d a k0 x s
  | .andi d a k0 x => Sys2Proof.Machine.execAndi d a k0 x s
  | .ori d a k0 x => Sys2Proof.Machine.execOri d a k0 x s
  | .xori d a k0 x => Sys2Proof.Machine.execXori d a k0 x s
  | .shli d a k0 => Sys2Proof.Machine.execShli d a k0 s
  | .shri d a k0 => Sys2Proof.Machine.execShri d a k0 s
  | .sari d a k0 => Sys2Proof.Machine.execSari d a k0 s
  | .muli d a k0 x => Sys2Proof.Machine.execMuli d a k0 x s
  | .shfl m d a b x => Sys2Proof.Machine.execShfl m d a b x s
  | .vote m d a b => Sys2Proof.Machine.execVote m d a b s
  | .red m d a b => Sys2Proof.Machine.execRed m d a b s
  | .scan m d a b => Sys2Proof.Machine.execScan m d a b s
  | .perm d a b x => Sys2Proof.Machine.execPerm d a b x s
  | .faddF32 m d a b => Sys2Proof.Machine.execFaddF32 m d a b s
  | .fsubF32 m d a b => Sys2Proof.Machine.execFsubF32 m d a b s
  | .fmulF32 m d a b => Sys2Proof.Machine.execFmulF32 m d a b s
  | .fmacF32 m d a b => Sys2Proof.Machine.execFmacF32 m d a b s
  | .fminF32 d a b => Sys2Proof.Machine.execFminF32 d a b s
  | .fmaxF32 d a b => Sys2Proof.Machine.execFmaxF32 d a b s
  | .cmpF32 m d a b => Sys2Proof.Machine.execCmpF32 m d a b s
  | .rcpF32 d a => Sys2Proof.Machine.execRcpF32 d a s
  | .rsqF32 d a => Sys2Proof.Machine.execRsqF32 d a s
  | .sqrtF32 d a => Sys2Proof.Machine.execSqrtF32 d a s
  | .exp2F32 d a => Sys2Proof.Machine.execExp2F32 d a s
  | .log2F32 d a => Sys2Proof.Machine.execLog2F32 d a s
  | .tanhF32 d a => Sys2Proof.Machine.execTanhF32 d a s
  | .faddF64 m d a b => Sys2Proof.Machine.execFaddF64 m d a b s
  | .fsubF64 m d a b => Sys2Proof.Machine.execFsubF64 m d a b s
  | .fmulF64 m d a b => Sys2Proof.Machine.execFmulF64 m d a b s
  | .fmacF64 m d a b => Sys2Proof.Machine.execFmacF64 m d a b s
  | .fminF64 d a b => Sys2Proof.Machine.execFminF64 d a b s
  | .fmaxF64 d a b => Sys2Proof.Machine.execFmaxF64 d a b s
  | .cmpF64 m d a b => Sys2Proof.Machine.execCmpF64 m d a b s
  | .faddF16 m d a b => Sys2Proof.Machine.execFaddF16 m d a b s
  | .fmulF16 m d a b => Sys2Proof.Machine.execFmulF16 m d a b s
  | .fmacF16 m d a b => Sys2Proof.Machine.execFmacF16 m d a b s
  | .faddBf16 m d a b => Sys2Proof.Machine.execFaddBf16 m d a b s
  | .fmulBf16 m d a b => Sys2Proof.Machine.execFmulBf16 m d a b s
  | .fmacBf16 m d a b => Sys2Proof.Machine.execFmacBf16 m d a b s
  | .faddF16x2 m d a b => Sys2Proof.Machine.execFaddF16x2 m d a b s
  | .fmulF16x2 m d a b => Sys2Proof.Machine.execFmulF16x2 m d a b s
  | .fmacF16x2 m d a b => Sys2Proof.Machine.execFmacF16x2 m d a b s
  | .faddBf16x2 m d a b => Sys2Proof.Machine.execFaddBf16x2 m d a b s
  | .fmulBf16x2 m d a b => Sys2Proof.Machine.execFmulBf16x2 m d a b s
  | .fmacBf16x2 m d a b => Sys2Proof.Machine.execFmacBf16x2 m d a b s
  | .fminFmaxHalf t x d a b => Sys2Proof.Machine.execFminFmaxHalf t x d a b s
  | .cmpF16 m d a b => Sys2Proof.Machine.execCmpF16 m d a b s
  | .cmpBf16 m d a b => Sys2Proof.Machine.execCmpBf16 m d a b s
  | .cvtToFloat m d a s0 t => Sys2Proof.Machine.execCvtToFloat m d a s0 t s
  | .cvtToInteger m d a s0 t => Sys2Proof.Machine.execCvtToInteger m d a s0 t s
  | .cvtToNarrow m d a s0 t => Sys2Proof.Machine.execCvtToNarrow m d a s0 t s
  | .cvtBf16x2F32 m d a b => Sys2Proof.Machine.execCvtBf16x2F32 m d a b s
  | .cvtF16x2F32 m d a b => Sys2Proof.Machine.execCvtF16x2F32 m d a b s
  | .atomc m d a b => Sys2Proof.Machine.execAtomc m d a b s
  | .clre a k x => Sys2Proof.Machine.execClre a k x s
  | .tagld d a k x => Sys2Proof.Machine.execTagld d a k x s
  | .tagst d a k x => Sys2Proof.Machine.execTagst d a k x s
  | .pclr a k x => Sys2Proof.Machine.execPclr a k x s
  | .cwb s0 a k x => Sys2Proof.Machine.execCwb s0 a k x s
  | .cinv s0 a k x => Sys2Proof.Machine.execCinv s0 a k x s
  | .cflush s0 a k x => Sys2Proof.Machine.execCflush s0 a k x s
  | .pref s0 a k x => Sys2Proof.Machine.execPref s0 a k x s
  | .ldf o s0 d a k x => Sys2Proof.Machine.execLdf o s0 d a k x s
  | .stf o s0 d a k x => Sys2Proof.Machine.execStf o s0 d a k x s
  | .ldS8 o s0 d a k x => Sys2Proof.Machine.execLdS8 o s0 d a k x s
  | .ldN8 o s0 d a k x => Sys2Proof.Machine.execLdN8 o s0 d a k x s
  | .ldS16 o s0 d a k x => Sys2Proof.Machine.execLdS16 o s0 d a k x s
  | .ldN16 o s0 d a k x => Sys2Proof.Machine.execLdN16 o s0 d a k x s
  | .ld32 o s0 d a k x => Sys2Proof.Machine.execLd32 o s0 d a k x s
  | .ld64 o s0 d a k x => Sys2Proof.Machine.execLd64 o s0 d a k x s
  | .ld128 o s0 d a k x => Sys2Proof.Machine.execLd128 o s0 d a k x s
  | .atom32 o s0 d a k x => Sys2Proof.Machine.execAtom32 o s0 d a k x s
  | .st8 o s0 d a k x => Sys2Proof.Machine.execSt8 o s0 d a k x s
  | .st16 o s0 d a k x => Sys2Proof.Machine.execSt16 o s0 d a k x s
  | .st32 o s0 d a k x => Sys2Proof.Machine.execSt32 o s0 d a k x s
  | .st64 o s0 d a k x => Sys2Proof.Machine.execSt64 o s0 d a k x s
  | .st128 o s0 d a k x => Sys2Proof.Machine.execSt128 o s0 d a k x s
  | .atom64 o s0 d a k x => Sys2Proof.Machine.execAtom64 o s0 d a k x s
  | .atom128 o s0 d a k x => Sys2Proof.Machine.execAtom128 o s0 d a k x s
  | .ldc32 o d a k x => Sys2Proof.Machine.execLdc32 o d a k x s
  | .ldc64 o d a k x => Sys2Proof.Machine.execLdc64 o d a k x s
  | .ldc128 o d a k x => Sys2Proof.Machine.execLdc128 o d a k x s
  | .ldcWK32 o d a k x => Sys2Proof.Machine.execLdcWK32 o d a k x s
  | .ldcWK64 o d a k x => Sys2Proof.Machine.execLdcWK64 o d a k x s
  | .ldcWK128 o d a k x => Sys2Proof.Machine.execLdcWK128 o d a k x s
  | .ldcWC32 o d a k x => Sys2Proof.Machine.execLdcWC32 o d a k x s
  | .ldcWC64 o d a k x => Sys2Proof.Machine.execLdcWC64 o d a k x s
  | .ldcWC128 o d a k x => Sys2Proof.Machine.execLdcWC128 o d a k x s
  | .stc32 o d a k x => Sys2Proof.Machine.execStc32 o d a k x s
  | .stc64 o d a k x => Sys2Proof.Machine.execStc64 o d a k x s
  | .stc128 o d a k x => Sys2Proof.Machine.execStc128 o d a k x s
  | .stcF32 o d a k x => Sys2Proof.Machine.execStcF32 o d a k x s
  | .stcF64 o d a k x => Sys2Proof.Machine.execStcF64 o d a k x s
  | .stcF128 o d a k x => Sys2Proof.Machine.execStcF128 o d a k x s
  | .stcT128 d a k x => Sys2Proof.Machine.execStcT128 d a k x s
  | .uadd m d a b => Sys2Proof.Machine.execUadd m d a b s
  | .usub m d a b => Sys2Proof.Machine.execUsub m d a b s
  | .umul m d a b => Sys2Proof.Machine.execUmul m d a b s
  | .umad m d a b => Sys2Proof.Machine.execUmad m d a b s
  | .udiv m d a b => Sys2Proof.Machine.execUdiv m d a b s
  | .urem m d a b => Sys2Proof.Machine.execUrem m d a b s
  | .umin m d a b => Sys2Proof.Machine.execUmin m d a b s
  | .umax m d a b => Sys2Proof.Machine.execUmax m d a b s
  | .ucmp m d a b => Sys2Proof.Machine.execUcmp m d a b s
  | .uadd64 m d a b => Sys2Proof.Machine.execUadd64 m d a b s
  | .usub64 m d a b => Sys2Proof.Machine.execUsub64 m d a b s
  | .ucmp64 m d a b => Sys2Proof.Machine.execUcmp64 m d a b s
  | .ulea h d a b => Sys2Proof.Machine.execUlea h d a b s
  | .uand d a b => Sys2Proof.Machine.execUand d a b s
  | .uor d a b => Sys2Proof.Machine.execUor d a b s
  | .uxor d a b => Sys2Proof.Machine.execUxor d a b s
  | .uandn d a b => Sys2Proof.Machine.execUandn d a b s
  | .ushl d a b => Sys2Proof.Machine.execUshl d a b s
  | .ushr d a b => Sys2Proof.Machine.execUshr d a b s
  | .usar d a b => Sys2Proof.Machine.execUsar d a b s
  | .upopc d a => Sys2Proof.Machine.execUpopc d a s
  | .uclz d a => Sys2Proof.Machine.execUclz d a s
  | .uctz d a => Sys2Proof.Machine.execUctz d a s
  | .ubfx s0 d a b => Sys2Proof.Machine.execUbfx s0 d a b s
  | .usel d a b x => Sys2Proof.Machine.execUsel d a b x s
  | .uaddi d a k0 x => Sys2Proof.Machine.execUaddi d a k0 x s
  | .uandi d a k0 x => Sys2Proof.Machine.execUandi d a k0 x s
  | .uori d a k0 x => Sys2Proof.Machine.execUori d a k0 x s
  | .ushli d a k0 => Sys2Proof.Machine.execUshli d a k0 s
  | .ushri d a k0 => Sys2Proof.Machine.execUshri d a k0 s
  | .usari d a k0 => Sys2Proof.Machine.execUsari d a k0 s
  | .li d k0 x => Sys2Proof.Machine.execLi d k0 x s
  | .ufaddF32 m d a b => Sys2Proof.Machine.execUfaddF32 m d a b s
  | .ufmulF32 m d a b => Sys2Proof.Machine.execUfmulF32 m d a b s
  | .ufmacF32 m d a b => Sys2Proof.Machine.execUfmacF32 m d a b s
  | .ucmpF32 m d a b => Sys2Proof.Machine.execUcmpF32 m d a b s
  | .ucvtToFloat m d a s0 t => Sys2Proof.Machine.execUcvtToFloat m d a s0 t s
  | .ucvtToInteger m d a s0 t => Sys2Proof.Machine.execUcvtToInteger m d a s0 t s
  | .prep n o x => Sys2Proof.Machine.execPrep n o x s
  | .prepv n c => Sys2Proof.Machine.execPrepv n c s
  | .br n => Sys2Proof.Machine.execBr n s
  | .brt n c => Sys2Proof.Machine.execBrt n c s
  | .brf n c => Sys2Proof.Machine.execBrf n c s
  | .brnone n => Sys2Proof.Machine.execBrnone n s
  | .brany n => Sys2Proof.Machine.execBrany n s
  | .call n m => Sys2Proof.Machine.execCall n m s
  | .bloop n c => Sys2Proof.Machine.execBloop n c s
  | .binv n => Sys2Proof.Machine.execBinv n s
  | .bmov n m => Sys2Proof.Machine.execBmov n m s
  | .brd n c => Sys2Proof.Machine.execBrd n c s
  | .msave d => Sys2Proof.Machine.execMsave d s
  | .mload a => Sys2Proof.Machine.execMload a s
  | .mand d a b => Sys2Proof.Machine.execMand d a b s
  | .mandn d a b => Sys2Proof.Machine.execMandn d a b s
  | .mor d a b => Sys2Proof.Machine.execMor d a b s
  | .mrestore a => Sys2Proof.Machine.execMrestore a s
  | .mall d => Sys2Proof.Machine.execMall d s
  | .mcount d a => Sys2Proof.Machine.execMcount d a s
  | .mfirst d a => Sys2Proof.Machine.execMfirst d a s
  | .brk k0 => Sys2Proof.Machine.execBrk k0 s
  | .svc k0 => Sys2Proof.Machine.execSvc k0 s
  | .rett a => Sys2Proof.Machine.execRett a s
  | .sysr d n => Sys2Proof.Machine.execSysr d n s
  | .sysw d n => Sys2Proof.Machine.execSysw d n s
  | .wline d a b => Sys2Proof.Machine.execWline d a b s
  | .mmaBf16 z d a b => Sys2Proof.Machine.execMmaBf16 z d a b s
  | .mmaF16 z d a b => Sys2Proof.Machine.execMmaF16 z d a b s
  | .mmaT8 z d a b => Sys2Proof.Machine.execMmaT8 z d a b s
  | .mmaT6 z d a b => Sys2Proof.Machine.execMmaT6 z d a b s
  | .mmaI4 z d a b => Sys2Proof.Machine.execMmaI4 z d a b s
  | .mmas n z d a b x => Sys2Proof.Machine.execMmas n z d a b x s
  | .mmaqBf16 z d a b => Sys2Proof.Machine.execMmaqBf16 z d a b s
  | .mmaqF16 z d a b => Sys2Proof.Machine.execMmaqF16 z d a b s
  | .mmaqT8 z d a b => Sys2Proof.Machine.execMmaqT8 z d a b s
  | .mmaqT6 z d a b => Sys2Proof.Machine.execMmaqT6 z d a b s
  | .mmaqI4 z d a b => Sys2Proof.Machine.execMmaqI4 z d a b s
  | .mmaqs n z d a b x => Sys2Proof.Machine.execMmaqs n z d a b x s
  | .mscl a => Sys2Proof.Machine.execMscl a s
  | .mfence d => Sys2Proof.Machine.execMfence d s
  | .mwait a => Sys2Proof.Machine.execMwait a s
  | .mstat d s0 => Sys2Proof.Machine.execMstat d s0 s
  | .cpy d a b => Sys2Proof.Machine.execCpy d a b s
  | .cpy2d d a b x => Sys2Proof.Machine.execCpy2d d a b x s
  | .cpyx d a b => Sys2Proof.Machine.execCpyx d a b s
  | .cpyk d a b x => Sys2Proof.Machine.execCpyk d a b x s
  | .freezeKeep d => Sys2Proof.Machine.execFreezeKeep d s
  | .stemend a => Sys2Proof.Machine.execStemend a s
  | .spawn n c => Sys2Proof.Machine.execSpawn n c s
  | .spawnf n c => Sys2Proof.Machine.execSpawnf n c s
  | .launch a => Sys2Proof.Machine.execLaunch a s
  | .bar a b => Sys2Proof.Machine.execBar a b s
  | .arrive d a b => Sys2Proof.Machine.execArrive d a b s
  | .waitb a b => Sys2Proof.Machine.execWaitb a b s
  | .quota a => Sys2Proof.Machine.execQuota a s
  | .energy d a => Sys2Proof.Machine.execEnergy d a s
  | .bist d a => Sys2Proof.Machine.execBist d a s
  | .trc a => Sys2Proof.Machine.execTrc a s
  | .send d a b => Sys2Proof.Machine.execSend d a b s
  | .recv d a b => Sys2Proof.Machine.execRecv d a b s
  | .probe d a b => Sys2Proof.Machine.execProbe d a b s
  | .rwait d a => Sys2Proof.Machine.execRwait d a s
  | .collRed d a b => Sys2Proof.Machine.execCollRed d a b s
  | .collBcast d a b => Sys2Proof.Machine.execCollBcast d a b s
  | .collGath d a b => Sys2Proof.Machine.execCollGath d a b s
  | .cwait a => Sys2Proof.Machine.execCwait a s
  | .grun d a => Sys2Proof.Machine.execGrun d a s
  | .gset a b => Sys2Proof.Machine.execGset a b s
  | .gwait d a => Sys2Proof.Machine.execGwait d a s
  | .tlbinv a b => Sys2Proof.Machine.execTlbinv a b s
  | .fence k s0 => Sys2Proof.Machine.execFence k s0 s
  | .ext p w2 => Sys2Proof.Machine.execExt p w2 s
  | .wordNotAnInstruction w => Sys2Proof.Machine.execWordNotAnInstruction w s
  | .instructionFetchFault cls code addr info => Sys2Proof.Machine.execInstructionFetchFault cls code addr info s
  | .isync => Sys2Proof.Machine.execIsync s
  | .lexit => Sys2Proof.Machine.execLexit s
  | .exit => Sys2Proof.Machine.execExit s
  | .nop => Sys2Proof.Machine.execNop s
  | .yield => Sys2Proof.Machine.execYield s
  | .freeze => Sys2Proof.Machine.execFreeze s
  | .registerCopyReexecute => Sys2Proof.Machine.execRegisterCopyReexecute s
  | .mailboxPost => Sys2Proof.Machine.execMailboxPost s
  | .dieReset => Sys2Proof.Machine.execDieReset s
  | .groupEnd => Sys2Proof.Machine.execGroupEnd s
  | .teamDispatch => Sys2Proof.Machine.execTeamDispatch s
  | .gridPrologueDispatch => Sys2Proof.Machine.execGridPrologueDispatch s
  | .binTimerExpiry => Sys2Proof.Machine.execBinTimerExpiry s
  | .quantumSwap => Sys2Proof.Machine.execQuantumSwap s
  | .groupFrameWrite => Sys2Proof.Machine.execGroupFrameWrite s
  | .teamRestore => Sys2Proof.Machine.execTeamRestore s
  | .groupFrameRestore => Sys2Proof.Machine.execGroupFrameRestore s
  | .energyWindow => Sys2Proof.Machine.execEnergyWindow s
  | .clockThrottle => Sys2Proof.Machine.execClockThrottle s
  | .launchCompletion => Sys2Proof.Machine.execLaunchCompletion s
  | .launchFailureReport => Sys2Proof.Machine.execLaunchFailureReport s
  | .launchEndNotice => Sys2Proof.Machine.execLaunchEndNotice s
  | .matrixOpComplete => Sys2Proof.Machine.execMatrixOpComplete s
  | .copyRequestStart => Sys2Proof.Machine.execCopyRequestStart s
  | .copyRequestComplete => Sys2Proof.Machine.execCopyRequestComplete s
  | .pageRequestPost => Sys2Proof.Machine.execPageRequestPost s
  | .prqDone => Sys2Proof.Machine.execPrqDone s
  | .atsCompletion => Sys2Proof.Machine.execAtsCompletion s
  | .prgResponse => Sys2Proof.Machine.execPrgResponse s
  | .atsInvalidation => Sys2Proof.Machine.execAtsInvalidation s
  | .hostRead => Sys2Proof.Machine.execHostRead s
  | .hostWrite => Sys2Proof.Machine.execHostWrite s
  | .hostAtomicop => Sys2Proof.Machine.execHostAtomicop s
  | .tdispMessage => Sys2Proof.Machine.execTdispMessage s
  | .stopInterface => Sys2Proof.Machine.execStopInterface s
  | .ideKm => Sys2Proof.Machine.execIdeKm s
  | .spdmMeasurements => Sys2Proof.Machine.execSpdmMeasurements s
  | .storageRequest => Sys2Proof.Machine.execStorageRequest s
  | .migGo => Sys2Proof.Machine.execMigGo s
  | .migrationRecall => Sys2Proof.Machine.execMigrationRecall s
  | .migrationCopy => Sys2Proof.Machine.execMigrationCopy s
  | .migrationRemap => Sys2Proof.Machine.execMigrationRemap s
  | .migrationForward => Sys2Proof.Machine.execMigrationForward s
  | .migrationRelease => Sys2Proof.Machine.execMigrationRelease s
  | .rebalancePeriod => Sys2Proof.Machine.execRebalancePeriod s
  | .bucketWrite => Sys2Proof.Machine.execBucketWrite s
  | .bucketDrain => Sys2Proof.Machine.execBucketDrain s
  | .homeGets => Sys2Proof.Machine.execHomeGets s
  | .homeGetm => Sys2Proof.Machine.execHomeGetm s
  | .homeUpgrade => Sys2Proof.Machine.execHomeUpgrade s
  | .writeNotice => Sys2Proof.Machine.execWriteNotice s
  | .putm => Sys2Proof.Machine.execPutm s
  | .pute => Sys2Proof.Machine.execPute s
  | .homeAtomic => Sys2Proof.Machine.execHomeAtomic s
  | .uncachedRead => Sys2Proof.Machine.execUncachedRead s
  | .uncachedWrite => Sys2Proof.Machine.execUncachedWrite s
  | .recall => Sys2Proof.Machine.execRecall s
  | .invalidate => Sys2Proof.Machine.execInvalidate s
  | .cacheEvict => Sys2Proof.Machine.execCacheEvict s
  | .responseData => Sys2Proof.Machine.execResponseData s
  | .responseGrant => Sys2Proof.Machine.execResponseGrant s
  | .responseAcknowledge => Sys2Proof.Machine.execResponseAcknowledge s
  | .responseRefused => Sys2Proof.Machine.execResponseRefused s
  | .responsePoisoned => Sys2Proof.Machine.execResponsePoisoned s
  | .bulkPacket => Sys2Proof.Machine.execBulkPacket s
  | .keyCopyPacket => Sys2Proof.Machine.execKeyCopyPacket s
  | .transactionTimeout => Sys2Proof.Machine.execTransactionTimeout s
  | .dieEdgeFlit => Sys2Proof.Machine.execDieEdgeFlit s
  | .dieEdgeRetrain => Sys2Proof.Machine.execDieEdgeRetrain s
  | .d2dRetrain => Sys2Proof.Machine.execD2dRetrain s
  | .fabricPortRetrain => Sys2Proof.Machine.execFabricPortRetrain s
  | .fabRetrain => Sys2Proof.Machine.execFabRetrain s
  | .messageAnnouncement => Sys2Proof.Machine.execMessageAnnouncement s
  | .announcementReply => Sys2Proof.Machine.execAnnouncementReply s
  | .messageRetry => Sys2Proof.Machine.execMessageRetry s
  | .messageDataPacket => Sys2Proof.Machine.execMessageDataPacket s
  | .collectivePacket => Sys2Proof.Machine.execCollectivePacket s
  | .collectiveDrainReport => Sys2Proof.Machine.execCollectiveDrainReport s
  | .collectiveDrainedNotice => Sys2Proof.Machine.execCollectiveDrainedNotice s
  | .clauseLaunch => Sys2Proof.Machine.execClauseLaunch s
  | .clauseCopy => Sys2Proof.Machine.execClauseCopy s
  | .clauseCollective => Sys2Proof.Machine.execClauseCollective s
  | .clauseConditional => Sys2Proof.Machine.execClauseConditional s
  | .clauseWhile => Sys2Proof.Machine.execClauseWhile s
  | .galIdWrite => Sys2Proof.Machine.execGalIdWrite s
  | .recDeclare => Sys2Proof.Machine.execRecDeclare s
  | .recoveryFence => Sys2Proof.Machine.execRecoveryFence s
  | .recoveryResolve => Sys2Proof.Machine.execRecoveryResolve s
  | .recoverySweep => Sys2Proof.Machine.execRecoverySweep s
  | .recoveryReport => Sys2Proof.Machine.execRecoveryReport s
  | .recReadmit => Sys2Proof.Machine.execRecReadmit s
  | .firewallWrite => Sys2Proof.Machine.execFirewallWrite s
  | .rdirQuery => Sys2Proof.Machine.execRdirQuery s
  | .registerWrite => Sys2Proof.Machine.execRegisterWrite s
  | .dbgStop => Sys2Proof.Machine.execDbgStop s
  | .teamStopEffect => Sys2Proof.Machine.execTeamStopEffect s
  | .dbgAttach => Sys2Proof.Machine.execDbgAttach s
  | .dbgStep => Sys2Proof.Machine.execDbgStep s
  | .dbgResume => Sys2Proof.Machine.execDbgResume s
  | .dbgTerminate => Sys2Proof.Machine.execDbgTerminate s
  | .holdLimitExpiry => Sys2Proof.Machine.execHoldLimitExpiry s
  | .sampleTick => Sys2Proof.Machine.execSampleTick s
  | .traceEnable => Sys2Proof.Machine.execTraceEnable s
  | .margVolt => Sys2Proof.Machine.execMargVolt s
  | .margLrun => Sys2Proof.Machine.execMargLrun s
  | .marginRunDone => Sys2Proof.Machine.execMarginRunDone s
  | .laneSpareSteer => Sys2Proof.Machine.execLaneSpareSteer s
  | .bistTestComplete => Sys2Proof.Machine.execBistTestComplete s
  | .cellFailure => Sys2Proof.Machine.execCellFailure s
  | .fabricLinkTraining => Sys2Proof.Machine.execFabricLinkTraining s

end Sys2Proof.Machine
end

