-- ==== Sys2Proof/Machine/Fetch.lean ====
section
/-! DEFINITION. Code fetch (R65, R66, R135, R136): aligned 16-byte granules, each from one value of its bytes, kept from one
transfer to the next; the instruction at the pc. -/

namespace Sys2Proof.Machine

/-- What a fetch comes to. -/
inductive FetchRes where
  | ok (s : State) (bs : List Byte)
  /-- A fault; `line`: of the line fetched, so that TRAP.INFO names the word in it. -/
  | bad (cls code info : Nat) (line : Bool)
  /-- A request for the line goes to its home. -/
  | send (line op : Nat)
  | wait
  | owned
  | ask (key : Nat)

/-- The group's own stores to a granule of code that its fetch must see, held back, are performed (R138). -/
def State.establish (s : State) (g16 : Nat) : State :=
  if s.g.mo.pend.isEmpty then s
  else s.drainTo s.g.key (lastOf (fun p => p.ga / 16 == g16 && (p.code || decide (p.epoch < s.g.mo.epoch))) s.g.mo.pend)

/-- The walker's mark of a translation is refused by the firewall of the table's home (R414, R415). -/
def State.markRefused (s : State) (x : Xlat) : Bool :=
  match x.mark with
  | some (e, _) => !s.firewall e (s.myCell s.g.dk)
  | none => false

/-- Granule `gr` of the code of the group in hand, fetched now (R135). -/
def State.fetchGranule (s : State) (gr : Nat) : FetchRes :=
  match s.xlat s.g.ctx (gr * 16) 16 .fetch with
  | .bad cls code _ ga => .bad cls code (3 + (if cls = 4 then ga % 2 ^ 54 * 4 else 0)) false
  | .ats key => .ask key
  | .ok [p] =>
    let u : LineUse := ⟨0, gr * 16, p.x.ga, gr * 16, p.x.home, 16⟩
    let info := fun (unk : Bool) => 3 + p.x.ga % 2 ^ 54 * 4 + (if unk then 2 ^ 56 else 0)
    if gaRegion p.x.ga = 15 then .bad 3 10 3 false
    else if s.markRefused p.x then .bad 4 3 (info false) true
    else
      match s.lineState .fetch u with
      | .send op => .send (p.x.ga / 128) op
      | .wait => .wait
      | .owned => .owned
      | .bad code unk => .bad 4 code (info unk) true
      | .ok =>
        if s.isPoison (p.x.ga / 128) ∨ s.isBad (p.x.ga / 16) then .bad 4 1 (info false) true
        else
          let s := (s.mark [p]).establish (p.x.ga / 16)
          .ok { s with txns := s.txns.filter fun t => !(t.2.gk == s.g.key && t.2.ga / 128 == p.x.ga / 128 && t.2.phase == 6) }
            (s.bytes p.x.ga 16)
  | .ok _ => .bad 3 8 3 false

/-- The last word of a granule is an `ext`. -/
def lastExt (bs : List Byte) : Bool := (bs[15]?).getD 0 == 0xFF

/-- The granule after `gr`, in code addresses modulo 2^56. -/
def nextGranule (gr : Nat) : Nat := (gr + 1) % 2 ^ 52

/-- What is held in place of a granule whose fetch faulted: the class, the code, whether the line faulted, and TRAP.INFO. -/
def failedGranule (cls code info : Nat) (line : Bool) : List Byte :=
  BitVec.ofNat 8 cls :: BitVec.ofNat 8 code :: (if line then 1 else 0) :: bytesLE info 8

/-- A granule as it is held: its bytes, or the fault of its fetch. -/
def heldGranule (s : State) (bs : List Byte) : FetchRes :=
  if bs.length = 16 then .ok s bs else .bad ((bs[0]?).getD 0).toNat ((bs[1]?).getD 0).toNat (natLE (bs.drop 3)) ((bs[2]?).getD 0 == 1)

/-- Granules put into a buffer. -/
def holdAll (gs buf : List (Nat × List Byte)) : List (Nat × List Byte) := gs.foldl (fun r m => Store.ins m.1 m.2 r) buf

/-- Granules fetched at one moment, or what keeps one of them from being fetched. -/
inductive ChainRes where
  | ok (s : State) (gs : List (Nat × List Byte))
  | stop (r : FetchRes)

def ChainRes.cons (m : Nat × List Byte) : ChainRes → ChainRes
  | .ok s gs => .ok s (m :: gs)
  | r => r

/-- The granules that follow one that ends in an `ext`, each with the next as long as it ends in an `ext` itself: a pair that
straddles two granules is taken from values that stood at one moment (R66, R135). A fetch that faults is part of that moment
and belongs to the pair. -/
def State.fetchPairs (s : State) (gr : Nat) : Nat → ChainRes
  | 0 => .ok s []
  | n + 1 =>
    match s.fetchGranule gr with
    | .ok s1 bs => if lastExt bs then (s1.fetchPairs (nextGranule gr) n).cons (gr, bs) else .ok s1 [(gr, bs)]
    | .bad cls code info line => .ok s [(gr, failedGranule cls code info line)]
    | r => .stop r

/-- Granule `gr` fetched, with those that its last word needs. -/
def State.fetchUnit (s : State) (gr : Nat) : ChainRes :=
  match s.fetchGranule gr with
  | .ok s1 bs => if lastExt bs then (s1.fetchPairs (nextGranule gr) (2 ^ 52)).cons (gr, bs) else .ok s1 [(gr, bs)]
  | r => .stop r

/-- Granule `gr` held for the run that the group is in (R135). -/
def State.loadGranule (s : State) (gr : Nat) : FetchRes :=
  match Store.find gr s.g.run with
  | some bs => heldGranule s bs
  | none =>
    match s.fetchUnit gr with
    | .ok s gs => .ok { s with g := { s.g with run := holdAll gs s.g.run } } ((gs.head?.map (·.2)).getD [])
    | .stop r => r

/-- The word at a code address. DEDUCED: log entry 34. -/
def State.loadWord (s : State) (pc : Nat) : FetchRes :=
  match s.loadGranule (pc / 16) with
  | .ok s bs => .ok s (slice bs (pc % 16) 4)
  | r => r

/-- What stands at the pc: an instruction, or what keeps the group at the boundary. -/
inductive Fetched where
  | instr (s : State) (i : Instr)
  | stay (s : State)

/-- The group waits for what the fetch needs, or the fetch faults at the word at `at_`: of class 4, TRAP.INFO names the word's
first byte (R136, R179). -/
def FetchRes.stop (r : FetchRes) (s : State) (at_ : Nat) : Fetched :=
  match r with
  | .ok s _ => .stay s
  | .bad cls code info line =>
    .instr { (s.lateCount cls code).dropTxns with g := { s.g with late := false } } (.instructionFetchFault (BitVec.ofNat 4 cls) (BitVec.ofNat 8 code) (BitVec.ofNat 64 at_)
      (BitVec.ofNat 64 (if line then info + at_ % 16 * 4 else info)))
  | .send line op =>
    let s := s.sendTxn line op
    .stay { s with g := { s.g with wait := .txn } }
  | .wait => .stay { s with g := { s.g with wait := .txn } }
  | .owned => .stay { s with g := { s.g with wait := .owned } }
  | .ask key => .stay (s.askHost key)

/-- The instruction at the pc of the group in hand (R65). -/
def State.fetch (s : State) : Fetched :=
  let pc := s.g.pc.toNat
  match s.loadWord pc with
  | .ok s1 bs =>
    if (bs[3]?).getD 0 = 0xFF then
      let pc2 := (pc + 4) % 2 ^ 56
      match s1.loadWord pc2 with
      | .ok s2 bs2 =>
        match decode (bs ++ bs2) with
        | .ok (i, _) => .instr s2 i
        | .error _ => .stay s2
      | r => r.stop s1 pc2
    else
      match decode bs with
      | .ok (i, _) => .instr s1 i
      | .error _ => .stay s1
  | r => r.stop s pc

end Sys2Proof.Machine
end

