-- ==== Sys2Proof/Machine/Turns.lean ====
section
/-! DEFINITION. What one turn of the machine is: a group's next instruction, a step without an encoding, or one of the acts of the
hardware that the spec leaves to it (prefetch, narrowing, TLBs, checkers, ECC, the pieces of a copy); and the default order,
in which the units work between two instructions. -/

namespace Sys2Proof.Machine

/-! ### Which groups run -/

/-- The wait of a group is over, or is one that its instruction tests again (R264, R265). -/
def State.waitOver (s : State) (g : Group) : Bool :=
  match g.wait with
  | .bar b ph => phaseDone ((s.team g.tid).barriers[b.toNat]).p ph
  | .quota => false
  | .firewall dk => (s.die dk).fwPend.isEmpty
  | _ => true

/-- The group may execute its next instruction: it is live and resident on a core that runs, and neither a team stop nor a trace unit
that cannot write holds it (R460, R463). -/
def State.canRun (s : State) (g : Group) : Bool :=
  g.status == .live && s.waitOver g && (s.team g.tid).status == .resident && !(s.team g.tid).leaving &&
  (!(s.team g.tid).held || ((s.die g.dk).dbgStep.getD []).contains g.key) &&
  !s.traceWaits g && !(s.core (coreKey g.dk g.core)).stopped && !(s.die g.dk).inReset && !(s.pkg (g.dk / 4)).dead && !s.coreBad g.dk g.core

/-- The keys of the listed groups in ascending order of key. -/
def State.keys (s : State) : List Nat :=
  ((s.groups.map (·.1)).filter fun k => k < s.g.key) ++ [s.g.key] ++ (s.groups.map (·.1)).filter fun k => s.g.key < k

/-- The pipe that an instruction issues to (Tables 2-7 and 11-3), by its word: 0 lane, 1 uniform, 2 memory, 3 matrix. -/
def pipeOf (w : Word) : Nat :=
  let m := major w
  if m < 0x55 then 0
  else if m < 0x80 then 2
  else if 0xD0 ≤ m ∧ m < 0xE0 then 3
  else if 0xE0 ≤ m ∧ m < 0xFD then 2
  else 1

/-- The pipe of the next instruction of a group; none where its fetch still keeps it. -/
def State.nextPipe (s : State) (k : Nat) : Option Nat :=
  match (s.take k).fetch with
  | .instr _ i => some (pipeOf i.word)
  | .stay _ => none

/-- The other groups of the partition that are ready and not waiting. -/
def State.rivals (s : State) (g : Group) : List Group :=
  (s.partGroups g.dk g.core g.part).filter fun h => h.key != g.key && s.canRun h && h.wait == .none && decide (h.ready ≤ s.steps)

/-- The place of a candidate in the selection of a pipe (R357): the supervisor group, then in rotation from the slot after the one
last selected there; a group passed over after a `yield` comes last while a group that it lets pass is a candidate. -/
def State.rank (s : State) (p : Nat) (g : Group) : Nat :=
  if g.priv then 0
  else
    let last := (((s.core (coreKey g.dk g.core)).last[4 * g.part + p]?).getD 15)
    let waits := (s.rivals g).any fun h => g.passed.contains h.key
    1 + (g.slot + 15 - last % 16) % 16 + if waits then 16 else 0

/-- The group is the one that its partition selects next on its pipe (R357), or only tests what it waits for. -/
def State.mayRun (s : State) (k : Nat) : Bool :=
  let g := s.group k
  s.canRun g &&
    (g.wait != .none ||
      (decide (g.ready ≤ s.steps) &&
        let rs := s.rivals g
        (rs.isEmpty ||
          match s.nextPipe k with
          | some p => rs.all fun h => s.nextPipe h.key != some p || decide (s.rank p g < s.rank p h)
          | none => true)))

/-- A group has been selected on a pipe: the rotation goes on after it, it has had its turn before the groups that yielded, and its
launch is charged an issue cycle (R452). -/
def State.selected (s : State) (p : Nat) : State :=
  let g := s.g
  let ck := coreKey g.dk g.core
  let c := s.core ck
  let pass := fun (h : Group) => if h.passed.contains g.key then { h with passed := h.passed.filter (· != g.key) } else h
  let s := s.setCore ck { c with last := c.last.setIfInBounds (4 * g.part + p) g.slot }
  let s := { s with groups := s.groups.map fun (q : Nat × Group) => (q.1, pass q.2) }
  let lk := (s.team g.tid).lk
  if lk = 0 then s else s.workDone lk 1 0 0

/-- The next group after the one in hand, in rotation, that may run; the one in hand where no other may. -/
def State.nextKey (s : State) : Nat :=
  let others := ((s.groups.map (·.1)).filter fun k => s.g.key < k) ++ (s.groups.map (·.1)).filter fun k => k < s.g.key
  (others.find? s.mayRun).getD s.g.key

/-! ### One instruction -/

/-- A step of the team stop: the group has its one instruction (R460). -/
def State.stepTaken (s : State) : State :=
  let d := s.die s.g.dk
  match d.dbgStep with
  | some ks => if ks.contains s.g.key then s.setDie s.g.dk { d with dbgStep := some (ks.filter (· != s.g.key)) } else s
  | none => s

/-- The moment of an instruction: the cycles passed since the one before are a free number; a group traced anew emits its SYNC
(R462). DESIGN CHOICE: log entry 4. -/
def State.enter (s : State) : State :=
  { s.syncFirst.elapse (1 + Config.gap s.steps) with beat := true, steps := s.steps + 1 }

/-- An instruction has been executed: the step of a team stop is over for its group, unless an access of it still waits (R460). -/
def stepOver (o : Out) : Out :=
  match o with
  | .next t => if t.g.wait.begun then o else .next t.stepTaken
  | _ => o

/-- After an instruction: a group that does not go on, a trap among the reasons, has performed what it executed (R298). -/
def leftBehind (o : Out) : Out :=
  match o with
  | .next t => if t.g.status = .live then o else .next (t.settleMem t.g.key)
  | _ => o

/-- The group in hand executes the instruction at its pc, or stands where its fetch keeps it. -/
def State.runOne (s : State) : Out :=
  match s.enter.fetch with
  | .instr t i => stepOver (leftBehind (exec i (t.selected (pipeOf i.word))))
  | .stay t => .next t

/-! ### Steps without an encoding -/

/-- The instruction is a step without an encoding that a turn may name. -/
def Instr.isEvent (i : Instr) : Bool :=
  !i.encodable &&
  (match i with
    | .instructionFetchFault _ _ _ _ => false
    | _ => true)

/-- A step without an encoding, with its operands. -/
def State.event (s : State) (e : Instr) (a : Arg) : Out :=
  if Instr.isEvent e then exec e { s with arg := a, steps := s.steps + 1 } else .next s

/-- The state after such a step. -/
def State.after (s : State) (e : Instr) (a : Arg) : State :=
  match s.event e a with
  | .next t => t
  | _ => s

/-! ### Acts of the hardware -/

/-- `f` done with a group in hand, which is then put back. -/
def State.withGroup (s : State) (k : Nat) (f : State → State) : State :=
  let me := s.g.key
  (f (s.take k)).take me

/-- Granule `gr` lies wholly below address `t` + 256: all its words are window words of a target at `t` (R137), and at most 256
bytes of code do so (R25). -/
def inWindow (t gr : Nat) : Bool := decide ((gr + 2 ^ 52 - t / 16) % 2 ^ 52 * 16 + 16 ≤ t % 16 + 256)

/-- A granule, with those that its last word needs (R66), fetched into the buffer of target register `n` of a resident group,
within the window of its target; into the run of the group, ahead of its pc, for `n` = 8 (R25, R137). A granule that is held is
not fetched again; a prefetch that cannot be had, or whose `ext` pair reaches past the window or into a granule that is held, is
dropped. -/
def State.prefetch (s : State) (key n k : Nat) : State :=
  s.withGroup key fun s =>
    if s.g.status ≠ .live ∨ (s.team s.g.tid).status ≠ .resident then s
    else
      let t := (s.g.targets[n]?).getD ⟨s.g.pc.extractLsb' 2 54, true, s.g.run⟩
      let at_ := t.addr.toNat * 4
      let gr := (at_ / 16 + k) % 2 ^ 52
      if !t.v ∨ (Store.find gr t.buf).isSome then s
      else
        match s.fetchUnit gr with
        | .ok s1 gs =>
          if gs.any fun m => m.2.length != 16 || (Store.find m.1 t.buf).isSome || (decide (n < 8) && !inWindow at_ m.1) then s
          else
            let buf := holdAll gs t.buf
            if n < 8 then
              { s1 with g := { s1.g with targets := s1.g.targets.mapFinIdx fun i b _ => if i = n then { b with buf := buf } else b } }
            else { s1 with g := { s1.g with run := buf } }
        | .stop _ => s

/-- The checker of a code watches the instruction in the lane (Table 14-4): the pipe is its own, a lane instruction runs only in
the lanes of EXEC (R146), a uniform one reads the lane of U(v), a matrix operation every lane. -/
def Group.watched (g : Group) (w : Word) (code lane : Nat) : Bool :=
  let inLane := decide (major w < 0x80) && g.exec.getLsbD lane
  match code with
  | 1 => pipeOf w == 0 && inLane
  | 2 => pipeOf w == 1
  | 3 => pipeOf w == 2 && inLane
  | 5 => inLane || pipeOf w == 3 || (decide (0x80 ≤ major w) && lane == g.ulane.val)
  | _ => false

/-- The next instruction of the group in hand, when it is one that a checker of the code can stop: it executes now, and meets no
fault of a lower class (R46). -/
def State.checked (s : State) (code lane : Nat) : Bool :=
  match s.fetch with
  | .instr t i =>
    t.g.watched i.word code lane &&
    (match exec i { t with g := { t.g with trap := TrapRegs.zero } } with
      | .next u =>
        (match u.g.status with
          | .saving _ _ => false
          | _ => decide (u.g.trap.cause = 0 ∧ (u.g.wait = .none ∨ u.g.pc ≠ t.g.pc)) ||
              decide (9 ≤ u.g.trap.cause.toNat % 16))
      | _ => false)
  | .stay _ => false

/-- The checkers disagree at the next instruction of a group (R445): a retry that agrees is counted; else class 9, precisely, or
asynchronously at the batch for an operation in the matrix array (R233), whose quad step completes for the other members. With
code 5 a register's value in the lane is lost: a free value. DESIGN CHOICE: log entry 6. -/
def State.checker (s : State) (key code lane : Nat) (ok : Bool) : State :=
  let g := s.group key
  let lane := lane % 128
  let runs := s.canRun g && (s.take key).checked code lane
  if code = 4 then
    (if (g.mat.find? (s.canFinish g)).isNone then s
     else if ok then s.setDev g.dk 0x0930 (s.dev g.dk 0x0930 + 1)
     else s.matFinish key true)
  else if !runs then s
  else if ok then s.setDev g.dk 0x0930 (s.dev g.dk 0x0930 + 1)
  else
    let l := if code = 2 then none else some lane
    let s := s.withGroup key fun s =>
      let s := s.settleMem s.g.key
      let s := if code = 5 then
          let r := (Config.free 12 s.steps).toNat % 128
          let v := (Config.free 13 s.steps).extractLsb' 0 32
          { s with g := s.g.wr r (Lanes.tab fun i => if i.val = lane % 128 then v else (s.g.rd r)[i]) }
        else s
      s.trap { plainTrap 9 code with lane := l }
    if code = 2 then s else s.markLane g.dk g.core g.part lane

/-- An error in a line of DRAM or a granule of core memory (R447, R211, R428). -/
def State.eccError (s : State) (ga : Nat) (corrected : Bool) : State :=
  let dk := gaDie ga
  if corrected then s.setDev dk 0x0920 (s.dev dk 0x0920 + 1)
  else
    let s := s.setDev dk 0x0928 (s.dev dk 0x0928 + 1)
    if gaRegion ga = 0 then s.setPoison (ga / 128) true
    else if gaRegion ga = 1 then s.setBad (ga / 16) true
    else s

/-- A register moves to the slot that its value needs (R20); the row reserved for a result in flight stays (R214). -/
def Group.narrow (g : Group) (free r : Nat) : Group :=
  let c := classify (g.rd r)
  if slotClass r g.rows ≤ c ∨ g.hazard [⟨r, 1, 1⟩] ∨ g.loading [⟨r, 1, 1⟩] then g
  else
    let rows := dropReg r g.rows
    if c = 0 then { g with rows := rows }
    else
      match joinRow r c rows with
      | some rows' => { g with rows := rows' }
      | none => if free + (g.rows.length - rows.length) = 0 then g else { g with rows := ⟨c, [r]⟩ :: rows }

/-- The page of an address placed in the TLBs of the group's die (R335, R336): the walker marks the leaf accessed. -/
def State.tlbFill (s : State) (key va : Nat) : State :=
  let g := s.group key
  match s.walk { g.ctx with late := false } va with
  | .leaf w =>
    let lo := w.lo ||| 2 ^ 5
    if (lo ≠ w.lo ∧ !s.firewall w.entry (s.myCell g.dk)) ∨ (s.cached g.dk g.asn va).isSome then s
    else
      let s := if lo = w.lo then s else s.wrN w.entry 8 lo
      { s with tlb := s.tlb ++ [⟨g.dk, g.asn, w.va, w.size, BitVec.ofNat 64 lo, BitVec.ofNat 64 w.hi⟩] }
  | .bad _ _ _ => s

/-- The transaction that fetches the next code of a group expires: the fetch faults, and what its home grants is handed back (R421, R422,
R136). -/
def State.fetchExpire (s : State) (key : Nat) : State :=
  s.withGroup key fun s =>
    let pc := s.g.pc.toNat
    match s.xlat s.g.ctx (pc / 16 * 16) 16 .fetch, s.fetchGranule (pc / 16) with
    | .ok [p], .wait =>
      let txn := s.txnOf (p.x.ga / 128)
      let late := (txn.map fun t => s.overdue s.g.dk t.since && !s.blocked t.ga).getD false
      if s.g.status ≠ .live ∨ (Store.find (pc / 16) s.g.run).isSome ∨ gaDie p.x.ga = s.g.dk ∨ !late then s
      else
        match execInstructionFetchFault 4 2 (BitVec.ofNat 64 pc) (BitVec.ofNat 64 (3 + (p.x.ga + pc % 16) % 2 ^ 54 * 4)) s.dropTxns with
        | .next t => (txn.toList.foldl State.orphan t).countExpired s.g.dk
        | _ => s
    | _, _ => s

/-- The other of the two values of a granule written with No Snoop becomes the one that is read (R439). -/
def State.snoopTurn (s : State) (g : Nat) : State :=
  match Store.find g s.snoop with
  | some (dram, other) =>
    { s.setBytes (g * 16) other with snoop := Store.ins g (!dram, s.bytes (g * 16) 16) s.snoop }
  | none => s

/-- A cache takes a clean copy of a line that its package may read: what other caches of the package hold dirty they then share
(R406). -/
def State.cacheFill (s : State) (u line : Nat) : State :=
  let p := unitDie u / 4
  let ok := if p = gaPkg (line * 128) then (s.dirAt line).state != 2 && (s.dirAt line).state != 4 else s.heldBy line p != 0
  if gaRegion (line * 128) ≠ 0 ∨ !populated (line * 128) ∨ s.isPoison line ∨ !ok ∨ s.copyAt line u ≠ 0 then s
  else
    ({ s with inner := s.inner.map fun (e : Nat × Nat) =>
        if e.1 / 2 ^ 20 = line ∧ e.2 = 4 then (e.1, 3) else if e.1 / 2 ^ 20 = line ∧ e.2 = 2 then (e.1, 1) else e }).setCopy line u 1

/-- A cache drops its copy of a line (R406): inside the home package a dirty one is written back; elsewhere a dirty L1 copy passes to
the L2, and with the last copy of an L2 the package's copy leaves (R408, R482). -/
def State.cacheDrop (s : State) (u line : Nat) : State :=
  let p := unitDie u / 4
  let dirty := dirtyState (s.copyAt line u)
  let t := s.dropInner line (· == u)
  if p = gaPkg (line * 128) then (s.writeBack line (· == u)).dropInner line (· == u)
  else if u < 2 ^ 19 then (if dirty then s.spill line u else t)
  else if t.copied line fun v => unitDie v / 4 == p then (if dirty then s else t)
  else s.copyLeaves p line

/-! ### A turn -/

/-- The turn that the agenda names. -/
def State.turn (s : State) (t : Turn) : Out :=
  match t with
  | .run key => if s.mayRun key then (s.take key).runOne else .next s
  | .event e a => s.event e a
  | .prefetch key n k => .next (s.prefetch key n k)
  | .checker key code lane ok => .next (s.checker key code lane ok)
  | .ecc ga corrected => .next (s.eccError ga corrected)
  | .narrow key r => .next (s.withGroup key fun s => { s with g := s.g.narrow s.freeRows r })
  | .tlb key va => .next (s.tlbFill key va)
  | .latency key n => .next (s.setGroup key { s.group key with ready := s.steps + n })
  | .energy dk => .next { s.meter dk with steps := s.steps + 1 }
  | .piece tid q n => .next (s.copyPiece tid q n)
  | .fetchExpire key => .next (s.fetchExpire key)
  | .snoop g => .next (s.snoopTurn g)
  | .fill g => .next (s.flushFills (· == g))
  | .walk key va => .next (s.walkFill { (s.group key).ctx with late := false } va)
  | .station dk e bs => .next (s.stationTake dk e bs)
  | .flit dk e i ok => .next (s.flitSend dk e i ok)
  | .invalidated p => .next (s.invalidated p)
  | .posted p n => .next (s.postedTurn p n)
  | .slice dk b lk => .next (s.sliceServes dk b lk)
  | .perform key j => .next (s.performTurn key j)
  | .land key j i => .next (s.landPiece key j i)
  | .see key lane g => .next (s.see key lane g)
  | .firewall dk => .next (s.firewallGo dk)
  | .cacheFill u line => .next (s.cacheFill u line)
  | .cacheSpill u line => .next (s.spill line u)
  | .cacheDrop u line => .next (s.cacheDrop u line)

/-! ### The default order -/

def argKey (k : Nat) : Arg := { Arg.zero with key := k }
def argSub (k n : Nat) : Arg := { Arg.zero with key := k, sub := n }
def argNum (k n : Nat) : Arg := { Arg.zero with key := k, num := n }

/-- What the units of groups, teams and queues may do now. -/
def State.groupWork (s : State) : List Turn :=
  (s.keys.flatMap fun k =>
    let g := s.group k
    (if g.mat.isEmpty then [] else [Turn.event .matrixOpComplete (argKey k)]) ++
    List.replicate g.mo.pend.length (.perform k 0) ++
    (g.mo.loads.zipIdx.flatMap fun h => (List.range h.1.ps.length).map fun i => .land k h.2 i) ++
    (match g.wait with
     | .bist _ _ _ => [Turn.event .bistTestComplete { argKey k with val := Config.free 15 s.steps }]
     | _ => []) ++
    (match g.status with
     | .rowWait => [Turn.event .registerCopyReexecute (argKey k)]
     | .posting => [Turn.event .mailboxPost (argKey (coreKey g.dk g.core))]
     | .saving _ _ => [Turn.event .groupFrameWrite (argKey k)]
     | .paging _ => [Turn.event .groupFrameWrite (argKey k)]
     | .returning => [Turn.event .groupFrameRestore (argKey k)]
     | .ending => [Turn.event .groupEnd (argKey k)]
     | _ => [])) ++
  (s.teams.flatMap fun t => (List.range 16).flatMap fun q =>
    match (s.queue t.1 q).reqs with
    | [] => []
    | rs => [Turn.event .copyRequestStart (argSub t.1 q), .event .keyCopyPacket (argSub t.1 q)] ++
        List.replicate (rs.flatMap (·.units)).length (.piece t.1 q 0) ++ [.event .copyRequestComplete (argSub t.1 q)])

/-- What the message units, collective engines and the homes of lines may do now. -/
def State.unitWork (s : State) : List Turn :=
  s.fills.map Turn.fill ++
  (s.pkgs.flatMap fun p => List.replicate p.2.posted.length (.posted p.1 0) ++
    if p.2.invs = 0 then [] else [.invalidated p.1]) ++
  (s.msgs.flatMap fun m =>
    [Turn.event .messageAnnouncement (argKey m.1), .event .announcementReply (argKey m.1), .event .messageRetry (argKey m.1)] ++
    (List.range m.2.packets).map fun k => .event .messageDataPacket (argSub m.1 k)) ++
  (s.colls.flatMap fun c =>
    List.replicate (c.2.acts.length + 1) (Turn.event .collectivePacket (argKey c.1)) ++
    (c.2.members.map fun m => .event .collectiveDrainReport (argSub c.1 m.rank)) ++
    (c.2.members.map fun m => .event .collectiveDrainedNotice (argSub c.1 m.rank))) ++
  (s.inner.map fun c => Turn.cacheDrop (c.1 % 2 ^ 20) (c.1 / 2 ^ 20)) ++
  ((s.dir.filter fun d => s.returning d.2.owner d.1).map fun d =>
    Turn.event (if d.2.state = 2 then .pute else .putm) (argSub d.2.owner d.1)) ++
  (s.txns.flatMap fun t => (t.2.ask.getD []).flatMap fun p =>
    [Turn.event .recall (argSub p (t.2.ga / 128)), .event .invalidate (argSub p (t.2.ga / 128))]) ++
  (s.txns.flatMap fun t =>
    [Turn.event .homeGets (argKey t.1), .event .homeGetm (argKey t.1), .event .homeUpgrade (argKey t.1),
     .event .homeAtomic (argKey t.1), .event .uncachedRead (argKey t.1), .event .uncachedWrite (argKey t.1),
     .event .writeNotice (argSub t.2.src (t.2.ga / 128)), .event .responseData (argKey t.1), .event .responseGrant (argKey t.1),
     .event .responseAcknowledge (argKey t.1), .event .responseRefused (argKey t.1), .event .responsePoisoned (argKey t.1)])

/-- What the scheduler, the parser, the recovery engine and the other units of a die may do now. DESIGN CHOICE: log entry 46. -/
def State.dieWork (s : State) (dk : Nat) : List Turn :=
  let d := s.die dk
  (if d.pages.isEmpty then [] else [Turn.event .pageRequestPost (argKey dk)]) ++
  (d.runs.flatMap fun r => [Turn.event .clauseLaunch (argSub dk r.handle.toNat)] ++
    List.replicate ((r.copy.flatMap (·.units)).length + 1) (.event .clauseCopy (argSub dk r.handle.toNat)) ++
    [.event .clauseCollective (argSub dk r.handle.toNat), .event .clauseConditional (argSub dk r.handle.toNat),
    .event .clauseWhile (argSub dk r.handle.toNat)]) ++
  (if d.mig.isSome then [Turn.event .migrationRecall (argKey dk), .event .migrationCopy (argKey dk),
    .event .migrationRemap (argKey dk), .event .migrationForward (argKey dk), .event .migrationRelease (argKey dk)] else []) ++
  (if d.reb.isEmpty then [] else [Turn.event .bucketDrain (argKey dk)]) ++ (if d.fwPend.isEmpty then [] else [.firewall dk]) ++
  (if d.recov.phase = 0 then [] else [Turn.event .recoveryFence (argKey dk), .event .recoveryResolve (argKey dk),
    .event .recoverySweep (argKey dk), .event .recoveryReport (argKey dk)]) ++
  (if s.dbgState dk = 1 ∨ (s.dbgState dk = 3 ∧ d.dbgStep = some []) then [Turn.event .teamStopEffect (argKey dk)] else []) ++
  (if s.sysReg dk 0x602 = 1 then [Turn.event .marginRunDone { argKey dk with val := Config.free 16 s.steps }] else []) ++
  ((List.range 2).flatMap fun e => ((List.range 8).filter fun i => (s.station dk e i).next.isSome).map fun i => .flit dk e i true) ++
  (if d.launches.isEmpty ∧ d.strays.isEmpty ∧ d.strayq.isEmpty then [] else
    (d.strayq.flatMap fun tid => (List.range 96).map fun c => Turn.event .teamRestore (argSub tid c)) ++
    (d.launches.flatMap fun lk =>
      match Store.find lk s.launches with
      | some l => l.swapq.flatMap fun tid => (List.range 96).map fun c => Turn.event .teamRestore (argSub tid c)
      | none => []) ++
    (List.range 96).flatMap fun c =>
      [Turn.event .gridPrologueDispatch (argSub dk c), .event .teamDispatch (argSub dk c)])

/-- What falls due with the cycles that pass: timers, windows, samples, the quantum, transaction limits. -/
def State.clockWork (s : State) : List Turn :=
  (s.dies.flatMap fun d =>
    [Turn.event .energyWindow (argKey d.1)] ++
    (if d.2.served.isEmpty then [] else [.event .rebalancePeriod (argKey d.1)]) ++
    (let cap := s.sysReg d.1 0x502
     if cap ≠ 0 ∧ ¬ s.sysReg d.1 0x500 < cap ∧ 600 < (s.sysReg d.1 0x503).toNat then [.event .clockThrottle (argKey d.1)] else []) ++
    (if s.dbgState d.1 = 2 then [.event .holdLimitExpiry (argKey d.1)] else []) ++
    (if d.2.bins.isEmpty then [] else [.event .binTimerExpiry (argKey d.1)]) ++
    (if d.2.launches.isEmpty then [] else [.energy d.1])) ++
  (s.cores.flatMap fun c => if s.sampling c.1 then [Turn.event .sampleTick (argKey c.1)] else []) ++
  (((s.teams.filter fun t => t.2.swappable).map fun t => coreKey t.2.dk t.2.core).eraseDups.map fun ck =>
    Turn.event .quantumSwap (argKey ck)) ++
  s.txns.map fun t => Turn.event .transactionTimeout (argKey t.1)

/-- What is under way toward home dies. -/
def State.homeWork (s : State) : List Turn :=
  ((List.range s.reports.length).flatMap fun i =>
    match s.reports[i]? with
    | some r => [Turn.event .launchFailureReport (argSub r.home i)]
    | none => []) ++
  (s.homes.flatMap fun h =>
    (h.2.notices.map fun dk => Turn.event .launchEndNotice (argNum dk h.2.lid.toNat)) ++
    [Turn.event .launchCompletion (argNum h.2.dk h.2.lid.toNat)]) ++
  (s.cores.flatMap fun c => (if c.2.posts.isEmpty then [] else [Turn.event .mailboxPost (argKey c.1)]) ++
    c.2.failing.map fun f => .event .laneSpareSteer (argSub c.1 f.1))

/-- The acts of the default order between two instructions; one that is not enabled changes nothing.
DESIGN CHOICE: log entry 8. -/
def State.work (s : State) : List Turn :=
  s.groupWork ++ s.unitWork ++ s.dies.flatMap (fun d => s.dieWork d.1) ++ s.homeWork ++ s.clockWork

/-- The state after an act of the default order. DESIGN CHOICE: log entry 55. -/
def State.act (s : State) (t : Turn) : State :=
  match s.turn t with
  | .next u => u
  | _ => s

/-- The units work, then the next group in rotation is taken in hand. DESIGN CHOICE: log entry 8. -/
def State.between (s : State) : State :=
  let t := s.work.foldl State.act s
  { (t.take t.nextKey).elapse (1 + Config.gap t.steps) with beat := false, steps := t.steps + 1 }

/-- Nothing listed can move any more, and the die of the group in hand is held in reset. -/
def State.stuck (s : State) : Bool := (s.die s.g.dk).inReset && s.groups.all fun g => !s.canRun g.2

end Sys2Proof.Machine
end

