-- ==== Sys2Proof/Machine/Step.lean ====
section
/-! DEFINITION. The step: the turn that the agenda names; with an empty agenda, the group in hand executes its next instruction,
and between two instructions the units work and the next group is taken in hand. -/

namespace Sys2Proof.Machine

/-- One step of the machine. -/
def step (s : State) : Host.Outcome State Fault Refusal :=
  match s.agenda with
  | t :: rest => State.turn { s with agenda := rest } t
  | [] =>
    if s.beat = false ∧ s.mayRun s.g.key = true then s.runOne
    else if s.stuck then .fault .heldInReset
    else .next s.between

/-- The bytes of `w` where the step fetches its next instruction: at the gallery address of the pc, with no turn and no fetched
granule before it. DESIGN CHOICE: log entry 2. -/
def State.withFetchWord (s : State) (nbits w : Nat) : State :=
  let s := { s with agenda := [], beat := false, g := { s.g with run := [] } }
  match s.xlat s.g.ctx s.g.pc.toNat 8 .fetch with
  | .ok ps => s.setBytes ((ps.head?.map fun p => p.x.ga).getD 0) (bytesLE (w % 2 ^ nbits) 8)
  | _ => s

end Sys2Proof.Machine
end

