-- ==== Sys2Proof/Safety.lean ====
section
/-! DEFINITION. The terms in which the statements speak: when an instruction issues, what it leaves unchanged, and for each
family the registers that its instructions name and the values that the manual gives the registers they write. -/

namespace Sys2Proof.Machine

/-! ### Issue and completion -/

/-- The checks of class 1 pass: no reserved modifier, selector or payload (R59, R63), every operand within the budget (R16),
every pair or wider operand aligned and not v0 (R15), and no operand overlaps a destination of a matrix operation that is not
complete (R214), or of a load whose value is still to be taken (R305). -/
def Issues (i : Instr) (ops : List Opnd) (s : State) : Prop :=
  Instr.reserved i = false ∧
  (∀ o ∈ ops, o.base + o.count ≤ s.g.budget) ∧
  (∀ o ∈ ops, 1 < o.align → o.base % o.align = 0 ∧ o.base ≠ 0) ∧
  (∀ o ∈ ops, ∀ m ∈ s.g.mat, m.d + m.cols ≤ o.base ∨ o.base + o.count ≤ m.d) ∧
  ∀ o ∈ ops, ∀ h ∈ s.g.mo.loads, h.d + h.cnt ≤ o.base ∨ o.base + o.count ≤ h.d

/-- The partition has the physical rows that the writes need (R20, R21). -/
def Roomy (s : State) (ws : List (Nat × Lanes)) : Prop := (s.putRegs ws).isSome = true

/-- What register `r` reads as after the writes `ws`: v0 stays zero (R14), a written register has its new value, every other
one the value it had. -/
def readAfter (g : Group) (ws : List (Nat × Lanes)) (r : Nat) : Lanes :=
  if r = 0 then zeroLanes
  else match ws.find? fun w => w.1 == r with
    | some w => w.2
    | none => g.rd r

/-- `t` is `s` with the registers of `ws` written and the pc past the instruction. Everything else is as in `s`: all memory,
every special register, accumulator and exception register, the masks, the target registers, every other group. The physical
rows that hold the registers may move (R20). -/
def Writes (i : Instr) (s t : State) (ws : List (Nat × Lanes)) : Prop :=
  (∀ r, r < 128 → t.g.rd r = readAfter s.g ws r) ∧
  t = { s with g := { s.g with
    pc := s.g.pc + BitVec.ofNat 56 (Instr.size i), wait := .none,
    regs := t.g.regs, rows := t.g.rows, shared := t.g.shared } }

/-- Every access of every group has been performed, nothing older is kept, and no access is about to be held back (R287): the
instructions of the groups act on memory in their order. -/
def InOrder (s : State) : Prop :=
  s.defer = [] ∧ ∀ g ∈ s.allGroups, g.mo.pend = [] ∧ g.mo.loads = [] ∧ g.mo.seen = []

/-- Memory has no other value in waiting (R287, R304, R439): nothing is held back, and every granule has one value. -/
def Settled (s : State) : Prop := InOrder s ∧ s.snoop = []

/-- The bytes that a held access writes: those of an atomic (R305). -/
def HeldLoad.ranges (h : HeldLoad) : List (Nat × Nat) :=
  match h.kind with
  | .atomic _ _ n _ _ => h.ps.map fun p => (p.ga, n)
  | _ => []

/-- The bytes of granules that stand with two values (R439). -/
def State.doubled (s : State) : List (Nat × Nat) := s.snoop.map fun e => (e.1 * 16, max 16 e.2.2.length)

/-- The bytes that a step may change beside its own: those of stores and atomics held back, and those of granules that stand with
two values (R304, R439). -/
def State.unsettled (s : State) : List (Nat × Nat) :=
  (s.allGroups.flatMap fun g => g.mo.pend.map (fun p => (p.ga, p.bytes.length)) ++ g.mo.loads.flatMap HeldLoad.ranges) ++ s.doubled

/-- Every piece of every held access of a group has been performed (R297). -/
def Group.landed (g : Group) : Prop := ∀ h ∈ g.mo.loads, ∀ p ∈ h.ps, p.got.isSome = true

/-- `s` with the orders that the group in hand has met as in `t` (R297). -/
def State.orders (s t : State) : State := { s with g := { s.g with mo := t.g.mo } }

/-- What a step does with the instruction that it has fetched: the group has been selected on its pipe (R357), a group that does not go
on has performed what it executed (R298), and the step of a team stop is over for the group (R460). -/
def State.runs (s : State) (i : Instr) : Out := stepOver (leftBehind (exec i (s.selected (pipeOf i.word))))

/-- The register copy fault at an instruction (R21, Table 1-10): TRAP describes it, and the group waits for a row. -/
def State.rowTrap (s : State) : State :=
  { s with g := { s.g with trap := ⟨s.g.pc.zeroExtend 64, 0x17, 0, 0⟩, status := .rowWait, wait := .row } }

/-- The group in hand stands past the instruction; nothing else of `s` changed. -/
def State.past (s : State) (i : Instr) : State :=
  { s with g := { s.g with pc := s.g.pc + BitVec.ofNat 56 (Instr.size i), wait := .none } }

/-! ### Lane and uniform instructions -/

/-- The registers that an instruction names, and the registers it writes with their values. -/
structure Effect where
  ops : List Opnd
  ws : List (Nat × Lanes)

/-- A lane result: the lanes of EXEC receive `f`, the others keep their values (R17). -/
def regs32 (g : Group) (d : Reg) (f : Fin 128 → Word) : List (Nat × Lanes) :=
  [(d.toNat, Lanes.tab fun j => if g.exec.getLsbD j.val then f j else (g.rd d.toNat)[j])]

/-- A lane result in a pair, low word first (R15). -/
def regs64 (g : Group) (d : Reg) (f : Fin 128 → DWord) : List (Nat × Lanes) :=
  [(d.toNat, Lanes.tab fun j => if g.exec.getLsbD j.val then (f j).extractLsb' 0 32 else (g.rd d.toNat)[j]),
   (d.toNat + 1, Lanes.tab fun j => if g.exec.getLsbD j.val then (f j).extractLsb' 32 32 else (g.rd (d.toNat + 1))[j])]

def on1 (g : Group) (d a : Reg) (f : Word → Word) : Effect :=
  ⟨[one d, one a], regs32 g d fun j => f (g.rd a.toNat)[j]⟩
def on2 (g : Group) (d a b : Reg) (f : Word → Word → Word) : Effect :=
  ⟨[one d, one a, one b], regs32 g d fun j => f (g.rd a.toNat)[j] (g.rd b.toNat)[j]⟩
def on3 (g : Group) (d a b : Reg) (f : Word → Word → Word → Word) : Effect :=
  ⟨[one d, one a, one b], regs32 g d fun j => f (g.rd a.toNat)[j] (g.rd b.toNat)[j] (g.rd d.toNat)[j]⟩
def onPairs (g : Group) (d a b : Reg) (f : DWord → DWord → DWord) : Effect :=
  ⟨[pair d, pair a, pair b], regs64 g d fun j => f (g.rd64 a.toNat j) (g.rd64 b.toNat j)⟩
def onPairs3 (g : Group) (d a b : Reg) (f : Nat → Nat → Nat → Nat) : Effect :=
  ⟨[pair d, pair a, pair b], regs64 g d fun j =>
    BitVec.ofNat 64 (f (g.rd64 a.toNat j).toNat (g.rd64 b.toNat j).toNat (g.rd64 d.toNat j).toNat)⟩
def onPairCmp (g : Group) (d a b : Reg) (f : DWord → DWord → Bool) : Effect :=
  ⟨[one d, pair a, pair b], regs32 g d fun j => predWord (f (g.rd64 a.toNat j) (g.rd64 b.toNat j))⟩
def onCvt (g : Group) (srcWide dstWide : Bool) (d a : Reg) (f : DWord → DWord) : Effect :=
  ⟨[wideOpnd dstWide d, wideOpnd srcWide a],
    if dstWide then regs64 g d fun j => f (g.srcBits srcWide a j)
    else regs32 g d fun j => (f (g.srcBits srcWide a j)).extractLsb' 0 32⟩

/-- Uniform results: U of the sources, written to all 128 lanes (R17, R155). -/
def un1 (g : Group) (d a : Reg) (f : Word → Word) : Effect :=
  ⟨[one d, one a], [(d.toNat, Lanes.uni (f (g.u a.toNat)))]⟩
def un2 (g : Group) (d a b : Reg) (f : Word → Word → Word) : Effect :=
  ⟨[one d, one a, one b], [(d.toNat, Lanes.uni (f (g.u a.toNat) (g.u b.toNat)))]⟩
def un3 (g : Group) (d a b : Reg) (f : Word → Word → Word → Word) : Effect :=
  ⟨[one d, one a, one b], [(d.toNat, Lanes.uni (f (g.u a.toNat) (g.u b.toNat) (g.u d.toNat)))]⟩
def unPairs (g : Group) (d a b : Reg) (f : DWord → DWord → DWord) : Effect :=
  ⟨[pair d, pair a, pair b], uniPair d.toNat (f (g.u64 a.toNat) (g.u64 b.toNat))⟩
def unCvt (g : Group) (srcWide dstWide : Bool) (d a : Reg) (f : DWord → DWord) : Effect :=
  ⟨[wideOpnd dstWide d, wideOpnd srcWide a],
    if dstWide then uniPair d.toNat (f (g.srcBits srcWide a g.ulane))
    else [(d.toNat, Lanes.uni ((f (g.srcBits srcWide a g.ulane)).extractLsb' 0 32))]⟩

/-- Lane integer instructions (R159 to R165, Tables 5-1 to 5-5). -/
def laneIntEffect (i : Instr) (g : Group) : Option Effect :=
  match i with
  | .add m d a b => some (on2 g d a b (fun x y => intRes m (intOf (m.getLsbD 1) x + intOf (m.getLsbD 1) y)))
  | .sub m d a b => some (on2 g d a b (fun x y => intRes m (intOf (m.getLsbD 1) x - intOf (m.getLsbD 1) y)))
  | .mul m d a b => some (on2 g d a b (fun x y => intRes m (intOf (m.getLsbD 1) x * intOf (m.getLsbD 1) y)))
  | .mulh m d a b => some (on2 g d a b (fun x y => BitVec.ofInt 32 (intOf (m.getLsbD 1) x * intOf (m.getLsbD 1) y / 2 ^ 32)))
  | .div m d a b => some (on2 g d a b (aluDiv m))
  | .rem m d a b => some (on2 g d a b (aluRem m))
  | .min m d a b => some (on2 g d a b (fun x y => if intOf (m.getLsbD 1) y < intOf (m.getLsbD 1) x then y else x))
  | .max m d a b => some (on2 g d a b (fun x y => if intOf (m.getLsbD 1) x < intOf (m.getLsbD 1) y then y else x))
  | .mad m d a b => some (on3 g d a b (fun x y z => intRes m (intOf (m.getLsbD 1) x * intOf (m.getLsbD 1) y + intOf
      (m.getLsbD 1) z)))
  | .abs m d a => some (on1 g d a (fun x => intRes m (x.toInt.natAbs : Int)))
  | .neg m d a => some (on1 g d a (fun x => intRes m (-x.toInt)))
  | .cmp m d a b => some (on2 g d a b (fun x y => predWord (intCond m x y)))
  | .add64 m d a b => some (onPairs g d a b (fun x y => intFit 64 (m.getLsbD 1) (m.getLsbD 0) (intOf (m.getLsbD 1) x +
      intOf (m.getLsbD 1) y)))
  | .sub64 m d a b => some (onPairs g d a b (fun x y => intFit 64 (m.getLsbD 1) (m.getLsbD 0) (intOf (m.getLsbD 1) x -
      intOf (m.getLsbD 1) y)))
  | .cmp64 m d a b => some (onPairCmp g d a b (intCond m))
  | .lea h d a b => some ⟨[pair d, pair a, one b],
    regs64 g d fun j => g.rd64 a.toNat j + ((g.rd b.toNat)[j].signExtend 64 <<< h.toNat)⟩
  | .and d a b => some (on2 g d a b (· &&& ·))
  | .or d a b => some (on2 g d a b (· ||| ·))
  | .xor d a b => some (on2 g d a b (· ^^^ ·))
  | .andn d a b => some (on2 g d a b (fun x y => x &&& ~~~y))
  | .shl d a b => some (on2 g d a b (fun x y => x <<< y.toNat))
  | .shr d a b => some (on2 g d a b (fun x y => x >>> y.toNat))
  | .sar d a b => some (on2 g d a b (fun x y => x.sshiftRight y.toNat))
  | .rol d a b => some (on2 g d a b (fun x y => x.rotateLeft (y.toNat % 32)))
  | .ror d a b => some (on2 g d a b (fun x y => x.rotateRight (y.toNat % 32)))
  | .popc d a => some (on1 g d a aluPopc)
  | .clz d a => some (on1 g d a aluClz)
  | .ctz d a => some (on1 g d a aluCtz)
  | .brev d a => some (on1 g d a BitVec.reverse)
  | .bfx sg d a b => some (on2 g d a b (aluBfx (sg == 1#1)))
  | .bfi d a b => some (on3 g d a b (fun x y z => aluBfi z x y))
  | .sel d a b x => some ⟨[one d, one a, one b, one (extE x)], regs32 g d fun j =>
    if (g.rd (extE x).toNat)[j].getLsbD 0 then (g.rd a.toNat)[j] else (g.rd b.toNat)[j]⟩
  | .addi d a i x => some (on1 g d a (fun v => v + immI true i x))
  | .andi d a i x => some (on1 g d a (fun v => v &&& immI false i x))
  | .ori d a i x => some (on1 g d a (fun v => v ||| immI false i x))
  | .xori d a i x => some (on1 g d a (fun v => v ^^^ immI false i x))
  | .muli d a i x => some (on1 g d a (fun v => v * immI true i x))
  | .shli d a i => some (on1 g d a (fun v => v <<< i.toNat))
  | .shri d a i => some (on1 g d a (fun v => v >>> i.toNat))
  | .sari d a i => some (on1 g d a (fun v => v.sshiftRight i.toNat))
  | _ => none

/-- Lane floating-point instructions and conversions (R98 to R104, R115 to R117, R166 to R171). -/
def laneFloatEffect (i : Instr) (g : Group) : Option Effect :=
  match i with
  | .faddF32 m d a b => some (on2 g d a b (w32 (fpAdd f32 m)))
  | .fsubF32 m d a b => some (on2 g d a b (w32 (fpSub f32 m)))
  | .fmulF32 m d a b => some (on2 g d a b (w32 (fpMul f32 m)))
  | .fmacF32 m d a b => some (on3 g d a b (w32m (fpMac f32 m)))
  | .fminF32 d a b => some (on2 g d a b (w32 (f32.minmax false)))
  | .fmaxF32 d a b => some (on2 g d a b (w32 (f32.minmax true)))
  | .cmpF32 m d a b => some (on2 g d a b (fun x y => predWord (fpCmp f32 m x.toNat y.toNat)))
  | .rcpF32 d a => some (on1 g d a (approxF32 0#3))
  | .rsqF32 d a => some (on1 g d a (approxF32 1#3))
  | .sqrtF32 d a => some (on1 g d a (approxF32 2#3))
  | .exp2F32 d a => some (on1 g d a (approxF32 3#3))
  | .log2F32 d a => some (on1 g d a (approxF32 4#3))
  | .tanhF32 d a => some (on1 g d a (approxF32 5#3))
  | .faddF64 m d a b => some (onPairs g d a b (w64 (fpAdd f64 m)))
  | .fsubF64 m d a b => some (onPairs g d a b (w64 (fpSub f64 m)))
  | .fmulF64 m d a b => some (onPairs g d a b (w64 (fpMul f64 m)))
  | .fmacF64 m d a b => some (onPairs3 g d a b (fpMac f64 m))
  | .fminF64 d a b => some (onPairs g d a b (w64 (f64.minmax false)))
  | .fmaxF64 d a b => some (onPairs g d a b (w64 (f64.minmax true)))
  | .cmpF64 m d a b => some (onPairCmp g d a b (fun x y => fpCmp f64 m x.toNat y.toNat))
  | .faddF16 m d a b => some (on2 g d a b (wHalf (fpAdd f16 m)))
  | .fmulF16 m d a b => some (on2 g d a b (wHalf (fpMul f16 m)))
  | .fmacF16 m d a b => some (on3 g d a b (wHalfm (fpMac f16 m)))
  | .faddBf16 m d a b => some (on2 g d a b (wHalf (fpAdd bf16 m)))
  | .fmulBf16 m d a b => some (on2 g d a b (wHalf (fpMul bf16 m)))
  | .fmacBf16 m d a b => some (on3 g d a b (wHalfm (fpMac bf16 m)))
  | .faddF16x2 m d a b => some (on2 g d a b (wPack (fpAdd f16 m)))
  | .fmulF16x2 m d a b => some (on2 g d a b (wPack (fpMul f16 m)))
  | .fmacF16x2 m d a b => some (on3 g d a b (wPackm (fpMac f16 m)))
  | .faddBf16x2 m d a b => some (on2 g d a b (wPack (fpAdd bf16 m)))
  | .fmulBf16x2 m d a b => some (on2 g d a b (wPack (fpMul bf16 m)))
  | .fmacBf16x2 m d a b => some (on3 g d a b (wPackm (fpMac bf16 m)))
  | .fminFmaxHalf t x d a b => some (on2 g d a b (minmaxHalf t (x == 1#1)))
  | .cmpF16 m d a b => some (on2 g d a b (fun x y => predWord (fpCmp f16 m (lo16 x) (lo16 y))))
  | .cmpBf16 m d a b => some (on2 g d a b (fun x y => predWord (fpCmp bf16 m (lo16 x) (lo16 y))))
  | .cvtToFloat m d a c t => some (onCvt g (wideSrc c) (t == 0#2) d a (toFloat m c t))
  | .cvtToInteger m d a c t => some (onCvt g (wideSrc c) (t.extractLsb' 0 2 == 3#2) d a (toInteger m c t))
  | .cvtToNarrow m d a c t => some (onCvt g (wideSrc c) false d a (toNarrow m c t))
  | .cvtBf16x2F32 m d a b => some (on2 g d a b (packTo bf16 m))
  | .cvtF16x2F32 m d a b => some (on2 g d a b (packTo f16 m))
  | _ => none

/-- Cross-lane instructions (R172 to R177). -/
def crossLaneEffect (i : Instr) (g : Group) : Option Effect :=
  match i with
  | .shfl m d a b x => some ⟨[one d, one a, one b, one (extE x)], regs32 g d fun j =>
      let src := shflSource m j.val (g.rd b.toNat)[j]
      if (g.members (extE x)).getLsbD j.val ∧ (g.members (extE x)).getLsbD src then laneAt (g.rd a.toNat) src
      else (g.rd a.toNat)[j]⟩
  | .vote m d a b => some ⟨[one d, one a, one b], regs32 g d fun j =>
      if (g.members b).getLsbD j.val then
        (match m with
          | 0#3 => BitVec.ofNat 32 (voteCount (g.members b) (g.rd a.toNat) true 128)
          | 1#3 => BitVec.ofNat 32 (voteCount (g.members b) (g.rd a.toNat) true j.val)
          | _ => BitVec.ofNat 32 (voteCount (g.members b) (g.rd a.toNat) false 128))
      else (g.rd a.toNat)[j]⟩
  | .red m d a b => some ⟨[one d, one a, one b], regs32 g d fun j =>
      if (g.members b).getLsbD j.val then redValue m (g.members b) (g.rd a.toNat) 127 else (g.rd a.toNat)[j]⟩
  | .scan m d a b => some ⟨[one d, one a, one b], regs32 g d fun j =>
      if (g.members b).getLsbD j.val then redValue m (g.members b) (g.rd a.toNat) j.val else (g.rd a.toNat)[j]⟩
  | .perm d a b x => some ⟨[one d, one a, one b, one (extE x)], regs32 g d fun j =>
      match (if (g.members (extE x)).getLsbD j.val then permSender (g.members (extE x)) (g.rd b.toNat) j.val 128 else none) with
      | some l => laneAt (g.rd a.toNat) l
      | none => (g.rd a.toNat)[j]⟩
  | _ => none

/-- Uniform arithmetic (R159 to R171 through R155), and the uniform reads of a target register, a mask and the batch state
(R130, R144, R231). -/
def uniformEffect (i : Instr) (s : State) : Option Effect :=
  let g := s.g
  match i with
  | .uadd m d a b => some (un2 g d a b (fun x y => intRes m (intOf (m.getLsbD 1) x + intOf (m.getLsbD 1) y)))
  | .usub m d a b => some (un2 g d a b (fun x y => intRes m (intOf (m.getLsbD 1) x - intOf (m.getLsbD 1) y)))
  | .umul m d a b => some (un2 g d a b (fun x y => intRes m (intOf (m.getLsbD 1) x * intOf (m.getLsbD 1) y)))
  | .udiv m d a b => some (un2 g d a b (aluDiv m))
  | .urem m d a b => some (un2 g d a b (aluRem m))
  | .umin m d a b => some (un2 g d a b (fun x y => if intOf (m.getLsbD 1) y < intOf (m.getLsbD 1) x then y else x))
  | .umax m d a b => some (un2 g d a b (fun x y => if intOf (m.getLsbD 1) x < intOf (m.getLsbD 1) y then y else x))
  | .umad m d a b => some (un3 g d a b (fun x y z => intRes m (intOf (m.getLsbD 1) x * intOf (m.getLsbD 1) y + intOf
      (m.getLsbD 1) z)))
  | .ucmp m d a b => some (un2 g d a b (fun x y => predWord (intCond m x y)))
  | .uadd64 m d a b => some (unPairs g d a b (fun x y => intFit 64 (m.getLsbD 1) (m.getLsbD 0) (intOf (m.getLsbD 1) x +
      intOf (m.getLsbD 1) y)))
  | .usub64 m d a b => some (unPairs g d a b (fun x y => intFit 64 (m.getLsbD 1) (m.getLsbD 0) (intOf (m.getLsbD 1) x -
      intOf (m.getLsbD 1) y)))
  | .ucmp64 m d a b => some ⟨[one d, pair a, pair b],
    [(d.toNat, Lanes.uni (predWord (intCond m (g.u64 a.toNat) (g.u64 b.toNat))))]⟩
  | .ulea h d a b => some ⟨[pair d, pair a, one b],
    uniPair d.toNat (g.u64 a.toNat + ((g.u b.toNat).signExtend 64 <<< h.toNat))⟩
  | .uand d a b => some (un2 g d a b (· &&& ·))
  | .uor d a b => some (un2 g d a b (· ||| ·))
  | .uxor d a b => some (un2 g d a b (· ^^^ ·))
  | .uandn d a b => some (un2 g d a b (fun x y => x &&& ~~~y))
  | .ushl d a b => some (un2 g d a b (fun x y => x <<< y.toNat))
  | .ushr d a b => some (un2 g d a b (fun x y => x >>> y.toNat))
  | .usar d a b => some (un2 g d a b (fun x y => x.sshiftRight y.toNat))
  | .upopc d a => some (un1 g d a aluPopc)
  | .uclz d a => some (un1 g d a aluClz)
  | .uctz d a => some (un1 g d a aluCtz)
  | .ubfx sg d a b => some (un2 g d a b (aluBfx (sg == 1#1)))
  | .usel d a b x => some ⟨[one d, one a, one b, one (extE x)],
    [(d.toNat, Lanes.uni (if (g.u (extE x).toNat).getLsbD 0 then g.u a.toNat else g.u b.toNat))]⟩
  | .uaddi d a i x => some (un1 g d a (fun v => v + immI true i x))
  | .uandi d a i x => some (un1 g d a (fun v => v &&& immI false i x))
  | .uori d a i x => some (un1 g d a (fun v => v ||| immI false i x))
  | .ushli d a i => some (un1 g d a (fun v => v <<< i.toNat))
  | .ushri d a i => some (un1 g d a (fun v => v >>> i.toNat))
  | .usari d a i => some (un1 g d a (fun v => v.sshiftRight i.toNat))
  | .li d i x => some ⟨[one d], [(d.toNat, Lanes.uni (immL i x))]⟩
  | .ufaddF32 m d a b => some (un2 g d a b (w32 (fpAdd f32 m)))
  | .ufmulF32 m d a b => some (un2 g d a b (w32 (fpMul f32 m)))
  | .ufmacF32 m d a b => some (un3 g d a b (w32m (fpMac f32 m)))
  | .ucmpF32 m d a b => some (un2 g d a b (fun x y => predWord (fpCmp f32 m x.toNat y.toNat)))
  | .ucvtToFloat m d a c t => some (unCvt g (wideSrc c) (t == 0#2) d a (toFloat m c t))
  | .ucvtToInteger m d a c t => some (unCvt g (wideSrc c) (t.extractLsb' 0 2 == 3#2) d a (toInteger m c t))
  | .brd n c => some ⟨[pair c], uniPair c.toNat (0#8 ++ (g.target n).addr ++ 0#1 ++ (if (g.target n).v then 1#1 else 0#1))⟩
  | .msave d => some ⟨[one d], [(d.toNat, lanesOfMask g.exec)]⟩
  | .mcount d a => some ⟨[one d, one a], [(d.toNat, Lanes.uni (BitVec.ofNat 32 (maskCount (maskOf (g.rd a.toNat)))))]⟩
  | .mfirst d a => some ⟨[one d, one a], [(d.toNat, Lanes.uni (BitVec.ofNat 32 ((lowestBit (maskOf (g.rd a.toNat))).getD 128)))]⟩
  | .mstat d sel => some ⟨[pair d], uniPair d.toNat (s.mstatValue sel.toNat)⟩
  | _ => none

/-! ### Masks and transfers (R132, R144) -/

/-- A mask instruction: its operands, the register it writes with the D value, and the mask that EXEC receives ANDed with
LIVE (R27, R144). -/
def maskEffect (i : Instr) (g : Group) : Option (Effect × Mask) :=
  match i with
  | .mload a => some (⟨[one a], []⟩, maskOf (g.rd a.toNat))
  | .mrestore a => some (⟨[one a], []⟩, maskOf (g.rd a.toNat))
  | .mand d a b =>
    let m := maskOf (g.rd a.toNat) &&& maskOf (g.rd b.toNat)
    some (⟨[one d, one a, one b], [(d.toNat, lanesOfMask (m &&& g.live))]⟩, m)
  | .mandn d a b =>
    let m := maskOf (g.rd a.toNat) &&& ~~~maskOf (g.rd b.toNat)
    some (⟨[one d, one a, one b], [(d.toNat, lanesOfMask (m &&& g.live))]⟩, m)
  | .mor d a b =>
    let m := maskOf (g.rd a.toNat) ||| maskOf (g.rd b.toNat)
    some (⟨[one d, one a, one b], [(d.toNat, lanesOfMask (m &&& g.live))]⟩, m)
  | .mall d => some (⟨[one d], [(d.toNat, lanesOfMask g.exec)]⟩, g.live)
  | _ => none

/-- A transfer through a target register: its operands, the target register, whether it is taken (Table 4-2). -/
def transferOf (i : Instr) (g : Group) : Option (List Opnd × BitVec 3 × Bool) :=
  match i with
  | .br n => some ([], n, true)
  | .brt n c => some ([one c], n, (g.u c.toNat).getLsbD 0)
  | .brf n c => some ([one c], n, !(g.u c.toNat).getLsbD 0)
  | .brnone n => some ([], n, g.exec == 0)
  | .brany n => some ([], n, g.exec != 0)
  | _ => none

/-- The group in hand continues at the address of a target register, with the words of its window (R135). -/
def State.goTo (s : State) (t : Target) : State :=
  { s with g := { s.g with pc := t.addr ++ 0#2, run := t.buf, wait := .none } }

/-! ### Memory -/

/-- Stage 1 passes (R178): each lane's access is translated without a fault, every line it touches can be used where it
stands, and no poison is met. `accs` are the accesses of the active lanes with their places. -/
def Reaches (s : State) (m : MemOp) (qs : List LaneReq) (accs : List LaneAcc) : Prop :=
  qs.map (s.laneCheck m) = accs.map LaneRes.ok ∧
  ∀ u ∈ accs.flatMap LaneAcc.lines, s.lineState m.kind u = .ok ∧
    (m.data = true → s.poisonHit m.kind (covers accs) u = none)

/-- The state in which stage 2 is performed: the walker's A and D marks made (R335), the access's transactions over. -/
def State.ready (s : State) (accs : List LaneAcc) : State := (s.mark (accs.flatMap (·.ps))).settled

/-- ORD and SCOPE of a load, a store or an atomic (R73). -/
def orderForm (i : Instr) : BitVec 2 × BitVec 3 :=
  match i with
  | .ldS8 o c _ _ _ _ => (o, c)
  | .ldN8 o c _ _ _ _ => (o, c)
  | .ldS16 o c _ _ _ _ => (o, c)
  | .ldN16 o c _ _ _ _ => (o, c)
  | .ld32 o c _ _ _ _ => (o, c)
  | .ld64 o c _ _ _ _ => (o, c)
  | .ld128 o c _ _ _ _ => (o, c)
  | .st8 o c _ _ _ _ => (o, c)
  | .st16 o c _ _ _ _ => (o, c)
  | .st32 o c _ _ _ _ => (o, c)
  | .st64 o c _ _ _ _ => (o, c)
  | .st128 o c _ _ _ _ => (o, c)
  | .atom32 o c _ _ _ _ => (o, c)
  | .atom64 o c _ _ _ _ => (o, c)
  | .atom128 o c _ _ _ _ => (o, c)
  | .ldc32 o _ _ _ _ => (o, 1)
  | .ldc64 o _ _ _ _ => (o, 1)
  | .ldc128 o _ _ _ _ => (o, 1)
  | .ldcWK32 o _ _ _ _ => (o, 1)
  | .ldcWK64 o _ _ _ _ => (o, 1)
  | .ldcWK128 o _ _ _ _ => (o, 1)
  | .ldcWC32 o _ _ _ _ => (o, 1)
  | .ldcWC64 o _ _ _ _ => (o, 1)
  | .ldcWC128 o _ _ _ _ => (o, 1)
  | .stc32 o _ _ _ _ => (o, 1)
  | .stc64 o _ _ _ _ => (o, 1)
  | .stc128 o _ _ _ _ => (o, 1)
  | .stcF32 o _ _ _ _ => (o, 1)
  | .stcF64 o _ _ _ _ => (o, 1)
  | .stcF128 o _ _ _ _ => (o, 1)
  | _ => (0, 0)

/-- A relaxed load uses up an entry of what may be held back. -/
def State.afterLoad (s : State) (o : BitVec 2) : State := if o = 0 then s.deferUsed else s

/-- A load: bytes, sign extension, destination, pointer, offset field, prefix (R184). -/
def loadForm (i : Instr) : Option (Nat × Bool × Reg × Reg × BitVec 5 × Option (BitVec 24)) :=
  match i with
  | .ldS8 _ _ d a k x => some (1, true, d, a, k, x)
  | .ldN8 _ _ d a k x => some (1, false, d, a, k, x)
  | .ldS16 _ _ d a k x => some (2, true, d, a, k, x)
  | .ldN16 _ _ d a k x => some (2, false, d, a, k, x)
  | .ld32 _ _ d a k x => some (4, false, d, a, k, x)
  | .ld64 _ _ d a k x => some (8, false, d, a, k, x)
  | .ld128 _ _ d a k x => some (16, false, d, a, k, x)
  | _ => none

/-- A store: bytes, source, pointer, offset field, prefix (R184). -/
def storeForm (i : Instr) : Option (Nat × Reg × Reg × BitVec 5 × Option (BitVec 24)) :=
  match i with
  | .st8 _ _ d a k x => some (1, d, a, k, x)
  | .st16 _ _ d a k x => some (2, d, a, k, x)
  | .st32 _ _ d a k x => some (4, d, a, k, x)
  | .st64 _ _ d a k x => some (8, d, a, k, x)
  | .st128 _ _ d a k x => some (16, d, a, k, x)
  | _ => none

/-- A core-memory load: bytes, whether it waits for full granules, whether it empties them (R192, R193). -/
def coreLoadForm (i : Instr) : Option (Nat × Bool × Bool × Reg × Reg × BitVec 5 × Option (BitVec 24)) :=
  match i with
  | .ldc32 _ d a k x => some (4, false, false, d, a, k, x)
  | .ldc64 _ d a k x => some (8, false, false, d, a, k, x)
  | .ldc128 _ d a k x => some (16, false, false, d, a, k, x)
  | .ldcWK32 _ d a k x => some (4, true, false, d, a, k, x)
  | .ldcWK64 _ d a k x => some (8, true, false, d, a, k, x)
  | .ldcWK128 _ d a k x => some (16, true, false, d, a, k, x)
  | .ldcWC32 _ d a k x => some (4, true, true, d, a, k, x)
  | .ldcWC64 _ d a k x => some (8, true, true, d, a, k, x)
  | .ldcWC128 _ d a k x => some (16, true, true, d, a, k, x)
  | _ => none

/-- A core-memory store: bytes, whether it sets the granules full (R192). -/
def coreStoreForm (i : Instr) : Option (Nat × Bool × Reg × Reg × BitVec 5 × Option (BitVec 24)) :=
  match i with
  | .stc32 _ d a k x => some (4, false, d, a, k, x)
  | .stc64 _ d a k x => some (8, false, d, a, k, x)
  | .stc128 _ d a k x => some (16, false, d, a, k, x)
  | .stcF32 _ d a k x => some (4, true, d, a, k, x)
  | .stcF64 _ d a k x => some (8, true, d, a, k, x)
  | .stcF128 _ d a k x => some (16, true, d, a, k, x)
  | _ => none

/-- The core-memory accesses at `offs` are inside `size` bytes, aligned, on granules without uncorrectable data, and no copy
engine owns their lines (R190, R211, R187); they stand in core memory. -/
def CoreReaches (s : State) (size n : Nat) (offs : List (Fin 128 × Nat)) : Prop :=
  ∀ o ∈ offs, o.2 + n ≤ size ∧ o.2 % n = 0 ∧ s.isBad ((s.teamBase s.myTeam + o.2) / 16) = false ∧
    s.engineOwns ((s.teamBase s.myTeam + o.2) / 128) = false ∧ gaRegion (s.teamBase s.myTeam + o.2) = 1

/-- An atomic: bytes, destination, pointer, operation, prefix (R197). -/
def atomForm (i : Instr) : Option (Nat × Reg × Reg × BitVec 5 × Option (BitVec 24)) :=
  match i with
  | .atom32 _ _ d a k x => some (4, d, a, k, x)
  | .atom64 _ _ d a k x => some (8, d, a, k, x)
  | .atom128 _ _ d a k x => some (16, d, a, k, x)
  | _ => none

/-- A load, a store, a typed one or an atomic: its operands, what it is to memory, and the accesses of its active lanes (R178). -/
def laneForm (i : Instr) (s : State) : Option (List Opnd × MemOp × List LaneReq) :=
  match loadForm i, storeForm i, atomForm i with
  | some (n, _, d, a, k, x), _, _ => some ([opndOf n d, pair a] ++ opX x, loadOp, s.g.reqs a n n (memK k x) x)
  | none, some (n, d, a, k, x), _ => some ([opndOf n d, pair a] ++ opX x, storeOp, s.g.reqs a n n (memK k x) x)
  | none, none, some (n, d, a, k, x) =>
    some ([atomOpnd n (k.toNat == 9) d, pair a] ++ opX x, ⟨.rmw, true, true, s.hostAtom n k, false⟩,
      (s.g.reqs a n n 0 x).map fun q => { q with more := if q.ptr % n = 0 then [] else [(3, 10)] })
  | none, none, none =>
    match i with
    | .ldf _ _ d a k x => some ([quad d, pair a] ++ opX x, loadOp, s.typedReqs .read a (memK k x) x)
    | .stf _ _ d a k x => some ([quad d, pair a] ++ opX x, storeOp, s.typedReqs .write a (memK k x) x)
    | _ => none

/-- A form that accesses core memory: its operands, its access kind as TRAP.INFO gives it, the bytes that it may touch, its width,
and the offsets of its active lanes (R190, R192 to R196). -/
def coreForm (i : Instr) (s : State) : Option (List Opnd × Nat × Nat × Nat × List (Fin 128 × Nat)) :=
  match coreLoadForm i, coreStoreForm i with
  | some (n, _, take, d, a, k, x), _ =>
    some ([opndOf n d, one a] ++ opX x, if take then 2 else 0, s.myTeam.cmem, n, s.g.offs a n (memK k x) x)
  | none, some (n, _, d, a, k, x) => some ([opndOf n d, one a] ++ opX x, 1, s.myTeam.cmem, n, s.g.offs a n (memK k x) x)
  | none, none =>
    match i with
    | .atomc _ d a b => some ([one d, one a, one b], 2, s.myTeam.cmem, 4,
      (lanesIn s.g.exec).map fun l => (l, ((s.g.rd a.toNat)[l]).toNat))
    | .stcT128 d a k x => some ([quad d, one a] ++ opX x, 1, s.kernelBytes, 16, s.g.offs a 16 (memK k x) x)
    | .clre a k x => some ([one a] ++ opX x, 1, s.myTeam.cmem, 16, s.g.offs a 16 (memK k x) x)
    | _ => none

/-- The code of class 3 of a lane's core-memory access: 9 beyond the bytes that it may touch, 10 misaligned (Table 6-1). -/
def coreCode (size n off : Nat) : Option Nat := if size < off + n then some 9 else if off % n ≠ 0 then some 10 else none

/-- Fault `a` is reported before `b`: lower class, then code, then lane (R46). -/
def Trap.before (a b : Trap) : Prop :=
  a.cls < b.cls ∨ (a.cls = b.cls ∧ (a.code < b.code ∨ (a.code = b.code ∧ a.lane.getD 128 < b.lane.getD 128)))

/-- A cache operation: 0 write back, 1 drop the clean copies, 2 write back and drop; its scope, pointer, offset field, prefix
(R206). -/
def cacheForm (i : Instr) : Option (Nat × BitVec 3 × Reg × BitVec 5 × Option (BitVec 24)) :=
  match i with
  | .cwb sc a k x => some (0, sc, a, k, x)
  | .cinv sc a k x => some (1, sc, a, k, x)
  | .cflush sc a k x => some (2, sc, a, k, x)
  | _ => none

/-- No byte of memory but those at `ps` differs between two states. -/
def SameBytes (s t : State) (ps : List (Nat × Nat)) : Prop :=
  ∀ ga, (∀ p ∈ ps, ga < p.1 ∨ p.1 + p.2 ≤ ga) → t.byte ga = s.byte ga

/-- The page-table entries that the walker marks for the accesses (R335). -/
def marksOf (accs : List LaneAcc) : List (Nat × Nat) :=
  (accs.flatMap (·.ps)).filterMap fun p => p.x.mark.map fun e => (e.1, 8)

/-- The bytes of core memory at the lanes' offsets. -/
def State.coreRanges (s : State) (n : Nat) (offs : List (Fin 128 × Nat)) : List (Nat × Nat) :=
  offs.map fun o => (s.teamBase s.myTeam + o.2, n)

/-- No byte of `n` from `ga` is a device register (Table 1-7). -/
def InRam (ga n : Nat) : Prop := ∀ j, j < n → gaRegion (ga + j) ≠ 15

/-- The accesses reach memory, no host page and no device register. -/
def InMemory (accs : List LaneAcc) : Prop := ∀ a ∈ accs, ∀ p ∈ a.ps, p.x.home ≠ 4 ∧ InRam p.x.ga p.len

/-- `t` is past the instruction, which is held back: its results, in the registers `d` on, are in flight, no piece of it is performed;
no byte changes but the marks of the walker and what was held back before it (R287, R305). -/
def HeldBack (i : Instr) (s t : State) (d cnt : Nat) (kind : HeldKind) (accs : List LaneAcc) : Prop :=
  (∃ h, t.g.mo.loads.getLast? = some h ∧ h.d = d ∧ h.cnt = cnt ∧ h.kind = kind ∧
    h.ps.map (fun p => (p.lane.val, p.ga, p.len, p.got)) =
      (accs.flatMap LaneAcc.gets).map fun p => (p.lane, p.ga, p.len, none)) ∧
  t.g.pc = s.g.pc + BitVec.ofNat 56 (Instr.size i) ∧ t.g.wait = .none ∧ SameBytes s t (marksOf accs ++ s.unsettled) ∧
  (s.g.mo.loads = [] → ∀ q, q < 128 → t.g.rd q = s.g.rd q)

/-- Each access is one piece of `n` bytes within a granule, apart from every other one's. -/
def Apart (accs : List LaneAcc) (n : Nat) : Prop :=
  (∀ a ∈ accs, ∃ p, a.ps = [p] ∧ p.off = 0 ∧ p.len = n ∧ p.x.ga % 16 + n ≤ 16) ∧
  accs.Pairwise fun a b => a.lane ≠ b.lane ∧ ∀ p ∈ a.ps, ∀ q ∈ b.ps, p.x.ga + p.len ≤ q.x.ga ∨ q.x.ga + q.len ≤ p.x.ga

/-! ### Matrix operations -/

/-- A matrix operation: its number among OP 0x50 to 0x5B, the M and SEL fields, D, A, B, E (R213, Table 7-1). -/
def matrixForm (i : Instr) : Option (Nat × BitVec 3 × BitVec 3 × Reg × Reg × Reg × Reg) :=
  match i with
  | .mmaBf16 z d a b => some (0x50, z.zeroExtend 3, 0, d, a, b, 0)
  | .mmaF16 z d a b => some (0x51, z.zeroExtend 3, 0, d, a, b, 0)
  | .mmaT8 z d a b => some (0x52, z.zeroExtend 3, 0, d, a, b, 0)
  | .mmaT6 z d a b => some (0x53, z.zeroExtend 3, 0, d, a, b, 0)
  | .mmaI4 z d a b => some (0x54, z.zeroExtend 3, 0, d, a, b, 0)
  | .mmas n z d a b x => some (0x55, n ++ z, extSel x, d, a, b, extE x)
  | .mmaqBf16 z d a b => some (0x56, z.zeroExtend 3, 0, d, a, b, 0)
  | .mmaqF16 z d a b => some (0x57, z.zeroExtend 3, 0, d, a, b, 0)
  | .mmaqT8 z d a b => some (0x58, z.zeroExtend 3, 0, d, a, b, 0)
  | .mmaqT6 z d a b => some (0x59, z.zeroExtend 3, 0, d, a, b, 0)
  | .mmaqI4 z d a b => some (0x5A, z.zeroExtend 3, 0, d, a, b, 0)
  | .mmaqs n z d a b x => some (0x5B, n ++ z, extSel x, d, a, b, extE x)
  | _ => none

/-- The operands of a matrix operation, the scale registers of its step among them (R46, R215, R222). -/
def matrixOps (f : MatForm) (mscl : DWord) (d a b e : Reg) : List Opnd :=
  [⟨d.toNat, f.wc, 4⟩, ⟨a.toNat, f.aRegs, 4⟩, ⟨b.toNat, f.bRegs, 4⟩] ++ (if f.n = 0 then [] else [⟨e.toNat, f.eRegs, 4⟩]) ++
  (scaleRegsA mscl f.kd ++ scaleRegsB mscl f.kd).map fun r => ⟨r, 1, 1⟩

/-! ### Copies, collectives -/

/-- A copy instruction: its operands and its request (R235, Tables 7-6 and 7-7). -/
def copyForm (i : Instr) (g : Group) : Option (List Opnd × CopyArgs) :=
  match i with
  | .cpy d a b => some ([pair d, pair a, pair b], ⟨.cpy, g.u64 d.toNat, g.u64 a.toNat, g.u64 b.toNat, 0⟩)
  | .cpy2d d a b x =>
    some ([pair d, pair a, pair b, pair (extE x)],
      ⟨.cpy2d, g.u64 d.toNat, g.u64 a.toNat, g.u64 b.toNat, g.u64 (extE x).toNat⟩)
  | .cpyx d a b => some ([pair d, pair a, pair b], ⟨.cpyx, g.u64 d.toNat, g.u64 a.toNat, g.u64 b.toNat, 0⟩)
  | .cpyk d a b x =>
    some ([pair d, pair a, pair b, pair (extE x)],
      ⟨.cpyk, g.u64 d.toNat, g.u64 a.toNat, g.u64 b.toNat, g.u64 (extE x).toNat⟩)
  | _ => none

/-- A collective instruction: its operation number (0 reduce, 1 broadcast, 2 gather) and operands (R271, R272). -/
def collForm (i : Instr) : Option (Nat × Reg × Reg × Reg) :=
  match i with
  | .collRed d a b => some (0, d, a, b)
  | .collBcast d a b => some (1, d, a, b)
  | .collGath d a b => some (2, d, a, b)
  | _ => none

/-! ### Steps without an encoding -/

/-- Memory, the group registers, the groups and the teams stay. -/
def Quiet (s t : State) : Prop := t.mem = s.mem ∧ t.g = s.g ∧ t.groups = s.groups ∧ t.teams = s.teams

/-- A request of operation `op` of another package that its home hears and can serve now (R402, R409, R418, R424, R431). -/
def Heard (s : State) (op : Nat) (t : Txn) : Prop :=
  Store.find s.arg.key s.txns = some t ∧ t.phase = 0 ∧ t.op = op ∧ t.src ≠ gaPkg t.ga ∧ s.cannotServe t = false ∧
  s.unheard t = false ∧ s.srcOk (gaDie t.ga) t.src = true

/-- The home has begun the service of such a request, in its turn, and every package that it asked has acknowledged (R410, R411); no
directory entry is being evicted (R407). -/
def Pending (s : State) (op : Nat) (t : Txn) : Prop :=
  Heard s op t ∧ t.seq.isSome = true ∧ t.ask = some [] ∧ ∀ x ∈ s.txns, x.2.op ≠ 10

/-- A transaction whose request its home has served, whose issuer still waits for the answer and can receive it (R402, R418). -/
def Answered (s : State) (t : Txn) : Prop :=
  Store.find s.arg.key s.txns = some t ∧ t.phase = 1 ∧ t.gk ≠ noGroup ∧ s.portsOpen t.src = true ∧ (s.pkg t.src).dead = false ∧
  s.srcOk (4 * t.src) (gaPkg t.ga) = true

/-- A package has still to answer what the home sent it for the request `t` of key `key`, and its answer gets through (R411, R418). -/
def Asked (s : State) (p line key : Nat) (t : Txn) : Prop :=
  s.asking p line = some (key, t) ∧ t.op ≠ 10 ∧ (s.pkg p).dead = false ∧ s.reachable (gaDie (line * 128)) p = true ∧
  s.hears (gaDie (line * 128)) p = true ∧ s.srcOk (gaDie (line * 128)) p = true

/-- The request with the acknowledgement of package `p` taken. -/
def Txn.heardFrom (t : Txn) (p : Nat) : Txn := { t with ask := t.ask.map fun ps => ps.filter (· != p) }

/-- A run of the die stands at a clause of kind `k`: its 64 bytes are `b`, and `s1` is the state after the parser read them (R373). -/
def ClauseAt (s : State) (k : Nat) (r : Run) (b : List Byte) (s1 : State) : Prop :=
  s.runOf s.arg.key (BitVec.ofNat 32 s.arg.sub) = some r ∧ r.ready = true ∧ r.phase ≠ 2 ∧ r.loaded = true ∧ r.cur < r.count ∧
  ∃ ps, s.plainAccess s.arg.key r.asn (r.clauses.toNat + 64 * r.cur) 64 .read r.fail = .ok ps ∧ s1 = s.mark ps ∧
    b = s1.plainRead s.arg.key ps ∧ badClause b = false ∧ pkt b 0 4 = k

/-- An access of `n` bytes at one place of memory, inside one granule, that marks nothing. -/
def OnePiece (p : Piece) (n : Nat) : Prop :=
  p.off = 0 ∧ p.len = n ∧ p.x.ga % 16 + n ≤ 16 ∧ p.x.home ≠ 4 ∧ gaRegion p.x.ga ≠ 15 ∧ p.x.mark = none

/-- A team with the groups `roles` fits a core: its slots begin with `n0`, its core memory at `base`, and the partitions hold no
more rows than they have (R19, R253, R353). No group bears the key of the team that starts next. -/
def Places (s : State) (l : Launch) (core : Nat) (roles : List (Nat × Nat)) (n0 base : Nat) : Prop :=
  (∃ ns, s.slotsFor l.dk core (rolePlaces roles) = some (n0 :: ns)) ∧ s.freeBase l.dk core l.bytes = some base ∧
  s.rowsOk l.dk core = true ∧ ∀ g ∈ s.allGroups, g.tid ≠ s.fresh

end Sys2Proof.Machine
end

