-- ==== Sys2Proof/Certificates/Slice0/Obligations.lean ====
section
/-! DEFINITION. The statements for the provers: what each instruction and each step without an encoding does, its frame, where it
traps, and what holds of every state (one `def Obligations.<Name>` each, as OBLIGATIONS.json lists them). -/

open Sys2Proof Sys2Proof.Machine

/-- Every well-formed instruction that has an encoding is read back from its bytes, with every operand at every value that the
encoding admits (R55, R63; Tables 2-1 to 2-7). -/
def Obligations.DecodeOfEncode : Prop :=
  ∀ (i : Instr) (r : List Byte), i.encodable = true → i.wf = true → decode (encodeBytes i ++ r) = .ok (i, r)

/-- Whatever the decoder reads is a well-formed instruction with an encoding: a prefix only where Table 2-3 accepts its KIND, an
`ext` pair only where the second word does not accept it (R64), no instruction for a word of the table (R76). -/
def Obligations.DecodedIsWellFormed : Prop :=
  ∀ (bs : List Byte) (i : Instr) (r : List Byte), decode bs = .ok (i, r) → i.wf = true ∧ i.encodable = true

/-- Words written out from the encodings of the manual decode to the instructions they stand for. -/
def Obligations.DecodedWords : Prop :=
  -- add.s32 v3, v1, v2: major 0x00, M 0, D 3, A 1, B 2
  decode [0x82, 0xC0, 0x00, 0x00] = .ok (.add 0#3 3#7 1#7 2#7, []) ∧
  -- ld.32 v4, [v6 + 4]: major 0x64, ORD 0, SCOPE 0, D 4, A 6, K 1
  decode [0xC1, 0x40, 0x00, 0x64] = .ok (.ld32 0#2 0#3 4#7 6#7 1#5 none, []) ∧
  -- li v5, #-1: major 0xA8, D 5, IMM 0x1FFFF
  decode [0xFF, 0xFF, 0x0B, 0xA8] = .ok (.li 5#7 0x1FFFF#17 none, []) ∧
  -- mma.bf16 v16, v8, v4: major 0xD0, M 0, D 16, A 8, B 4
  decode [0x04, 0x04, 0x04, 0xD0] = .ok (.mmaBf16 0#1 16#7 8#7 4#7, []) ∧
  -- exit: major 0xBE
  decode [0, 0, 0, 0xBE] = .ok (.exit, []) ∧
  -- ext 0x000001 before addi v1, v2, #3: the immediate becomes 0x403
  decode [0x01, 0x00, 0x00, 0xFF, 0x03, 0x08, 0x02, 0x20] = .ok (.addi 1#7 2#7 3#10 (some 1#24), []) ∧
  -- a word of an unassigned major is no instruction
  decode [0, 0, 0, 0xFE] = .ok (.wordNotAnInstruction 0xFE000000#32, [])

/-- A step runs the decoded instruction (R65, R135): where the group in hand is the one that its pipe selects (R357) and nothing
comes first, the clock has advanced and the granule at the pc is fetched into the run, and the step is the meaning of the
instruction that its bytes decode to; of a granule that the run holds already nothing is fetched. -/
def Obligations.StepRunsDecoded : Prop :=
  (∀ (s : State) (p : Piece) (i : Instr) (r : List Byte),
    let e := s.enter
    let gr := e.g.pc.toNat / 16
    let m := (e.mark [p]).establish (p.x.ga / 16)
    let bs := m.bytes p.x.ga 16
    s.agenda = [] → s.beat = false → s.mayRun s.g.key = true → Store.find gr e.g.run = none →
    e.xlat e.g.ctx (gr * 16) 16 .fetch = .ok [p] → gaRegion p.x.ga ≠ 15 → e.markRefused p.x = false →
    e.lineState .fetch ⟨0, gr * 16, p.x.ga, gr * 16, p.x.home, 16⟩ = .ok →
    e.isPoison (p.x.ga / 128) = false → e.isBad (p.x.ga / 16) = false → lastExt bs = false →
    decode (slice bs (e.g.pc.toNat % 16) 4) = .ok (i, r) →
    step s = State.runs { m with
      txns := m.txns.filter fun t => !(t.2.gk == m.g.key && t.2.ga / 128 == p.x.ga / 128 && t.2.phase == 6)
      g := { m.g with run := Store.ins gr bs m.g.run } } i) ∧
  (∀ (s : State) (bs : List Byte) (i : Instr) (r : List Byte),
    let e := s.enter
    s.agenda = [] → s.beat = false → s.mayRun s.g.key = true → Store.find (e.g.pc.toNat / 16) e.g.run = some bs →
    bs.length = 16 → decode (slice bs (e.g.pc.toNat % 16) 4) = .ok (i, r) → step s = e.runs i) ∧
  (∀ (s : State) (bs : List Byte) (i : Instr) (r : List Byte),
    let e := s.enter
    s.agenda = [] → s.beat = false → s.mayRun s.g.key = true → Store.find (e.g.pc.toNat / 16) e.g.run = some bs →
    bs.length = 16 → e.g.pc.toNat % 16 ≤ 8 → bs[e.g.pc.toNat % 16 + 3]? = some 0xFF →
    decode (slice bs (e.g.pc.toNat % 16) 8) = .ok (i, r) → step s = e.runs i)

/-- The supervisor group at reset (R51): boot mapping, partition 0, slot 0, supervisor privilege, the whole budget, v1 the lane
numbers, every other register zero on die 0, EXEC and LIVE all ones, the target registers not valid, the batch counters zero, core
memory and every full/empty bit zero. That DRAM reads zero at reset is the model's choice (log entry 1). -/
def Obligations.ResetState : Prop :=
  let g := State.reset.g
  g.priv = true ∧ g.part = 0 ∧ g.slot = 0 ∧ g.asn = 0 ∧ g.budget = 128 ∧
  g.exec = BitVec.allOnes 128 ∧ g.live = BitVec.allOnes 128 ∧
  (∀ i : Fin 128, (g.rd 1)[i] = BitVec.ofNat 32 i.val) ∧ (∀ r, r ≠ 1 → g.rd r = zeroLanes) ∧
  (∀ n : BitVec 3, (g.target n).v = false) ∧ g.mscl = 0 ∧ g.issued = 0 ∧ g.done = 0 ∧
  (∀ ga, State.reset.byte ga = 0) ∧ (∀ k, State.reset.isFull k = false)

/-- The memory at reset is in canonical form, and so is every memory after a store of bytes to a memory in that form.

A store of bytes changes exactly those bytes, which then read back as stored; two canonical memories that read alike are
the same data. -/
def Obligations.MemoryLaws : Prop :=
  (Memory.wf State.reset.mem = true ∧
  ∀ (s : State) (ga : Nat) (bs : List Byte), Memory.wf s.mem = true → Memory.wf (s.setBytes ga bs).mem = true) ∧
  ((∀ (s : State) (ga : Nat) (bs : List Byte), (s.setBytes ga bs).bytes ga bs.length = bs) ∧
  (∀ (s : State) (ga : Nat) (bs : List Byte) (a : Nat), a < ga ∨ ga + bs.length ≤ a → (s.setBytes ga bs).byte a = s.byte a) ∧
  ∀ m m' : List Host.Cell, Memory.wf m = true → Memory.wf m' = true →
    (∀ ga, Store.get memDefault m ga = Store.get memDefault m' ga) → m = m')

/-- Each lane integer instruction, in the lanes of EXEC, writes the value of Tables 5-1 to 5-5 and leaves everything else
(R17, R159 to R165): the whole next state.

Each lane floating-point instruction and conversion (R98 to R104, R115 to R117, R166 to R171).

Each cross-lane instruction, among its members (R172 to R177).

While EXEC is all zeros a lane instruction only moves on (R146). -/
def Obligations.LaneResult : Prop :=
  (∀ (i : Instr) (s : State) (e : Effect), laneIntEffect i s.g = some e → Issues i e.ops s → s.g.exec ≠ 0 → Roomy s e.ws →
    ∃ t, exec i s = .next t ∧ Writes i s t e.ws) ∧
  (∀ (i : Instr) (s : State) (e : Effect), laneFloatEffect i s.g = some e → Issues i e.ops s → s.g.exec ≠ 0 → Roomy s e.ws →
    ∃ t, exec i s = .next t ∧ Writes i s t e.ws) ∧
  (∀ (i : Instr) (s : State) (e : Effect), crossLaneEffect i s.g = some e → Issues i e.ops s → s.g.exec ≠ 0 → Roomy s e.ws →
    ∃ t, exec i s = .next t ∧ Writes i s t e.ws) ∧
  (∀ (i : Instr) (s : State) (e : Effect),
    (laneIntEffect i s.g = some e ∨ laneFloatEffect i s.g = some e ∨ crossLaneEffect i s.g = some e) →
    Issues i e.ops s → s.g.exec = 0 → exec i s = .next (s.past i))

/-- Each uniform instruction reads its sources from the lowest lane of EXEC and writes all 128 lanes, whatever EXEC is
(R17, R155); `brd`, `msave`, `mcount`, `mfirst` and `mstat` write what they read (R130, R144, R231).

A partition with two free rows for each register written always has the rows that a write needs (R20, R36); without them the
register copy fault leaves the instruction without effect but for the TRAP registers, which describe it (R21, Table 1-10). -/
def Obligations.UniformResult : Prop :=
  (∀ (i : Instr) (s : State) (e : Effect), uniformEffect i s = some e → Issues i e.ops s → Roomy s e.ws →
    ∃ t, exec i s = .next t ∧ Writes i s t e.ws) ∧
  ((∀ (s : State) (ws : List (Nat × Lanes)), 2 * ws.length ≤ s.freeRows → Roomy s ws) ∧
  ∀ (i : Instr) (s : State) (e : Effect), uniformEffect i s = some e → Issues i e.ops s → ¬ Roomy s e.ws →
    exec i s = .next s.rowTrap)

/-- The lane integer values, clause by clause, on operands `a` and `b` as integers (signed, or unsigned with .u): the exact
value wrapped to 32 bits, or with .sat clamped to the range (R159, Tables 5-1 and 3-1). Division (R97, Table 3-1): the quotient
rounded toward zero and its remainder; by zero −1, with .sat the limit on the dividend's side, all ones for n32, and the dividend as
the remainder; MIN by −1 gives MIN, with .sat MAX, and remainder 0.

The values of an atomic of `n` bytes (R197, Table 6-7): add wraps, the logical operations, signed and unsigned minimum and
maximum, exchange, and compare and swap. -/
def Obligations.ArithmeticValues : Prop :=
  ((∀ (m : BitVec 3) (x : Int), m.getLsbD 0 = false → intRes m x = BitVec.ofInt 32 x) ∧
  (∀ (m : BitVec 3) (x : Int), m.getLsbD 0 = true → m.getLsbD 1 = false →
    (intRes m x).toInt = max (-2 ^ 31) (min (2 ^ 31 - 1) x)) ∧
  (∀ (m : BitVec 3) (x : Int), m.getLsbD 0 = true → m.getLsbD 1 = true →
    ((intRes m x).toNat : Int) = max 0 (min (2 ^ 32 - 1) x)) ∧
  (∀ (m : BitVec 3) (a b : Word), b ≠ 0 → m.getLsbD 1 = true → (aluDiv m a b).toNat = a.toNat / b.toNat) ∧
  (∀ (m : BitVec 3) (a b : Word), b ≠ 0 → m.getLsbD 1 = true → (aluRem m a b).toNat = a.toNat % b.toNat) ∧
  (∀ (m : BitVec 3) (a b : Word), b ≠ 0 → m.getLsbD 1 = false → aluRem m a b = BitVec.ofInt 32 (a.toInt.tmod b.toInt)) ∧
  (∀ (m : BitVec 3) (a b : Word), b ≠ 0 → m.getLsbD 1 = false → m.getLsbD 0 = false →
    aluDiv m a b = BitVec.ofInt 32 (a.toInt.tdiv b.toInt)) ∧
  (∀ (m : BitVec 3) (a b : Word), b ≠ 0 → m.getLsbD 1 = false → m.getLsbD 0 = true →
    (aluDiv m a b).toInt = if a = 0x80000000#32 ∧ b = 0xFFFFFFFF#32 then 2 ^ 31 - 1 else a.toInt.tdiv b.toInt) ∧
  (∀ (m : BitVec 3), m.getLsbD 1 = false → m.getLsbD 0 = false → aluDiv m 0x80000000 0xFFFFFFFF = 0x80000000) ∧
  (∀ (m : BitVec 3) (a : Word), m.getLsbD 1 = false → m.getLsbD 0 = false → aluDiv m a 0 = 0xFFFFFFFF) ∧
  (∀ (m : BitVec 3) (a : Word), m.getLsbD 1 = false → m.getLsbD 0 = true →
    aluDiv m a 0 = if 0 ≤ a.toInt then 0x7FFFFFFF else 0x80000000) ∧
  (∀ (m : BitVec 3) (a : Word), m.getLsbD 1 = true → aluDiv m a 0 = 0xFFFFFFFF) ∧
  (∀ (m : BitVec 3) (a : Word), aluRem m a 0 = a) ∧
  ∀ m : BitVec 3, m.getLsbD 1 = false → aluRem m 0x80000000 0xFFFFFFFF = 0) ∧
  (∀ (n : Nat) (k : BitVec 5) (old op cmp : Nat), n = 4 ∨ n = 8 ∨ n = 16 → old < 2 ^ (8 * n) → op < 2 ^ (8 * n) →
    (k = 0#5 → atomNew n k old op cmp = (old + op) % 2 ^ (8 * n)) ∧
    (k = 1#5 → atomNew n k old op cmp = old &&& op) ∧ (k = 2#5 → atomNew n k old op cmp = old ||| op) ∧
    (k = 3#5 → atomNew n k old op cmp = old ^^^ op) ∧
    (k = 4#5 → (BitVec.ofNat (8 * n) (atomNew n k old op cmp)).toInt =
      min (BitVec.ofNat (8 * n) old).toInt (BitVec.ofNat (8 * n) op).toInt) ∧
    (k = 5#5 → atomNew n k old op cmp = min old op) ∧
    (k = 6#5 → (BitVec.ofNat (8 * n) (atomNew n k old op cmp)).toInt =
      max (BitVec.ofNat (8 * n) old).toInt (BitVec.ofNat (8 * n) op).toInt) ∧
    (k = 7#5 → atomNew n k old op cmp = max old op) ∧ (k = 8#5 → atomNew n k old op cmp = op) ∧
    (k = 9#5 → atomNew n k old op cmp = if old = cmp then op else old))

/-- v0 reads as zero in every lane and discards every write, which needs no row and is no error; a uniform or lane integer
instruction that writes only v0 still moves on (R14). -/
def Obligations.ZeroRegister : Prop :=
  (∀ g : Group, g.rd 0 = zeroLanes) ∧
  (∀ (g : Group) (v : Lanes) (r : Nat), (g.wr 0 v).rd r = g.rd r) ∧
  (∀ (s : State) (v : Lanes), s.putRegs [(0, v)] = some s) ∧
  ∀ (i : Instr) (s : State) (e : Effect), uniformEffect i s = some e ∨ (laneIntEffect i s.g = some e ∧ s.g.exec ≠ 0) →
    Issues i e.ops s → (∀ w ∈ e.ws, w.1 = 0) → exec i s = .next (s.past i)

/-- The lowest code of class 1 is reported (R46): a reserved field before the operands, a register above the budget before a
misaligned pair; the trap names the instruction's word and its `ext` word, and nothing of the instruction has happened.

Words that are no instruction trap with class 1 (R64, R76): an unassigned major with code 1, else code 2; an `ext` whose
second word does not accept it with the least code that holds; a fetch fault traps with its own class and code (R136). -/
def Obligations.IllegalInstruction : Prop :=
  (∀ (i : Instr) (s : State) (e : Effect),
    (laneIntEffect i s.g = some e ∨ laneFloatEffect i s.g = some e ∨ crossLaneEffect i s.g = some e ∨ uniformEffect i s = some e) →
    (Instr.reserved i = true → exec i s = .next (s.trap ⟨1, 2, none, false, 0, i.extWord ++ i.word, 0⟩)) ∧
    (Instr.reserved i = false → (∃ o ∈ e.ops, s.g.budget < o.base + o.count) →
      exec i s = .next (s.trap ⟨1, 4, none, false, 0, i.extWord ++ i.word, 0⟩)) ∧
    (Instr.reserved i = false → (∀ o ∈ e.ops, o.base + o.count ≤ s.g.budget) →
      (∃ o ∈ e.ops, 1 < o.align ∧ (o.base % o.align ≠ 0 ∨ o.base = 0)) →
      exec i s = .next (s.trap ⟨1, 5, none, false, 0, i.extWord ++ i.word, 0⟩))) ∧
  ((∀ (w : BitVec 32) (s : State), exec (.wordNotAnInstruction w) s =
    .next (s.trap ⟨1, if (rowsAt (major w)).isEmpty ∧ major w ≠ 0xFF then 1 else 2, none, false, 0, w.zeroExtend 64, 0⟩)) ∧
  (∀ (p : BitVec 24) (w : BitVec 32) (s : State), exec (.ext p w) s =
    .next (s.trap ⟨1, extCode p w, none, false, 0, (0xFF#8 ++ p) ++ w, 0⟩)) ∧
  (∀ (c : BitVec 4) (k : BitVec 8) (a n : BitVec 64) (s : State), exec (.instructionFetchFault c k a n) s =
    .next (s.trap ⟨c.toNat, k.toNat, none, false, a, n, (a.extractLsb' 0 56).toNat⟩)))

/-- A user group's trap (R49): TRAP.PC, CAUSE, ADDR and INFO are written, the pc and every register stay, the group is suspended
under the die's next token, and the record of Table 8-9 stands in the mailbox slot of the core's sequence number, which is
set full; no other byte of memory changes.

A not-present page that can be requested is apart (R339): room for a group frame is taken, and the group is to be saved to it;
nothing of the instruction has happened. That its TRAP registers stay is the model's choice (log entry 59).

A fault of the supervisor group stops its core (R50): the TRAP registers are written, the group executes nothing more, the
core takes no more work, no memory changes. -/
def Obligations.TrapEntry : Prop :=
  (∀ (s : State) (t : Trap),
    let ck := coreKey s.g.dk s.g.core
    let c := s.core ck
    let k := c.seq.toNat % 64
    let at_ := coreAddr s.g.dk s.g.core (64 * k)
    let d := s.die s.g.dk
    s.g.priv = false → (t.cls ≠ 3 ∨ t.code ≠ 1 ∨ t.async = true ∨ t.va = hostVa ∨ s.ringCount s.g.dk = 0 ∨
      s.poolRoom s.g.dk frameBytes = false) →
    s.traced s.g = false → c.posts = [] → s.isFull (at_ / 16) = false →
    let g := { s.g with
      trap := ⟨s.g.pc.zeroExtend 64, t.cause, t.addr, t.info⟩, token := d.token, wait := .none, status := .trapped }
    let s' := s.trap t
    s'.g = g ∧
    s'.bytes at_ 64 = s.groupRecord { g with status := .posting } c.seq ∧
    (∀ j, j < 4 → s'.isFull (at_ / 16 + j) = true) ∧
    (s'.core ck).seq = c.seq + 1 ∧ s'.die s.g.dk = { d with token := if d.token = 0xFFFFFFFF#32 then 1 else d.token + 1 } ∧
    SameBytes s s' [(at_, 64)] ∧ s'.groups = s.groups ∧ s'.teams = s.teams ∧ (∀ k, k ≠ s.g.dk → s'.die k = s.die k) ∧
    s'.pkgs = s.pkgs) ∧
  (∀ (s : State) (t : Trap), s.g.priv = false → t.cls = 3 → t.code = 1 → t.async = false → t.va ≠ hostVa →
    s.ringCount s.g.dk ≠ 0 → s.poolRoom s.g.dk frameBytes = true →
    s.trap t = { s.poolTake s.g.dk (groupFrame s.g.key) frameBytes with
      g := { s.g with status := .saving t.va (t.info.toNat % 4), wait := .page 0 } }) ∧
  (∀ (s : State) (t : Trap), s.g.priv = true → s.traced s.g = false →
    (s.trap t).g = { s.g with
      trap := ⟨s.g.pc.zeroExtend 64, t.cause, t.addr, t.info⟩, wait := .none, status := .trapped } ∧
    ((s.trap t).core (coreKey s.g.dk s.g.core)).stopped = true ∧ (s.trap t).mem = s.mem)

/-- `svc` and `brk` take their trap, class 11 and class 10 with code 1, in every group (R151, R278): TRAP holds the pc, the cause, and
the immediate in INFO; the pc and the registers stay, and the group executes nothing more before a resumption.

`rett` by the supervisor (R279): it releases what the supervisor has accessed, and the suspended group of the record's token receives
TRAP.PC, CAUSE, ADDR and INFO from the record; where its ACTION is 0 the group resumes at the record's RESUME address, else its team
is terminated and its launch records the trap's class and code; the record's four granules become empty. A record that is not full has
no effect; one whose token is not suspended is only emptied.

A privileged instruction of a user group traps with class 1 code 7 and does nothing else (R212, R276 to R283). -/
def Obligations.ServiceAndReturn : Prop :=
  (∀ (i : Instr) (n : BitVec 10) (c : Nat) (s : State), (i = .svc n ∧ c = 11) ∨ (i = .brk n ∧ c = 10) → Issues i [] s →
    exec i s = .next (s.trap ⟨c, 1, none, false, 0, n.zeroExtend 64, 0⟩) ∧
    ∃ t, exec i s = .next t ∧ t.g.trap = ⟨s.g.pc.zeroExtend 64, BitVec.ofNat 32 (c + 16), 0, n.zeroExtend 64⟩ ∧
      t.g.pc = s.g.pc ∧ t.g.regs = s.g.regs ∧ t.g.wait = .none ∧ (t.g.status = .trapped ∨ t.g.status = .posting) ∧
      (s.g.priv = false → t.g.token = (s.die s.g.dk).token)) ∧
  (∀ (a : Reg) (s : State),
    let u := s.releaseTo (s.g.release 2)
    let k := ((s.g.u a.toNat).extractLsb' 0 6).toNat
    let at_ := coreAddr s.g.dk s.g.core (64 * k)
    let token := BitVec.ofNat 32 (u.rdN (at_ + 0x1C) 4)
    let tr : TrapRegs := ⟨BitVec.ofNat 64 (u.rdN at_ 8) &&& 0x00FFFFFFFFFFFFFC, BitVec.ofNat 32 (u.rdN (at_ + 0x18) 4) &&& 0x1FFFFF,
      BitVec.ofNat 64 (u.rdN (at_ + 8) 8), BitVec.ofNat 64 (u.rdN (at_ + 0x10) 8)⟩
    Issues (.rett a) [one a] s → s.g.priv = true →
    (InOrder s → u = s) ∧ SameBytes s u s.unsettled ∧
    (s.isFull (at_ / 16) = false → exec (.rett a) s = .next (s.past (.rett a))) ∧
    (s.isFull (at_ / 16) = true → u.suspended s.g.dk s.g.core token = none →
      exec (.rett a) s = .next ((u.markSlot s.g.dk s.g.core k false).past (.rett a))) ∧
    (∀ g, s.isFull (at_ / 16) = true → u.suspended s.g.dk s.g.core token = some g → g.key ≠ s.g.key → s.traced g = false →
      u.rdN (at_ + 0x38) 4 = 0 →
      ∃ t, exec (.rett a) s = .next t ∧
        Store.find g.key t.groups = some { g.refetch with
          trap := tr, status := .live, wait := .none, token := 0, mo := { g.mo with seen := [] }
          pc := BitVec.ofNat 56 (u.rdN (at_ + 0x30) 8) &&& ~~~3#56 } ∧
        t.g = (u.past (.rett a)).g ∧ t.mem = u.mem ∧ (∀ j, j < 4 → t.isFull (at_ / 16 + j) = false)) ∧
    ∀ g, s.isFull (at_ / 16) = true → u.suspended s.g.dk s.g.core token = some g → g.key ≠ s.g.key →
      u.rdN (at_ + 0x38) 4 ≠ 0 → firstTeam ≤ g.tid → (u.team g.tid).status ≠ .retired →
      ∃ t, exec (.rett a) s = .next t ∧ (t.team g.tid).status = .retired ∧ t.g.pc = s.g.pc + 4 ∧ SameBytes s t s.unsettled ∧
        (∀ j, j < 4 → t.isFull (at_ / 16 + j) = false) ∧
        ∀ l, Store.find (u.team g.tid).lk s.launches = some l → ∃ r ∈ t.reports, r.home = l.home ∧ r.lid = l.lid ∧ r.die = l.dk ∧
          ∃ f, r.fail = some f ∧ f.kind = 1 ∧ f.cls = (tr.cause.extractLsb' 0 4).toNat ∧
            f.code = (tr.cause.extractLsb' 4 8).toNat ∧ f.addr = tr.addr) ∧
  (∀ (i : Instr) (ops : List Opnd) (s : State), s.g.priv = false → Issues i ops s →
    ((∃ a, i = .rett a ∧ ops = [one a]) ∨ (∃ d a, i = .bist d a ∧ ops = [pair d, one a]) ∨
     (∃ a b, i = .tlbinv a b ∧ ops = [pair a, one b]) ∨ (∃ a, i = .launch a ∧ ops = [pair a]) ∨
     (∃ a k x, i = .pclr a k x ∧ ops = [pair a] ++ opX x) ∨
     (∃ d n, i = .sysw d n ∧ ops = [if sysWidth n.toNat = some 64 then pair d else one d] ∧ (sysWidth n.toNat).isSome = true) ∨
     (∃ d n, i = .sysr d n ∧ ops = [if sysWidth n.toNat = some 64 then pair d else one d] ∧ (sysWidth n.toNat).isSome = true ∧
       0x300 ≤ n.toNat ∧ ¬ (0x500 ≤ n.toNat ∧ n.toNat < 0x600))) →
    exec i s = .next (s.trap ⟨1, 7, none, false, 0, i.extWord ++ i.word, 0⟩))

/-- Target registers (R127, R128, R129, R131, R132): `prep` writes pc + OFF, `prepv` the code address in its pair, `bmov` copies,
`binv` invalidates; a code address with bit 1 set traps with class 2 code 2. Nothing else changes but the pc.

Transfers (R132, Table 4-2): through a valid target register, taken to its address or not taken to the next instruction;
through an invalid one the trap of class 2 code 1. An untraced group emits no packet, so nothing else changes.

`call` writes the address of the next instruction to its second target register and transfers through the old value of its
first, the same register or another (R132, R133); `bloop` decrements U(v) in all lanes and transfers while it is not zero
(R134). -/
def Obligations.ControlTransfer : Prop :=
  ((∀ (n : BitVec 3) (o : BitVec 21) (x : Option (BitVec 24)) (s : State), Issues (.prep n o x) [] s →
    exec (.prep n o x) s = .next (State.past
      { s with g := s.g.setTarget n ⟨(s.g.pc + offP o x).extractLsb' 2 54, true, []⟩ } (.prep n o x))) ∧
  (∀ (n : BitVec 3) (c : Reg) (s : State), Issues (.prepv n c) [pair c] s →
    ((s.g.u64 c.toNat).getLsbD 1 = false → (s.g.u64 c.toNat).extractLsb' 56 4 = 0#4 →
      exec (.prepv n c) s = .next (State.past
        { s with g := s.g.setTarget n ⟨(s.g.u64 c.toNat).extractLsb' 2 54, true, []⟩ } (.prepv n c))) ∧
    ((s.g.u64 c.toNat).getLsbD 1 = true → exec (.prepv n c) s = .next (s.trap ⟨2, 2, none, false, 0, 0, 0⟩))) ∧
  (∀ (n m : BitVec 3) (s : State), Issues (.bmov n m) [] s →
    exec (.bmov n m) s = .next (State.past { s with g := s.g.setTarget n (s.g.target m) } (.bmov n m))) ∧
  (∀ (n : BitVec 3) (s : State), Issues (.binv n) [] s →
    exec (.binv n) s = .next (State.past { s with g := s.g.setTarget n ⟨0, false, []⟩ } (.binv n))) ∧
  ∀ (g : Group) (n k : BitVec 3) (t : Target), (g.setTarget n t).target k = if k = n then t else g.target k) ∧
  ((∀ (i : Instr) (s : State) (ops : List Opnd) (n : BitVec 3) (c : Bool), transferOf i s.g = some (ops, n, c) → Issues i ops s →
    ((s.g.target n).v = true → c = true →
      exec i s = .next ((s.emit 3 (bytesLE ((s.g.target n).addr ++ 0#2).toNat 7)).goTo (s.g.target n))) ∧
    ((s.g.target n).v = true → c = false → exec i s = .next ((s.emit 2 []).past i)) ∧
    ((s.g.target n).v = false → exec i s = .next (s.trap ⟨2, 1, none, false, 0, 0, 0⟩))) ∧
  ∀ (s : State) (k : Byte) (r : List Byte), s.traced s.g = false → s.emit k r = s) ∧
  ((∀ (n m : BitVec 3) (s : State), Issues (.call n m) [] s → s.traced s.g = false →
    ((s.g.target n).v = true →
      exec (.call n m) s = .next (State.goTo { s with g := s.g.setTarget m ⟨(s.g.pc + 4).extractLsb' 2 54, true, []⟩ }
        (s.g.target n))) ∧
    ((s.g.target n).v = false → exec (.call n m) s = .next (s.trap ⟨2, 1, none, false, 0, 0, 0⟩))) ∧
  ∀ (n : BitVec 3) (c : Reg) (s : State), Issues (.bloop n c) [one c] s → s.traced s.g = false →
    ((s.g.target n).v = true → Roomy s [(c.toNat, Lanes.uni (s.g.u c.toNat - 1))] →
      ∃ t, Writes (.bloop n c) s t [(c.toNat, Lanes.uni (s.g.u c.toNat - 1))] ∧
        exec (.bloop n c) s = .next (if s.g.u c.toNat = 1#32 then t else t.goTo (s.g.target n))) ∧
    ((s.g.target n).v = false → exec (.bloop n c) s = .next (s.trap ⟨2, 1, none, false, 0, 0, 0⟩)))

/-- `binv` (R131): V and ADDR of the target register become 0 and its prefetch window is discarded, after which every transfer
through it, `call` and `bloop` among them, faults with class 2 code 1. -/
def Obligations.TargetInvalidated : Prop :=
  ∀ (n : BitVec 3) (s : State), Issues (.binv n) [] s →
    ∃ t, exec (.binv n) s = .next t ∧ t = State.past { s with g := s.g.setTarget n ⟨0, false, []⟩ } (.binv n) ∧
      (t.g.target n).v = false ∧ (t.g.target n).addr = 0 ∧ (t.g.target n).buf = [] ∧
      (∀ i ops c, transferOf i t.g = some (ops, n, c) → Issues i ops t → exec i t = .next (t.trap ⟨2, 1, none, false, 0, 0, 0⟩)) ∧
      (∀ m, Issues (.call n m) [] t → exec (.call n m) t = .next (t.trap ⟨2, 1, none, false, 0, 0, 0⟩)) ∧
      ∀ c, Issues (.bloop n c) [one c] t → exec (.bloop n c) t = .next (t.trap ⟨2, 1, none, false, 0, 0, 0⟩)

/-- Each mask instruction writes EXEC, ANDed with LIVE, after its register (R27, R144), and nothing else; `mrestore` besides orders
the group's earlier accesses before its later ones, and performs the loads and atomics held back (R145). -/
def Obligations.MaskResult : Prop :=
  (∀ (i : Instr) (s : State) (e : Effect) (m : Mask), maskEffect i s.g = some (e, m) → (∀ a, i ≠ .mrestore a) →
    Issues i e.ops s → Roomy s e.ws →
    ∃ t, Writes i s t e.ws ∧ exec i s = .next { t with g := { t.g with exec := m &&& s.g.live } }) ∧
  ∀ (a : Reg) (s : State), Issues (.mrestore a) [one a] s →
    ∃ t, exec (.mrestore a) s = .next t ∧ t.g.exec = maskOf (s.g.rd a.toNat) &&& s.g.live ∧
      t.g.pc = s.g.pc + BitVec.ofNat 56 (Instr.size (.mrestore a)) ∧ t.g.landed ∧ (∀ p ∈ t.g.mo.pend, p.code = true) ∧
      t.g.mo.epoch = s.g.mo.epoch + 1 ∧ t.g.mo.wepoch = s.g.mo.wepoch + 1 ∧ SameBytes s t s.unsettled ∧
      (InOrder s → t = State.orders
        (State.past { s with g := { s.g with exec := maskOf (s.g.rd a.toNat) &&& s.g.live } } (.mrestore a)) t)

/-- A group with nothing outstanding ends at `exit`, and at `lexit` where no live lane remains, once its memory accesses are
performed; `lexit` takes the lanes of EXEC out of LIVE, after which EXEC is zero (R147, R148). The supervisor's `exit` and `lexit` do
nothing (R149). A fault not yet reported is taken as a trap first (R148, R232).

`nop` and `pref` only move on, `isync` besides performs the group's stores and drops every fetched code granule, `yield` marks the
team and lets the other groups of its partition come first (R140, R143, R150, R208); `pref` whatever its address, without a fault of
the access.

A `fence` but `.rel` performs the loads and atomics held back; `.ar` and `.sc` from scope die on perform the group's within-die
stores, `.rel`, `.ar` and `.sc` separate the stores after it from those before it, and `.sc` joins the order of such fences; no other
byte changes, and in a machine that runs in order nothing but what the group has met (R203, R204, R297, R301). -/
def Obligations.EndingAndPassing : Prop :=
  ((∀ (i : Instr) (s : State), i = .exit ∨ i = .lexit → Issues i [] s → s.g.priv = true → exec i s = .next (s.past i)) ∧
  (∀ s : State, SameBytes s (s.settleMem s.g.key) s.unsettled ∧ (InOrder s → s.settleMem s.g.key = s) ∧
    (s.settleMem s.g.key).g.mo.pend = []) ∧
  (∀ s : State, Issues .exit [] s → s.g.priv = false → s.g.mat = [] → s.pendingWork s.g.key = false → s.g.faults = [] →
    s.g.colls = [] → s.traced s.g = false →
    let u := s.settleMem s.g.key
    exec .exit s = .next { u with g := { u.g with status := .ending, wait := .none, exited := true } }) ∧
  (∀ s : State, Issues .lexit [] s → s.g.priv = false → s.g.live &&& ~~~s.g.exec ≠ 0 →
    exec .lexit s = .next (State.past { s with g := { s.g with live := s.g.live &&& ~~~s.g.exec, exec := 0 } } .lexit)) ∧
  (∀ s : State, Issues .lexit [] s → s.g.priv = false → s.g.live &&& ~~~s.g.exec = 0 → s.g.mat = [] →
    s.pendingWork s.g.key = false → s.g.faults = [] → s.g.colls = [] → s.traced s.g = false →
    let u := s.settleMem s.g.key
    exec .lexit s = .next { u with g := { u.g with live := 0, exec := 0, status := .ending, wait := .none, exited := true } }) ∧
  (∀ (s : State) (f : EngFault), Issues .exit [] s → s.g.priv = false → s.g.mat = [] → s.pendingWork s.g.key = false →
    s.g.faults = [f] → f.voids = false → s.g.colls = [] →
    let u := s.settleMem s.g.key
    exec .exit s = .next (State.trap { u with g := { u.g with faults := [] } } f.trap)) ∧
  ∀ (i : Instr) (s : State), i = .exit ∨ (i = .lexit ∧ s.g.live &&& ~~~s.g.exec = 0) → Issues i [] s → s.g.priv = false →
    s.g.mat ≠ [] ∨ s.pendingWork s.g.key = true →
    let u := s.settleMem s.g.key
    exec i s = .next { u with g := { u.g with wait := .drain } }) ∧
  ((∀ s : State, Issues .nop [] s → exec .nop s = .next (s.past .nop)) ∧
  (∀ (k : BitVec 2) (sc : BitVec 3) (s : State), Issues (.fence k sc) [] s →
    ∃ t, exec (.fence k sc) s = .next t ∧ t.g.pc = s.g.pc + 4 ∧ SameBytes s t s.unsettled ∧
      (k ≠ 1#2 → t.g.landed) ∧ (k = 1#2 → ∀ h ∈ t.g.mo.loads, h.wfirst = true) ∧
      (k ≠ 0#2 → t.g.mo.wepoch = s.g.mo.wepoch + 1) ∧ (2#2 ≤ k → ∀ p ∈ t.g.mo.pend, p.code = true) ∧
      (2#2 ≤ k → 2#3 ≤ sc → ∀ p ∈ t.g.mo.pend, p.within = false) ∧
      (k ≠ 3#2 → t.scs = s.scs) ∧ (k = 3#2 → s.g.release sc.toNat ∈ t.scs) ∧
      (InOrder s → t = { State.orders (s.past (.fence k sc)) t with scs := t.scs })) ∧
  (∀ (sc : BitVec 3) (a : Reg) (k : BitVec 5) (x : Option (BitVec 24)) (s : State),
    Issues (.pref sc a k x) ([pair a] ++ opX x) s → exec (.pref sc a k x) s = .next (s.past (.pref sc a k x))) ∧
  (∀ s : State, Issues .isync [] s →
    ∃ t, exec .isync s = .next t ∧ t.g.run = [] ∧ t.g.mo.pend = [] ∧ (∀ n : BitVec 3, (t.g.target n).buf = [] ∧
      (t.g.target n).addr = (s.g.target n).addr ∧ (t.g.target n).v = (s.g.target n).v) ∧ SameBytes s t s.unsettled ∧
      t.g.pc = s.g.pc + 4 ∧
      (s.g.mo.pend = [] → s.g.mo.loads = [] →
        t = State.past { s with g := { s.g with run := [], targets := t.g.targets } } .isync)) ∧
  ∀ s : State, Issues .yield [] s →
    exec .yield s = .next (State.past { s.setTeam s.g.tid { s.team s.g.tid with yielded := true } with
      g := { s.g with passed := ((s.partGroups s.g.dk s.g.core s.g.part).map Group.key).filter (· != s.g.key) } } .yield))

/-- In the supervisor group `exit` and `lexit` only move on (R149). -/
def Obligations.SupervisorEnding : Prop :=
  ∀ (i : Instr) (s : State), i = .exit ∨ i = .lexit → Issues i [] s → s.g.priv = true → exec i s = .next (s.past i)

/-- A load whose accesses pass stage 1 writes, in the lanes of EXEC, what each lane reads, zero- or sign-extended, and changes no
byte but the page-table entries that the walker marks, beside what is held back and the order asks for (R178, R184, R297, R335).
In a machine that runs in order each lane reads the bytes at its address, and nothing changes but what the group has met.

A relaxed load that is held back completes without a value: its registers are in flight, and its pieces are performed later, one by
one (R180, R287, R305). -/
def Obligations.LoadResult : Prop :=
  (∀ (i : Instr) (s : State) (n : Nat) (sg : Bool) (d a : Reg) (k : BitVec 5) (x : Option (BitVec 24)) (accs : List LaneAcc),
    let o := (orderForm i).1
    let sc := (orderForm i).2
    let s' := s.ready accs
    let later := s'.holds o.toNat ((lanePieces accs).map (·.2))
    let r := s'.loadLanes o.toNat sc.toNat accs
    let ws := s.g.resRegs d.toNat (regsOf n) (r.2.map fun v => (v.1, if sg then signExt n v.2 else v.2))
    loadForm i = some (n, sg, d, a, k, x) → Issues i ([opndOf n d, pair a] ++ opX x) s → s.g.exec ≠ 0 →
    Reaches s loadOp (s.g.reqs a n n (memK k x) x) accs →
    (later = false → Roomy r.1 ws →
      ∃ t, exec i s = .next t ∧ Writes i (r.1.afterLoad o) t ws ∧ SameBytes s t (marksOf accs ++ s.unsettled)) ∧
    (later = true → (s.g.reserve s.freeRows d.toNat (regsOf n)).isSome = true →
      ∃ t, exec i s = .next t ∧ HeldBack i s t d.toNat (regsOf n) (.load n sg) accs)) ∧
  ∀ (s : State) (o sc : Nat) (accs : List LaneAcc), InOrder s → InMemory accs →
    let r := s.readLanes o sc accs
    r.1 = s.orders r.1 ∧ r.2 = accs.map (fun c => (c.lane, s.laneBytes c)) ∧
    (s.loadLanes o sc accs).2 = accs.map fun c => (c.lane, natLE (s.laneBytes c))

/-- A store whose accesses pass stage 1 (R178, R180, R184): only the bytes at the lanes' addresses change, beside the marks of the
walker and what is held back before it; in a machine that runs in order nothing else of the group changes, and where each lane's
bytes are one piece apart from the others', they are those of its source registers.

A relaxed store held back changes no byte of its own now: it stands last among the group's stores, where its lane's later loads find
it (R287, R304). A store that may be performed is: its bytes stand in memory, and it is held back no more. -/
def Obligations.StoreResult : Prop :=
  (∀ (i : Instr) (s : State) (n : Nat) (d a : Reg) (k : BitVec 5) (x : Option (BitVec 24)) (accs : List LaneAcc),
    storeForm i = some (n, d, a, k, x) → Issues i ([opndOf n d, pair a] ++ opX x) s → s.g.exec ≠ 0 →
    Reaches s storeOp (s.g.reqs a n n (memK k x) x) accs → InMemory accs →
    ∃ t, exec i s = .next t ∧ SameBytes s t (marksOf accs ++ covers accs ++ s.unsettled) ∧
      t.g.pc = s.g.pc + BitVec.ofNat 56 (Instr.size i) ∧ t.g.wait = .none ∧
      (InOrder s → t.g = { s.g with pc := s.g.pc + BitVec.ofNat 56 (Instr.size i), wait := .none, hostFail := none, late := false } ∧
        (Apart accs n → s.snoop = [] → ∀ c ∈ accs, t.laneBytes c = bytesLE (s.g.laneWords d.toNat c.lane (regsOf n)) n)) ∧
      ∀ (c : LaneAcc) (p : Piece), accs = [c] → c.ps = [p] → p.off = 0 → p.len = n → p.x.ga % 16 + n ≤ 16 →
        (orderForm i).1 = 0#2 → (s.defer.head?.getD []).contains (2 * c.lane.val) = true →
        (s.ready accs).loose p.x.home p.x.ga = true → (s.g.mo.loads = []) →
        SameBytes s t (marksOf accs) ∧
        ∃ q, t.g.mo.pend = s.g.mo.pend ++ [q] ∧ q.lane = c.lane.val ∧ q.ga = p.x.ga ∧
          q.bytes = bytesLE (s.g.laneWords d.toNat c.lane (regsOf n)) n) ∧
  ∀ (s : State) (j : Nat) (p : Pend), s.g.mo.pend[j]? = some p → mayPerform s.g.mo.pend j = true →
    ∃ t, State.turn s (.perform s.g.key j) = .next t ∧ t.bytes p.ga p.bytes.length = p.bytes ∧
      t.g.mo.pend = s.g.mo.pend.eraseIdx j ∧ SameBytes s t ((p.ga, p.bytes.length) :: s.doubled) ∧ (p.full = true → t.isFull (p.ga / 16) = true)

/-- Typed loads and stores (R189): `ldf` unpacks the eight elements of the format of the page that maps each lane's address into
bf16 or f16, `stf` packs them; nothing else changes but the marks of the walker, and what is held back and the order asks for. In
a machine that runs in order the elements are those of the bytes at each lane's address. An `ldf` may be held back as a load may. -/
def Obligations.TypedResult : Prop :=
  ∀ (s : State) (o : BitVec 2) (sc : BitVec 3) (d a : Reg) (k : BitVec 5) (x : Option (BitVec 24)) (accs : List LaneAcc),
    let s' := s.ready accs
    let r := s'.readLanes o.toNat sc.toNat accs
    let ws := s.g.resRegs d.toNat 4 ((r.2.zip accs).map fun v => (v.1.1, unpackFmt v.2.fmt (natLE v.1.2)))
    s.g.exec ≠ 0 →
    (Issues (.ldf o sc d a k x) ([quad d, pair a] ++ opX x) s → Reaches s loadOp (s.typedReqs .read a (memK k x) x) accs →
      (s'.holds o.toNat ((lanePieces accs).map (·.2)) = true → (s.g.reserve s.freeRows d.toNat 4).isSome = true →
        ∃ t, exec (.ldf o sc d a k x) s = .next t ∧
          HeldBack (.ldf o sc d a k x) s t d.toNat 4 (.typed (accs.map fun a => (a.lane, a.fmt))) accs) ∧
      (s'.holds o.toNat ((lanePieces accs).map (·.2)) = false → Roomy r.1 ws → ∃ t, exec (.ldf o sc d a k x) s = .next t ∧ Writes (.ldf o sc d a k x) (r.1.afterLoad o) t ws ∧
        SameBytes s t (marksOf accs ++ s.unsettled)) ∧
      (InOrder s → InMemory accs → r.2 = accs.map fun c => (c.lane, s'.laneBytes c))) ∧
    (Issues (.stf o sc d a k x) ([quad d, pair a] ++ opX x) s → Reaches s storeOp (s.typedReqs .write a (memK k x) x) accs →
      InMemory accs → ∃ t, exec (.stf o sc d a k x) s = .next t ∧
        SameBytes s t (marksOf accs ++ covers accs ++ s.unsettled) ∧
        t.g.pc = s.g.pc + BitVec.ofNat 56 (Instr.size (.stf o sc d a k x)) ∧ t.g.wait = .none ∧
        (InOrder s → t.g = { s.g with pc := t.g.pc, wait := .none, hostFail := none, late := false } ∧
          ∀ c : LaneAcc, accs = [c] → s.snoop = [] → (∃ p, c.ps = [p] ∧ p.off = 0 ∧ p.len = fmtBytes c.fmt ∧ p.x.ga % 16 + p.len ≤ 16) →
            t.laneBytes c = bytesLE (packFmt c.fmt (s.g.laneWords d.toNat c.lane 4)) (fmtBytes c.fmt)))

/-- A core-memory load inside the team's core memory, aligned (R190, R192, R193): each lane's bytes; `ldc.w` once every granule
is full, `ldc.w.c` leaving them empty; while one is empty the group waits and nothing else has happened. Accesses of the group to its
granules that are held back are performed before a load that waits; no other byte changes. A relaxed `ldc` may be held back (R305).

A core-memory store (R190, R192): only the bytes at the lanes' offsets change, beside stores held back before it; in a machine that
runs in order, where no two lanes name one place, each holds its lane's registers; `stc.f` sets the granules full, `stc` leaves
every full/empty bit. -/
def Obligations.CoreMemory : Prop :=
  (∀ (i : Instr) (s : State) (n : Nat) (waits take : Bool) (d a : Reg) (k : BitVec 5) (x : Option (BitVec 24)),
    let o := (orderForm i).1
    let offs := s.g.offs a n (memK k x) x
    let u := if waits then s.flushCore offs else s
    let r := u.coreVals o.toNat n (!waits) offs
    let ws := s.g.resRegs d.toNat (regsOf n) r.2
    coreLoadForm i = some (n, waits, take, d, a, k, x) → Issues i ([opndOf n d, one a] ++ opX x) s → s.g.exec ≠ 0 →
    CoreReaches s s.myTeam.cmem n offs →
    (waits = false → s.holds o.toNat (s.coreGets n offs) = true → (s.g.reserve s.freeRows d.toNat (regsOf n)).isSome = true →
      ∃ t h, exec i s = .next t ∧ t.g.mo.loads.getLast? = some h ∧ h.d = d.toNat ∧ h.cnt = regsOf n ∧ h.kind = .load n false ∧
        (∀ p ∈ h.ps, p.got = none) ∧ t.g.pc = s.g.pc + BitVec.ofNat 56 (Instr.size i) ∧ SameBytes s t s.unsettled) ∧
    ((waits = false → s.holds o.toNat (s.coreGets n offs) = false) → (waits = true → ∀ q ∈ s.coreGranules offs, u.isFull q = true) → Roomy r.1 ws →
      ∃ t v : State, exec i s = .next { t with full := v.full } ∧ Writes i (r.1.afterLoad o) t ws ∧ SameBytes s t s.unsettled ∧
        (∀ q, v.isFull q = if take = true ∧ q ∈ s.coreGranules offs then false else r.1.isFull q)) ∧
    (waits = true → (∃ q ∈ s.coreGranules offs, u.isFull q = false) →
      exec i s = .next { u with g := { u.g with wait := .ldcw } } ∧ SameBytes s u s.unsettled) ∧
    (InOrder s → u = s ∧ r.1 = s.orders r.1 ∧
      r.2 = offs.map fun p => (p.1, natLE (s.bytes (s.teamBase s.myTeam + p.2) n)))) ∧
  (∀ (i : Instr) (s : State) (n : Nat) (fl : Bool) (d a : Reg) (k : BitVec 5) (x : Option (BitVec 24)),
    let offs := s.g.offs a n (memK k x) x
    coreStoreForm i = some (n, fl, d, a, k, x) → Issues i ([opndOf n d, one a] ++ opX x) s → s.g.exec ≠ 0 →
    CoreReaches s s.myTeam.cmem n offs →
    ∃ t, exec i s = .next t ∧ SameBytes s t (s.coreRanges n offs ++ s.unsettled) ∧ t.g.pc = (s.past i).g.pc ∧ t.g.wait = .none ∧
      (InOrder s → t.g = (s.past i).g ∧
        (∀ q, t.isFull q = (s.isFull q || (fl && decide (q ∈ s.coreGranules offs)))) ∧
        ((∀ o ∈ offs, ∀ p ∈ offs, o.2 = p.2 → o = p) → s.snoop = [] → ∀ o ∈ offs,
          t.bytes (s.teamBase s.myTeam + o.2) n = bytesLE (s.g.laneWords d.toNat o.1 (regsOf n)) n)))

/-- `stc.t` writes the core-memory image of the stem to be frozen, no byte of memory (R195); `clre` empties granules and changes
nothing else (R194), once the group's own stores to them that are held back have been performed. -/
def Obligations.ImageAndEmpty : Prop :=
  (∀ (s : State) (d a : Reg) (k : BitVec 5) (x : Option (BitVec 24)),
    let i : Instr := .stcT128 d a k x
    let offs := s.g.offs a 16 (memK k x) x
    Issues i ([quad d, one a] ++ opX x) s → s.g.exec ≠ 0 → (∀ o ∈ offs, o.2 + 16 ≤ s.kernelBytes ∧ o.2 % 16 = 0) →
    ∃ t, exec i s = .next t ∧ t.mem = s.mem ∧ t.full = s.full ∧
      t.g = { (s.past i).g with image := t.g.image } ∧
      (∀ q, (∀ o ∈ offs, o.2 / 16 ≠ q) → Store.find q t.g.image = Store.find q s.g.image) ∧
      ((∀ o ∈ offs, ∀ p ∈ offs, o.2 = p.2 → o = p) → ∀ o ∈ offs,
        Store.find (o.2 / 16) t.g.image = some (bytesLE (s.g.laneWords d.toNat o.1 4) 16))) ∧
  ∀ (s : State) (a : Reg) (k : BitVec 5) (x : Option (BitVec 24)),
    let i : Instr := .clre a k x
    let offs := s.g.offs a 16 (memK k x) x
    let u := s.flushCore offs
    Issues i ([one a] ++ opX x) s → s.g.exec ≠ 0 →
    (∀ o ∈ offs, o.2 + 16 ≤ s.myTeam.cmem ∧ o.2 % 16 = 0 ∧ s.engineOwns ((s.teamBase s.myTeam + o.2) / 128) = false) →
    ∃ t, exec i s = .next t ∧ t = { u.past i with full := t.full } ∧ SameBytes s t s.unsettled ∧ (InOrder s → u = s) ∧
      ∀ q, t.isFull q = if q ∈ s.coreGranules offs then false else u.isFull q

/-- An atomic whose accesses pass stage 1 (R197, R199): each lane of EXEC receives the old value; only the bytes at the lanes'
addresses change, beside the marks of the walker and what is held back and the order asks for; in a machine that runs in order one
lane alone leaves the new value there, and the group keeps everything else but what it has met. A relaxed atomic may be held back
(R287, R305). `atomc` does the same to core memory (R196). -/
def Obligations.AtomicResult : Prop :=
  (∀ (i : Instr) (s : State) (n : Nat) (d a : Reg) (k : BitVec 5) (x : Option (BitVec 24)) (accs : List LaneAcc),
    let cas := k.toNat == 9
    let w := n / 4
    let qs := (s.g.reqs a n n 0 x).map fun q => { q with more := if q.ptr % n = 0 then [] else [(3, 10)] }
    let opnd := fun (l : Fin 128) => s.g.laneWords (if cas then d.toNat + w else d.toNat) l w
    let cmp := fun (l : Fin 128) => s.g.laneWords d.toNat l w
    let r := (s.ready accs).atomicLanes (orderForm i).1.toNat (orderForm i).2.toNat accs n (fun l old => !cas || old == cmp l)
      fun l old => atomNew n k old (opnd l) (cmp l)
    let ws := s.g.resRegs d.toNat w r.2
    atomForm i = some (n, d, a, k, x) → Issues i ([atomOpnd n cas d, pair a] ++ opX x) s → s.g.exec ≠ 0 →
    Reaches s ⟨.rmw, true, true, s.hostAtom n k, false⟩ qs accs → InMemory accs →
    ((s.ready accs).holds (orderForm i).1.toNat ((lanePieces accs).map (·.2)) = true →
      (s.g.reserve s.freeRows d.toNat w).isSome = true →
      ∃ t, exec i s = .next t ∧ HeldBack i s t d.toNat w (.atomic false k.toNat n
        (accs.map fun c => (c.lane, (opnd c.lane, cmp c.lane)))
        (s.g.relTags (releases (orderForm i).1.toNat) (orderForm i).2.toNat)) accs) ∧
    ((s.ready accs).holds (orderForm i).1.toNat ((lanePieces accs).map (·.2)) = false → Roomy r.1 ws →
    ∃ t, exec i s = .next t ∧ Writes i (r.1.afterLoad (orderForm i).1) t ws ∧
      SameBytes s t (marksOf accs ++ covers accs ++ s.unsettled) ∧
      (InOrder s → r.1.g = { s.g with hostFail := none, late := false, mo := r.1.g.mo } ∧
        ∀ (c : LaneAcc) (p : Piece), accs = [c] → c.ps = [p] → p.off = 0 → p.len = n → p.x.ga % 16 + n ≤ 16 → s.snoop = [] →
          (∀ e v, p.x.mark = some (e, v) → e + 8 ≤ p.x.ga ∨ p.x.ga + n ≤ e) →
          r.2 = [(c.lane, s.rdN p.x.ga n)] ∧ t.rdN p.x.ga n = atomNew n k (s.rdN p.x.ga n) (opnd c.lane) (cmp c.lane)))) ∧
  ∀ (m : BitVec 3) (d a b : Reg) (s : State),
    let i : Instr := .atomc m d a b
    let offs := (lanesIn s.g.exec).map fun l => (l, ((s.g.rd a.toNat)[l]).toNat)
    Issues i [one d, one a, one b] s → s.g.exec ≠ 0 → CoreReaches s s.myTeam.cmem 4 offs → InOrder s →
    2 ≤ s.freeRows →
    ∃ t, exec i s = .next t ∧ SameBytes s t (s.coreRanges 4 offs) ∧
      (∀ r, r < 128 → r ≠ d.toNat → t.g.rd r = s.g.rd r) ∧
      ∀ l, offs.map (·.1) = [l] → d.toNat ≠ 0 →
        let ga := s.teamBase s.myTeam + ((s.g.rd a.toNat)[l]).toNat
        (t.g.rd d.toNat)[l] = BitVec.ofNat 32 (s.rdN ga 4) ∧
        t.rdN ga 4 = (atomcNew m (BitVec.ofNat 32 (s.rdN ga 4)) (s.g.rd b.toNat)[l] (s.g.rd d.toNat)[l]).toNat

/-- Cache operations complete (R206): no byte changes but the marks of the walker, stores held back to the line, and granules that
stand written with No Snoop. Of an unpoisoned line of DRAM, `cwb` leaves no cache of its scope with a dirty copy, `cinv` none with
a clean one, `cflush` none with any.

Tags (R209): `tagld` reads the tag of the granule that holds each lane's address, 0 where its page checks none; `tagst` writes
bits [3:0] of the lane there; no byte changes but the marks of the walker.

`pclr` by the supervisor clears a poisoned line: 128 zero bytes, no poison, zero tags; a line that is not poisoned stays as it
is (R212). -/
def Obligations.CacheAndTags : Prop :=
  (∀ (i : Instr) (s : State) (op : Nat) (sc : BitVec 3) (a : Reg) (k : BitVec 5) (x : Option (BitVec 24))
    (accs : List LaneAcc), cacheForm i = some (op, sc, a, k, x) → Issues i ([pair a] ++ opX x) s → s.g.exec ≠ 0 →
    Reaches s ⟨.cache, false, false, true, false⟩ (s.g.unitReqs a 128 (memK k x) x) accs →
    ∃ t, exec i s = .next t ∧
      t.g = { s.g with
        pc := s.g.pc + BitVec.ofNat 56 (Instr.size i), wait := .none, hostFail := none, late := false, mo := t.g.mo } ∧
      SameBytes s t (marksOf accs ++ s.unsettled) ∧
      ∀ (c : LaneAcc) (p : Piece), accs = [c] → c.ps = [p] → p.x.home ≠ 4 → gaRegion p.x.ga = 0 →
        s.isPoison (p.x.ga / 128) = false →
        (op = 0 → t.dirtyIn (p.x.ga / 128) (s.g.cachesOf sc.toNat) = false) ∧
        (op = 1 → ∀ e ∈ t.inner, e.1 / 2 ^ 20 = p.x.ga / 128 → s.g.cachesOf sc.toNat (e.1 % 2 ^ 20) = true →
          dirtyState e.2 = true) ∧
        (op = 2 → t.copied (p.x.ga / 128) (s.g.cachesOf sc.toNat) = false)) ∧
  (∀ (s : State) (d a : Reg) (k : BitVec 5) (x : Option (BitVec 24)) (accs : List LaneAcc),
    let s' := s.ready accs
    let ws := s.g.resRegs d.toNat 1 (accs.map fun c => (c.lane, ((c.tagged.map s.tagAt).getD 0).toNat))
    let qs := s.g.unitReqs a 32 (memK k x) x
    s.g.exec ≠ 0 →
    (Issues (.tagld d a k x) ([one d, pair a] ++ opX x) s → Reaches s ⟨.read, false, false, true, false⟩ qs accs →
      Roomy s' ws → ∃ t, exec (.tagld d a k x) s = .next t ∧ Writes (.tagld d a k x) s' t ws ∧ SameBytes s t (marksOf accs)) ∧
    (Issues (.tagst d a k x) ([one d, pair a] ++ opX x) s → Reaches s ⟨.write, false, false, true, false⟩ qs accs →
      ∃ t, exec (.tagst d a k x) s = .next t ∧ SameBytes s t (marksOf accs) ∧
        t.g = { s.g with
          pc := s.g.pc + BitVec.ofNat 56 (Instr.size (.tagst d a k x)), wait := .none, hostFail := none, late := false } ∧
        (∀ q, (∀ c ∈ accs, c.tagged ≠ some q) → t.tagAt q = s.tagAt q) ∧
        ∀ (c : LaneAcc) (q : Nat), accs = [c] → c.tagged = some q →
          t.tagAt q = ((s.g.rd d.toNat)[c.lane]).extractLsb' 0 4)) ∧
  (∀ (s : State) (a : Reg) (k : BitVec 5) (x : Option (BitVec 24)) (c : LaneAcc) (p : Piece),
    let i : Instr := .pclr a k x
    Issues i ([pair a] ++ opX x) s → s.g.priv = true → s.g.exec ≠ 0 →
    Reaches s ⟨.clear, false, false, true, false⟩ (s.g.unitReqs a 128 (memK k x) x) [c] → c.ps = [p] → p.x.home ≠ 4 →
    ∃ t, exec i s = .next t ∧
      t.g = { s.g with
        pc := s.g.pc + BitVec.ofNat 56 (Instr.size i), wait := .none, hostFail := none, late := false, mo := t.g.mo } ∧
      (s.isPoison (p.x.ga / 128) = true →
        (∀ j, j < 128 → t.byte (p.x.ga / 128 * 128 + j) = 0) ∧ t.isPoison (p.x.ga / 128) = false ∧
        (∀ j, j < 4 → t.tagAt (p.x.ga / 128 * 4 + j) = 0) ∧
        SameBytes s t (marksOf [c] ++ (p.x.ga / 128 * 128, 128) :: s.unsettled)) ∧
      (s.isPoison (p.x.ga / 128) = false → SameBytes s t (marksOf [c]) ∧ t.tags = s.tags ∧ t.poison = s.poison))

/-- Where active lanes of a load, a store or an atomic fault before anything is performed, the fault of lowest class, then code,
then lane is the one reported, and nothing is performed (R46, R178). A lane's fault (R179): its pointer in TRAP.ADDR, its kind in
TRAP.INFO, and the class and code that the translation finds, unless the lane meets a lower one; a pointer with bits [59:56] set gives
class 3 code 8, an access partly inside the heap window code 7, a misaligned atomic code 10. A translation through a leaf finds the
codes 2, 3 and 5 where the leaf denies reading, writing, or a user group (Table 6-1).

A core-memory form likewise: an offset beyond the bytes gives class 3 code 9, a misaligned one code 10. -/
def Obligations.AccessFault : Prop :=
  (∀ (i : Instr) (s : State) (ops : List Opnd) (m : MemOp) (qs : List LaneReq) (t : Trap),
    laneForm i s = some (ops, m, qs) → Issues i ops s → s.g.exec ≠ 0 → (∃ q ∈ qs, s.laneCheck m q = .bad t) →
    (∀ q ∈ qs, ∀ u, s.laneCheck m q = .bad u → u = t ∨ t.before u) →
    exec i s = .next ((s.lateCount t.cls t.code).settled.trap t)) ∧
  (∀ (s : State) (m : MemOp) (q : LaneReq), s.g.hostFail = none →
    let va := q.at_ % 2 ^ 56
    let fault := fun (cls code at_ ga : Nat) => LaneRes.bad ⟨cls, code, m.lane q.lane, false, BitVec.ofNat 64 q.ptr,
      BitVec.ofNat 64 (m.kind.code + if cls = 4 then ga % 2 ^ 54 * 4 else 0), at_⟩
    (∀ c k at_ ga, s.xlat s.g.ctx q.at_ q.n m.kind = .bad c k at_ ga →
      (∃ u, s.laneCheck m q = .bad u ∧ u.addr = BitVec.ofNat 64 q.ptr ∧ u.lane = m.lane q.lane ∧ u.async = false ∧
        (u.cls < c ∨ (u.cls = c ∧ u.code ≤ k))) ∧
      (q.more = [] → s.okPieces s.g.ctx q.at_ q.n m.kind = [] → s.laneCheck m q = fault c k at_ ga)) ∧
    (bits q.at_ 59 56 ≠ 0 → q.more = [] → s.laneCheck m q = fault 3 8 va 0) ∧
    (bits q.at_ 59 56 = 0 → q.n ≠ 0 → s.g.heap.holds va ≠ s.g.heap.holds (va + q.n - 1) → q.more = [] →
      s.laneCheck m q = fault 3 7 va 0) ∧
    (∀ ps, s.xlat s.g.ctx q.at_ q.n m.kind = .ok ps → s.pieceHits m q ps = [] →
      (q.more = [(3, 10)] → s.laneCheck m q = fault 3 10 q.at_ 0) ∧
      (q.more = [] → s.laneCheck m q = .ok ⟨q.lane, q.ptr, ps⟩)) ∧
    (∀ r, bits q.at_ 59 56 = 0 → q.n ≠ 0 → va % 4096 + q.n ≤ 4096 → va + q.n ≤ 2 ^ 56 → s.g.heap.attr.getLsbD 0 = false →
      (∀ h, (s.dev s.g.dk (0x0110 + 32 * h)).getLsbD 0 = false) → (∀ a, s.hostRange s.g.dk a = none) → s.pageXlat s.g.ctx va m.kind = r →
      (∀ c k ga, r = .bad c k ga → s.xlat s.g.ctx q.at_ q.n m.kind = .bad c k va ga) ∧
      ∀ w cached, bits (s.dev s.g.dk 0x0008).toNat 12 0 ≠ 0 → s.leafFor s.g.ctx va m.kind = (.leaf w, cached) →
        ((m.kind = .read ∨ m.kind = .rmw) → bits w.lo 1 1 = 0 → r = .bad 3 2 0) ∧
        (m.kind = .write ∨ (m.kind = .rmw ∧ bits w.lo 1 1 = 1) → bits w.lo 2 2 = 0 → r = .bad 3 3 0) ∧
        (s.g.priv = false → bits w.lo 1 1 = 1 → bits w.lo 2 2 = 1 → bits w.lo 3 3 = 1 → bits w.lo 4 4 = 0 → r = .bad 3 5 0))) ∧
  ∀ (i : Instr) (s : State) (ops : List Opnd) (kind size n : Nat) (offs : List (Fin 128 × Nat)) (l : Fin 128) (off c : Nat),
    coreForm i s = some (ops, kind, size, n, offs) → Issues i ops s → s.g.exec ≠ 0 → (l, off) ∈ offs →
    coreCode size n off = some c → (∀ o ∈ offs, ∀ e, coreCode size n o.2 = some e → c < e ∨ (c = e ∧ l.val ≤ o.1.val)) →
    exec i s = .next (s.trap ⟨3, c, some l.val, false, BitVec.ofNat 64 off, BitVec.ofNat 64 kind, off⟩)

/-- A matrix operation issues (R214, R215, R222): the scale state fits it, a quad operation runs in a quad, the rows of its result
are free. Its operands are read now and stand in the pending list; INDEX, the scale position and, for a quad operation, its
step number advance; every register keeps its value until it completes. A part of a quad step that a member which has ended will never
join is not issued: it records the fault of class 8 code 6 and counts as issued (R227).

The checks at issue (R223, R225): a scale mode that does not fit traps with class 8 code 3, a quad operation outside a quad with
code 4, and nothing is issued; without the rows of its result the register copy fault, the lower code, comes first (R46). -/
def Obligations.MatrixIssue : Prop :=
  (∀ (i : Instr) (s : State) (op : Nat) (m sel : BitVec 3) (d a b e : Reg),
    let f := matForm op m sel
    matrixForm i = some (op, m, sel, d, a, b, e) → Issues i (matrixOps f s.g.mscl d a b e) s → scaleFits f s.g.mscl = true →
    (f.quad = true → (s.g.quadOf s.myTeam).isSome = true) → (s.g.reserve s.freeRows d.toNat f.wc).isSome = true →
    ∃ (t : State) (o : MatOp), exec i s = .next t ∧
      (let lost := f.quad && s.quadOrphan s.g s.g.quads
       t = { s.past i with g := { (s.past i).g with
        mat := if lost then s.g.mat else s.g.mat ++ [o], index := s.g.index + 1, mscl := scaleAdvance s.g.mscl f.kd,
        faults := if lost then s.g.faults ++ [⟨none, s.g.index, 8, 6, none, 0, 0, s.g.pc.zeroExtend 64, false⟩] else s.g.faults,
        quads := if f.quad then s.g.quads + 1 else s.g.quads, rows := t.g.rows, shared := t.g.shared } }) ∧
      o.op = op ∧ o.m = m ∧ o.sel = sel ∧ o.d = d.toNat ∧ o.mscl = s.g.mscl ∧ o.tag.num = none ∧ o.tag.index = s.g.index ∧
      (∀ j, j < f.aRegs → o.a[j]? = some (s.g.rd (a.toNat + j))) ∧
      (∀ j, j < f.bRegs → o.b[j]? = some (s.g.rd (b.toNat + j))) ∧
      (∀ j, j < f.wc → o.c[j]? = some (if m.getLsbD 0 then zeroLanes else s.g.rd (d.toNat + j)))) ∧
  (∀ (i : Instr) (s : State) (op : Nat) (m sel : BitVec 3) (d a b e : Reg),
    let f := matForm op m sel
    matrixForm i = some (op, m, sel, d, a, b, e) →
    (scaleFits f s.g.mscl = false →
      Issues i ([⟨d.toNat, f.wc, 4⟩, ⟨a.toNat, f.aRegs, 4⟩, ⟨b.toNat, f.bRegs, 4⟩] ++
        if f.n = 0 then [] else [⟨e.toNat, f.eRegs, 4⟩]) s → (s.g.reserve s.freeRows d.toNat f.wc).isSome = true →
      exec i s = .next (s.trap ⟨8, 3, none, false, 0, 0, 0⟩)) ∧
    (scaleFits f s.g.mscl = true → f.quad = true → s.g.quadOf s.myTeam = none → Issues i (matrixOps f s.g.mscl d a b e) s →
      (s.g.reserve s.freeRows d.toNat f.wc).isSome = true → exec i s = .next (s.trap ⟨8, 4, none, false, 0, 0, 0⟩)) ∧
    (scaleFits f s.g.mscl = true → Issues i (matrixOps f s.g.mscl d a b e) s → s.g.reserve s.freeRows d.toNat f.wc = none →
      exec i s = .next s.rowTrap))

/-- An operation on one group's own columns completes (R214, R216 to R222): each result register holds, in every lane, the dot
product of the lane's row with the register's column, and no other register changes; invalid sparse metadata instead records the
fault of class 8 code 1 in the lowest such lane and writes no register (R221). No memory changes.

A quad step completes for its four members together, once each has issued its part (R225, R226): the columns of quarter q come from
part q; parts that differ in operation, M or SEL record the fault of class 8 code 5 in each member and write nothing (R227). -/
def Obligations.MatrixComplete : Prop :=
  (∀ (s : State) (o : MatOp) (rest : List MatOp), s.arg.key = s.g.key → s.g.mat = o :: rest → o.op < 0x56 →
    ∃ t, exec .matrixOpComplete s = .next t ∧ t.mem = s.mem ∧ t.groups = s.groups ∧ t.g.mat = rest ∧ t.g.pc = s.g.pc ∧
      (o.badLane o.form = none → t.g.faults = s.g.faults ∧
        (∀ c (i : Fin 128), c < o.form.wc → o.d ≠ 0 → o.d + c < 128 →
          (t.g.rd (o.d + c))[i] = matDot o o o.form i (c % 16) ((o.c[c]?).getD zeroLanes)[i]) ∧
        ∀ r, r < o.d ∨ o.d + o.form.wc ≤ r → t.g.rd r = s.g.rd r) ∧
      ∀ l, o.badLane o.form = some l →
        t.g.faults = s.g.faults ++ [⟨o.tag.num, o.tag.index, 8, 1, some l, 0, 0, o.tag.pc, false⟩] ∧ t.g.regs = s.g.regs) ∧
  ∀ (s : State) (o : MatOp) (rest : List MatOp),
    let ps := s.quadParts s.g o.step
    let same := ∀ p ∈ ps, p.2.op = o.op ∧ p.2.m = o.m ∧ p.2.sel = o.sel
    s.arg.key = s.g.key → s.g.mat = o :: rest → 0x56 ≤ o.op → ps.length = 4 → (ps.map (·.1)).Nodup →
    ∃ t, exec .matrixOpComplete s = .next t ∧ t.mem = s.mem ∧ (∀ k, k ∉ ps.map (·.1) → t.group k = s.group k) ∧
      ∀ p ∈ ps,
        let h := s.group p.1
        let h' := t.group p.1
        h'.mat = h.mat.erase p.2 ∧ h'.pc = h.pc ∧
        (¬ same → h'.regs = h.regs ∧
          h'.faults = h.faults ++ [⟨p.2.tag.num, p.2.tag.index, 8, 5, none, 0, 0, p.2.tag.pc, false⟩]) ∧
        (same → p.2.badLane p.2.form = none → h'.faults = h.faults ∧
          (∀ c (i : Fin 128), c < p.2.form.wc → p.2.d ≠ 0 → p.2.d + c < 128 →
            (h'.rd (p.2.d + c))[i] =
              matDot p.2 (((ps.map (·.2))[c / 16]?).getD p.2) p.2.form i (c % 16) ((p.2.c[c]?).getD zeroLanes)[i]) ∧
          ∀ r, r < p.2.d ∨ p.2.d + p.2.form.wc ≤ r → h'.rd r = h.rd r) ∧
        ∀ l, same → p.2.badLane p.2.form = some l → h'.regs = h.regs ∧
          h'.faults = h.faults ++ [⟨p.2.tag.num, p.2.tag.index, 8, 1, some l, 0, 0, p.2.tag.pc, false⟩]

/-- `mscl` writes the scale state (R224); a mode above 4 or a nonzero upper half traps with class 8 code 2.

`mfence` closes the pending set as batch ISSUED + 1 and writes its number; with nothing pending the batch is complete at once
(R229). `mwait` moves on once MB.DONE has reached its batch, and is an acquire then (Table 9-3), else it waits; a fault of a batch up
to it is reported first (R230, R232). -/
def Obligations.ScaleAndBatches : Prop :=
  (∀ (a : Reg) (s : State), Issues (.mscl a) [pair a] s →
    let v := s.g.u64 a.toNat
    (scaleMode v ≤ 4 → v.extractLsb' 32 32 = 0#32 →
      exec (.mscl a) s = .next (State.past { s with g := { s.g with mscl := v } } (.mscl a))) ∧
    (5 ≤ scaleMode v ∨ v.extractLsb' 32 32 ≠ 0#32 → exec (.mscl a) s = .next (s.trap ⟨8, 2, none, false, 0, 0, 0⟩))) ∧
  ((∀ (d : Reg) (s : State), Issues (.mfence d) [one d] s → (s.g.issued - s.g.done).toNat < 64 → 2 ≤ s.freeRows →
    ∃ t, exec (.mfence d) s = .next t ∧ t.g.issued = s.g.issued + 1 ∧ t.g.index = 0 ∧ t.mem = s.mem ∧
      (∀ r, r < 128 → t.g.rd r = readAfter s.g [(d.toNat, Lanes.uni (s.g.issued + 1))] r) ∧
      t.g.pc = s.g.pc + BitVec.ofNat 56 (Instr.size (.mfence d)) ∧
      (s.g.mat = [] → s.myTeam.queues = Vector.replicate 16 Queue.zero → s.msgs = [] → t.g.done = s.g.issued + 1)) ∧
  (∀ (a : Reg) (s : State), Issues (.mwait a) [one a] s →
    let v := s.g.u a.toNat
    let n := if 2 ^ 31 ≤ (s.g.issued - v).toNat then s.g.issued else v
    ((s.g.done - n).toNat < 2 ^ 31 → (∀ f ∈ s.g.faults, f.upTo n = false) →
      exec (.mwait a) s = .next (s.acquired.past (.mwait a)) ∧ SameBytes s s.acquired s.unsettled ∧
      (InOrder s → s.acquired = s)) ∧
    (2 ^ 31 ≤ (s.g.done - n).toNat → exec (.mwait a) s = .next { s with g := { s.g with wait := .mwait } }) ∧
    ∀ f, (s.g.done - n).toNat < 2 ^ 31 → s.g.faults = [f] → f.upTo n = true → f.voids = false →
      exec (.mwait a) s = .next (State.trap { s with g := { s.g with faults := [] } } f.trap)))

/-- One arrival at a barrier (R262): the count operand is capped at the groups that have not ended, 0 means all of them; the first
arrival of a phase sets the expected count, the last completes the phase. Each arrival releases to the ends of the phase's waits
(R263).

`bar` arrives and then waits until its phase has completed, `arrive` arrives and reads the phase, `waitb` waits for the
phase in its register (R262, R264). The pc moves past each at once; the groups whose phase it completes wait no more; the other
barriers stay, and all memory but what is held back and the order asks for.

`quota` (R265): a value that the team refuses traps with class 7 code 4. The only group of its team completes the rendezvous
alone: its budget is the byte of its role, registers at or above the lesser of the two budgets become zero. A group that others
have to join waits after it. -/
def Obligations.BarriersAndQuota : Prop :=
  (∀ (x : Barrier) (c live idx : Nat) (r : Rel),
    let y := x.arrive c live idx r
    let want := if x.e = 0 then (if c = 0 ∨ live < c then live else c) else x.e
    (want ≤ x.n + 1 → y.p = x.p + 1 ∧ y.n = 0 ∧ y.e = 0 ∧ r ∈ y.past) ∧
    (x.n + 1 < want → y.p = x.p ∧ y.n = x.n + 1 ∧ y.e = want ∧ r ∈ y.tags)) ∧
  ((∀ (a b : Reg) (s : State), Issues (.bar a b) [one a, one b] s →
    let n := (s.g.u a.toNat).extractLsb' 0 4
    let x := (s.barrier n).arrive ((s.g.u b.toNat).extractLsb' 0 5).toNat s.liveCount s.g.gidx (s.g.release 1)
    ∃ t, exec (.bar a b) s = .next t ∧ (t.team s.g.tid).barriers = s.myTeam.barriers.set n.toNat x ∧
      (∀ k, k ≠ s.g.tid → (t.team k).barriers = (s.team k).barriers) ∧ t.g.pc = s.g.pc + 4 ∧
      t.g.wait = (if phaseDone x.p (s.barrier n).p then .none else .bar n (s.barrier n).p) ∧ SameBytes s t s.unsettled ∧
      (∀ g ∈ s.teamGroups s.g.tid, g.key ≠ s.g.key → g.barOver n x.p = true → (t.group g.key).wait = .none) ∧
      (InOrder s → t.mem = s.mem ∧ t.g = { (s.past (.bar a b)).g with wait := t.g.wait, mo := t.g.mo } ∧
        t.team s.g.tid = { s.myTeam with barriers := s.myTeam.barriers.set n.toNat x } ∧
        ∀ k, k ≠ s.g.key → t.group k = { s.group k with wait := (t.group k).wait, mo := (t.group k).mo })) ∧
  (∀ (d a b : Reg) (s : State), Issues (.arrive d a b) [one d, one a, one b] s → 2 ≤ s.freeRows →
    let n := (s.g.u a.toNat).extractLsb' 0 4
    let x := (s.barrier n).arrive ((s.g.u b.toNat).extractLsb' 0 5).toNat s.liveCount s.g.gidx (s.g.release 1)
    let ph := Lanes.uni ((s.barrier n).p.zeroExtend 32)
    ∃ t, exec (.arrive d a b) s = .next t ∧ (t.team s.g.tid).barriers = s.myTeam.barriers.set n.toNat x ∧
      (∀ k, k ≠ s.g.tid → (t.team k).barriers = (s.team k).barriers) ∧ t.g.pc = s.g.pc + 4 ∧ t.g.wait = .none ∧
      t.g.rd d.toNat = readAfter s.g [(d.toNat, ph)] d.toNat ∧ SameBytes s t s.unsettled ∧
      (s.g.mo.loads = [] → ∀ r, r < 128 → t.g.rd r = readAfter s.g [(d.toNat, ph)] r) ∧
      (∀ g ∈ s.teamGroups s.g.tid, g.key ≠ s.g.key → g.barOver n x.p = true → (t.group g.key).wait = .none) ∧
      (InOrder s → t.mem = s.mem ∧
        ∀ k, k ≠ s.g.key → t.group k = { s.group k with wait := (t.group k).wait, mo := (t.group k).mo })) ∧
  ∀ (a b : Reg) (s : State), Issues (.waitb a b) [one a, one b] s →
    let n := (s.g.u a.toNat).extractLsb' 0 4
    let ph := (s.g.u b.toNat).extractLsb' 0 16
    (phaseDone (s.barrier n).p ph = true →
      ∃ t, exec (.waitb a b) s = .next t ∧ t.g.pc = s.g.pc + 4 ∧ t.g.wait = .none ∧ t.g.mo.epoch = s.g.mo.epoch + 1 ∧
        SameBytes s t s.unsettled ∧ (InOrder s → t = (s.past (.waitb a b)).orders t)) ∧
    (phaseDone (s.barrier n).p ph = false →
      exec (.waitb a b) s = .next { s.past (.waitb a b) with g := { (s.past (.waitb a b)).g with wait := .bar n ph } })) ∧
  (∀ (a : Reg) (s : State), Issues (.quota a) [one a] s → s.g.mat = [] →
    let q := s.g.u a.toNat
    (s.myTeam.quotaBad q = true → exec (.quota a) s = .next (s.trap ⟨7, 4, none, false, 0, 0, 0⟩)) ∧
    (s.myTeam.quotaBad q = false → s.g.gidx = 0 → s.myTeam.size = 1 → s.g.running = true → s.myTeam.quota = [] →
      ∃ t, exec (.quota a) s = .next t ∧ t.g.budget = quotaByte q s.g.role ∧ t.g.wait = .none ∧
        t.g.pc = s.g.pc + 4 ∧ (t.team s.g.tid).quota = [] ∧ SameBytes s t s.unsettled ∧ (InOrder s → t.mem = s.mem) ∧
        (s.g.mo.loads = [] →
          ∀ r, r < 128 → t.g.rd r = if min s.g.budget (quotaByte q s.g.role) ≤ r then zeroLanes else s.g.rd r)) ∧
    (s.myTeam.quotaBad q = false → (∃ h ∈ s.teamGroups s.g.tid, h.running = true ∧ h.gidx ≠ s.g.gidx ∧
        ∀ v ∈ s.myTeam.quota, v.1 ≠ h.gidx) →
      exec (.quota a) s = .next { s.setTeam s.g.tid { s.myTeam with quota := s.myTeam.quota ++ [(s.g.gidx, q)] } with
        g := { (s.past (.quota a)).g with wait := .quota } }))

/-- `freeze.keep` of a group with nothing outstanding (R247, R249, R251): a stem of the lowest free number holds the group's registers
(the handle already in its register), targets, masks, scale state and the address of the next instruction, one level deeper; the
group goes on. At depth 3 it traps with class 7 code 3, or, without the row that its handle needs, with the lower code 1 (R46).

`freeze` (R249): the group ends with its rows passed to the stem that it makes; a supervisor group goes on (R149). -/
def Obligations.FreezingStems : Prop :=
  (∀ (d : Reg) (s : State), Issues (.freezeKeep d) [one d] s → s.g.mat = [] → s.pendingWork s.g.key = false →
    s.g.faults = [] → s.g.colls = [] →
    (s.g.depth = 3 → Roomy s [(d.toNat, Lanes.uni 1#32)] →
      exec (.freezeKeep d) s = .next (s.trap ⟨7, 3, none, false, 0, 0, 0⟩)) ∧
    (s.g.depth = 3 → ¬ Roomy s [(d.toNat, Lanes.uni 1#32)] → exec (.freezeKeep d) s = .next s.rowTrap) ∧
    ∀ n, s.g.depth ≠ 3 → s.freeStem s.g.dk = some n → s.poolRoom s.g.dk frameBytes = true → 2 ≤ s.freeRows →
      (∀ p, p < 4 → s.rowsUsed s.g.dk s.g.core p + 256 ≤ 1024) → s.g.shared.length + s.g.rows.length ≤ 128 →
      ∃ (t : State) (st : Stem), exec (.freezeKeep d) s = .next t ∧ t.stemAt s.g.dk n = some st ∧
        st.isOpen = true ∧ st.depth = s.g.depth + 1 ∧ st.targets = s.g.targets ∧ st.exec = s.g.exec ∧ st.live = s.g.live ∧
        st.mscl = s.g.mscl ∧ st.pc = s.g.pc + 4 ∧ st.budget = s.g.budget ∧ st.regs = t.g.regs ∧
        (∀ r, r < 128 → t.g.rd r = readAfter s.g [(d.toNat, Lanes.uni (t.stemHandle s.g.dk n))] r) ∧
        t.g.pc = s.g.pc + 4 ∧ t.g.status = s.g.status ∧ t.g.exec = s.g.exec ∧ t.mem = s.mem) ∧
  (∀ (s : State) (n : Nat), Issues .freeze [] s → s.g.mat = [] → s.pendingWork s.g.key = false → s.g.faults = [] →
    s.g.colls = [] → s.g.depth ≠ 3 → s.freeStem s.g.dk = some n → s.poolRoom s.g.dk frameBytes = true →
    (∀ p, p < 4 → s.rowsUsed s.g.dk s.g.core p + 256 ≤ 1024) → s.g.shared.length + s.g.rows.length ≤ 128 →
    ¬ (s.myTeam.prologue = true ∧ s.g.gidx = 0) →
    ∃ (t : State) (st : Stem), exec .freeze s = .next t ∧ t.stemAt s.g.dk n = some st ∧ st.isOpen = true ∧
      st.depth = s.g.depth + 1 ∧ st.regs = s.g.regs ∧ st.pc = s.g.pc + 4 ∧ st.exec = s.g.exec ∧
      (s.g.priv = true → t.g = (s.past .freeze).g) ∧
      (s.g.priv = false → t.g = { s.g with status := .ending, wait := .none, rows := [], shared := [] }))

/-- `stemend` closes the stem that its handle names, whose bins launch at once (R248, R255): with no group, bin or frame left of it, its
number is free; a handle that names no live stem, or one that is closed, changes nothing. It orders nothing.

`spawn` and `spawnf` append an item for each lane of EXEC to the bin of its stem and target (R256 to R258), the group's own stem or the
one that the lane's handle names, with a release of what the group has accessed (R260); they wait where the bins would be more than
256. A key has one bin; its 128th item launches it (R258). Through an invalid target they trap with class 2 code 1, without an open
stem with class 7 code 2 at the lowest such lane. -/
def Obligations.StemsAndSpawns : Prop :=
  (∀ (a : Reg) (s : State), Issues (.stemend a) [one a] s →
    (s.stemOf s.g.dk (s.g.u a.toNat) = none → exec (.stemend a) s = .next (s.past (.stemend a))) ∧
    ∀ n st, s.stemOf s.g.dk (s.g.u a.toNat) = some n → s.stemAt s.g.dk n = some st →
      (st.isOpen = false → exec (.stemend a) s = .next (s.past (.stemend a))) ∧
      (st.isOpen = true →
        ∃ t, exec (.stemend a) s = .next t ∧ t.g.pc = s.g.pc + 4 ∧ t.g.wait = .none ∧ t.g.regs = s.g.regs ∧ t.g.mo = s.g.mo ∧
          t.mem = s.mem ∧ (∀ st', t.stemAt s.g.dk n = some st' → st'.isOpen = false) ∧
          (t.die s.g.dk).bins = (s.die s.g.dk).bins.filter (fun b => b.stem != n) ∧
          (∀ l, Store.find st.lk s.launches = some l → ∃ l', Store.find st.lk t.launches = some l' ∧
            l'.binq.map (fun b => (b.stem, b.target, b.items, b.tags)) =
              l.binq.map (fun b => (b.stem, b.target, b.items, b.tags)) ++
              ((s.die s.g.dk).bins.filter (fun b => b.stem == n)).map (fun b => (b.stem, b.target, b.items, b.tags))) ∧
          ((s.die s.g.dk).bins = [] → s.stemBusy s.g.dk n = false → t.stemAt s.g.dk n = none))) ∧
  ∀ (i : Instr) (s : State) (n : BitVec 3) (c : Reg) (ops : List Opnd) (e : Option (Fin 128 → Word)),
    (i = .spawn n c ∧ ops = [one c] ∧ e = none) ∨
    (i = .spawnf n c ∧ ops = [pair c] ∧ e = some fun l => (s.g.rd (c.toNat + 1))[l]) →
    Issues i ops s →
    let d := s.die s.g.dk
    let at_ := (s.g.target n).addr
    ((s.g.target n).v = false → exec i s = .next (s.trap ⟨2, 1, none, false, 0, 0, 0⟩)) ∧
    (∀ l ∈ lanesIn s.g.exec, (s.g.target n).v = true → s.spawnStem e l = none →
      (∀ l' ∈ lanesIn s.g.exec, s.spawnStem e l' = none → l.val ≤ l'.val) →
      exec i s = .next (s.trap ⟨7, 2, some l.val, false, 0, 0, 0⟩)) ∧
    ((s.g.target n).v = true → (∀ l ∈ lanesIn s.g.exec, (s.spawnStem e l).isSome = true) →
      d.bins.length + (lanesIn s.g.exec).length ≤ 256 →
      ∃ t, exec i s = .next t ∧ t.g = (s.past i).g ∧ t.mem = s.mem ∧ t.groups = s.groups ∧ t.teams = s.teams) ∧
    ∀ l k, (s.g.target n).v = true → lanesIn s.g.exec = [l] → s.spawnStem e l = some k →
      (d.bins.Pairwise fun b b' => ¬ (b.stem = b'.stem ∧ b.target = b'.target)) →
      let x := (s.g.rd c.toNat)[l]
      let r := s.g.release 2
      ((∀ b ∈ d.bins, ¬ (b.stem = k ∧ b.target = at_)) → d.bins.length < 256 →
        ∃ t, exec i s = .next t ∧ t.g = (s.past i).g ∧ t.mem = s.mem ∧ t.launches = s.launches ∧
          (t.die s.g.dk).bins = d.bins ++ [⟨k, at_, [x], s.cycle, [r]⟩]) ∧
      ((∀ b ∈ d.bins, ¬ (b.stem = k ∧ b.target = at_)) → 256 ≤ d.bins.length →
        exec i s = .next { s with g := { s.g with wait := .room } }) ∧
      ∀ b ∈ d.bins, b.stem = k → b.target = at_ → d.bins.length ≤ 256 →
        (b.items.length ≠ 127 →
          ∃ t, exec i s = .next t ∧ t.g = (s.past i).g ∧ t.mem = s.mem ∧ t.launches = s.launches ∧
            (t.die s.g.dk).bins = d.bins.map fun y =>
              if y.stem = k ∧ y.target = at_ then { y with items := y.items ++ [x], tags := latest r y.tags } else y) ∧
        (b.items.length = 127 →
          ∃ t, exec i s = .next t ∧ t.g = (s.past i).g ∧ t.mem = s.mem ∧
            (t.die s.g.dk).bins = d.bins.filter (fun y => !(y.stem = k && y.target == at_)) ∧
            (t.die s.g.dk).binSeq = d.binSeq + 1 ∧
            ∀ st, s.stemAt s.g.dk k = some st →
              (∀ l, Store.find st.lk s.launches = some l → t.launches = Store.ins st.lk
                { l with binq := l.binq ++ [⟨k, at_, b.items ++ [x], d.binSeq, latest r b.tags⟩] } s.launches) ∧
              (Store.find st.lk s.launches = none → t.launches = s.launches ∧
                (t.die s.g.dk).strays = d.strays ++ [⟨k, at_, b.items ++ [x], d.binSeq, latest r b.tags⟩]))

/-- `sysr` reads every register of Tables 1-8, 1-9, 1-10, 10-3, 14-6 and 15-1 that the group may read, a 64-bit one into a pair
(R42, R276): the value goes to all lanes. The energy counters 0x500 and 0x501 read as metered up to now (R452); an absent
number traps with class 1 code 6. SAMP.HEAD and TRACE.HEAD are acquires of what they count (R457, R463).

What the context registers read (Table 1-8, Table 1-9): TIDX and GDIM of the team, the budget with the rows in use, the
privilege, the cycles since die reset; HEAP and TRAP as the group holds them. -/
def Obligations.SystemRegisterRead : Prop :=
  (∀ (d : Reg) (n : BitVec 12) (s : State),
    let i : Instr := .sysr d n
    let s' := s.readySys n.toNat
    let ws := if sysWidth n.toNat = some 64 then uniPair d.toNat (s'.sysRead n.toNat)
      else [(d.toNat, Lanes.uni ((s'.sysRead n.toNat).extractLsb' 0 32))]
    (Issues i [if sysWidth n.toNat = some 64 then pair d else one d] s → (sysWidth n.toNat).isSome = true →
      (s.g.priv = true ∨ n.toNat < 0x300 ∨ (0x500 ≤ n.toNat ∧ n.toNat < 0x600)) → Roomy s' ws →
      ∃ t, exec i s = .next t ∧ Writes i s' t ws ∧ SameBytes s t s.unsettled ∧
        (InOrder s → n.toNat ≠ 0x500 → n.toNat ≠ 0x501 → s' = s)) ∧
    (Issues i [one d] s → sysWidth n.toNat = none → exec i s = .next (s.trap ⟨1, 6, none, false, 0, i.extWord ++ i.word, 0⟩))) ∧
  (∀ s : State, s.sysRead 0x002 = s.myTeam.tidx ∧ s.sysRead 0x003 = s.myTeam.gdim ∧
    s.sysRead 0x006 = BitVec.ofNat 64 (s.g.budget + 256 * s.g.rows.length) ∧
    s.sysRead 0x007 = (if s.g.priv then 1 else 0) ∧ s.sysRead 0x008 = BitVec.ofNat 64 (s.cycleOf s.g.dk) ∧
    s.sysRead 0x100 = s.g.heap.base ∧ s.sysRead 0x101 = s.g.heap.limit ∧ s.sysRead 0x102 = s.g.heap.offset ∧
    s.sysRead 0x103 = s.g.heap.attr ∧ s.sysRead 0x200 = s.g.trap.pc ∧
    s.sysRead 0x201 = s.g.trap.cause.zeroExtend 64 ∧ s.sysRead 0x202 = s.g.trap.addr ∧ s.sysRead 0x203 = s.g.trap.info)

/-- `sysw` by the supervisor writes every register that is not read-only (R42, R276): the bits that the register stores read back,
and no other register of the set changes; a read-only number traps with class 1 code 8, an absent one with code 6.

The MARG registers (R449): each voltage field holds the value clamped to 20 steps; GO starts a run where LSEL selects a link, and reads
as zero. On die 0 they are in the locked set (R441): a write with the TDI locked or running is discarded and moves it to ERROR, where
it is ignored. -/
def Obligations.SystemRegisterWrite : Prop :=
  ∀ (d : Reg) (n : BitVec 12) (s : State),
    let i : Instr := .sysw d n
    let wide := sysWidth n.toNat = some 64
    let v := if wide then s.g.u64 d.toNat else (s.g.u d.toNat).zeroExtend 64
    let plain := [0x100, 0x101, 0x102, 0x103, 0x200, 0x201, 0x202, 0x203, 0x301, 0x401, 0x402, 0x403, 0x502]
    let stored := plain ++ [0x300, 0x302, 0x400, 0x600, 0x601, 0x602]
    let tdi := (s.pkg (s.g.dk / 4)).tdi
    let unlocked := s.g.dk % 4 ≠ 0 ∨ tdi = 0
    s.g.priv = true → Issues i [if wide then pair d else one d] s →
    ((sysWidth n.toNat).isSome = true → sysReadOnly n.toNat = false →
      ∃ t, exec i s = .next t ∧ t.g.pc = s.g.pc + 4 ∧ t.g.wait = .none ∧ t.g.regs = s.g.regs ∧ t.groups = s.groups ∧
        n.toNat ∈ stored ∧ (∀ k ∈ stored, k ≠ n.toNat → t.sysRead k = s.sysRead k) ∧
        (n.toNat ∈ plain → t.mem = s.mem) ∧
        (n.toNat ∈ plain ++ [0x300, 0x302, 0x400] → t.sysRead n.toNat = v &&& sysMask n.toNat) ∧
        (0x600 ≤ n.toNat → unlocked → t.pkgs = s.pkgs ∧
          (n.toNat = 0x600 → t.sysRead 0x600 =
            0#40 ++ voltClamp (v.extractLsb' 16 8) ++ voltClamp (v.extractLsb' 8 8) ++ voltClamp (v.extractLsb' 0 8)) ∧
          (n.toNat = 0x601 → t.sysRead 0x601 = v &&& sysMask 0x601) ∧
          (n.toNat = 0x602 → t.sysRead 0x602 =
            if v.getLsbD 0 = true ∧ (s.sysReg s.g.dk 0x601).extractLsb' 0 2 ≠ 3#2 then 0 else s.sysRead 0x602)) ∧
        (0x600 ≤ n.toNat → ¬ unlocked → t.sysRead n.toNat = s.sysRead n.toNat ∧ (t.pkg (s.g.dk / 4)).tdi = 3)) ∧
    ((sysWidth n.toNat).isSome = true → sysReadOnly n.toNat = true →
      exec i s = .next (s.trap ⟨1, 8, none, false, 0, i.extWord ++ i.word, 0⟩)) ∧
    (sysWidth n.toNat = none → exec i s = .next (s.trap ⟨1, 6, none, false, 0, i.extWord ++ i.word, 0⟩))

/-- `wline` (R280): the word at the pointer of the uniform lane goes to the register once it differs from the value waited on, or
for a supervisor group while a mailbox record stands; else the group waits at the instruction. -/
def Obligations.WaitOnMemory : Prop :=
  ∀ (d a b : Reg) (s : State) (accs : List LaneAcc),
    let i : Instr := .wline d a b
    let p := (s.g.u64 a.toNat).toNat
    let r := (s.ready accs).readLanes 1 6 accs
    let s' := r.1
    let v := BitVec.ofNat 32 (natLE (r.2.flatMap (·.2)))
    Issues i [one d, pair a, one b] s →
    Reaches s ⟨.read, true, true, true, true⟩ [⟨s.g.ulane, p, p, 4, if p % 4 = 0 then [] else [(3, 10)]⟩] accs →
    (v ≠ s.g.u b.toNat ∨ (s.g.priv = true ∧ s.mailHeld s.g.dk s.g.core = true) → Roomy s' [(d.toNat, Lanes.uni v)] →
      ∃ t, exec i s = .next t ∧ Writes i s' t [(d.toNat, Lanes.uni v)] ∧ SameBytes s t (marksOf accs ++ s.unsettled)) ∧
    (v = s.g.u b.toNat → ¬ (s.g.priv = true ∧ s.mailHeld s.g.dk s.g.core = true) →
      exec i s = .next { s' with g := { s'.g with wait := .wline } }) ∧
    (InOrder s → InMemory accs → v = BitVec.ofNat 32 (natLE (accs.flatMap (s.ready accs).laneBytes)))

/-- `tlbinv` by the supervisor (R281): translations and table entries in scope are dropped, one page, one address space or all of
them; a reserved kind or scope drops every one everywhere. It waits while an engine in its scope still has accesses to make through a
translation that it may drop, and performs what the groups of its scope have translated and hold back (R336); the lines of a HOME 1
page without a translation leave their slice (R325). Nothing else changes.

`trc` (R282, R463): where the core traces, the group appends a packet of kind 4 with its word to the core's ring; elsewhere it only
moves on.

`energy` (R284, R452): the selected amount, metered up to now, goes to the pair; selectors from 3 read all ones. -/
def Obligations.DropsTraceEnergy : Prop :=
  (∀ (a b : Reg) (s : State), Issues (.tlbinv a b) [pair a, one b] s → s.g.priv = true →
    let w := s.g.u b.toNat
    let kind := (w.extractLsb' 0 2).toNat
    let scope := (w.extractLsb' 2 3).toNat
    let va := ((s.g.u64 a.toNat).extractLsb' 0 56).toNat
    let bad := kind = 3 ∨ scope < 2 ∨ 5 < scope
    let used := s.transInUse s.g.dk (if bad then 2 else kind) (if bad then 5 else scope) s.g.asn
    (used = true → exec (.tlbinv a b) s = .next { s with g := { s.g with wait := .busy } }) ∧
    (used = false →
    ∃ t, exec (.tlbinv a b) s = .next t ∧ t.g.pc = s.g.pc + 4 ∧ t.g.wait = .none ∧ t.g.mo.pend = [] ∧ t.g.landed ∧
      SameBytes s t s.unsettled ∧
      (InOrder s → (∀ l ∈ s.tlb, l.pinned = false) → t = { s.past (.tlbinv a b) with tlb := t.tlb, walker := t.walker }) ∧
      (∀ l, l ∈ t.tlb → l ∈ s.tlb) ∧ (∀ w, w ∈ t.walker → w ∈ s.walker) ∧
      (bad → t.tlb = [] ∧ t.walker = []) ∧
      (kind = 2 → scope = 5 → t.tlb = [] ∧ t.walker = []) ∧
      (kind = 0 → 2 ≤ scope → scope ≤ 5 → ∀ l ∈ t.tlb, l.dk = s.g.dk → ¬ (l.va ≤ va ∧ va < l.va + l.bytes)) ∧
      (kind = 1 → 2 ≤ scope → scope ≤ 5 → ∀ l ∈ t.tlb, l.dk = s.g.dk → l.asn ≠ s.g.asn) ∧
      (kind ≠ 3 → scope = 2 → ∀ l ∈ s.tlb, l.dk ≠ s.g.dk → l ∈ t.tlb))) ∧
  (∀ (a : Reg) (s : State), Issues (.trc a) [one a] s →
    (s.traceOn (coreKey s.g.dk s.g.core) = false → exec (.trc a) s = .next (s.past (.trc a))) ∧
    (s.traceOn (coreKey s.g.dk s.g.core) = true →
      exec (.trc a) s = .next ((s.tracePacket (coreKey s.g.dk s.g.core)
        ([4, BitVec.ofNat 8 (16 * s.g.part + s.g.slot)] ++ bytesLE (s.g.u a.toNat).toNat 4)).past (.trc a)))) ∧
  (∀ (d a : Reg) (s : State),
    let s' := s.meter s.g.dk
    let ws := uniPair d.toNat (s'.energyValue (s.g.u a.toNat))
    Issues (.energy d a) [pair d, one a] s → Roomy s' ws →
    ∃ t, exec (.energy d a) s = .next t ∧ Writes (.energy d a) s' t ws ∧ t.mem = s.mem ∧
      (s.g.u a.toNat = 2#32 → s'.energyValue (s.g.u a.toNat) = s'.sysReg s.g.dk 0x500) ∧
      (3 ≤ (s.g.u a.toNat).toNat → s'.energyValue (s.g.u a.toNat) = BitVec.allOnes 64))

/-- `bist` by the supervisor (R283, Table 14-5): a test that does not apply to its unit is refused at once with RESULT 2; another
holds the group until the test of the unit, idle, completes, which writes RESULT, TEST and the count of failures, moves the group
on, and takes a unit that failed out of use (R448). -/
def Obligations.SelfTest : Prop :=
  (∀ (d a : Reg) (s : State), Issues (.bist d a) [pair d, one a] s → s.g.priv = true →
    let test := ((s.g.u a.toNat).extractLsb' 0 8).toNat
    let unit := ((s.g.u a.toNat).extractLsb' 8 16).toNat
    let ws := uniPair d.toNat (BitVec.ofNat 64 (2 + 256 * test))
    (bistOk s.g.core test unit = false → Roomy s ws → ∃ t, exec (.bist d a) s = .next t ∧ Writes (.bist d a) s t ws) ∧
    (bistOk s.g.core test unit = true →
      exec (.bist d a) s = .next { s with g := { s.g with wait := .bist d.toNat test unit } })) ∧
  ∀ (s : State) (d test unit : Nat), s.arg.key = s.g.key → s.g.wait = .bist d test unit → s.g.status = .live →
    0 < d → d < 127 → 4 ≤ s.freeRows →
    (s.unitBusy s.g.dk unit = true → exec .bistTestComplete s = .next s) ∧
    (s.unitBusy s.g.dk unit = false → ∃ t, exec .bistTestComplete s = .next t ∧ t.g.pc = s.g.pc + 4 ∧ t.g.wait = .none ∧ t.mem = s.mem ∧
      t.g.rd d = Lanes.uni (BitVec.ofNat 32 ((if s.arg.val = 0 then 0 else 1) + 256 * test)) ∧
      t.g.rd (d + 1) = Lanes.uni (BitVec.ofNat 32 (min s.arg.val.toNat 0xFFFFFFFF)) ∧
      (∀ r, r < 128 → r ≠ d → r ≠ d + 1 → t.g.rd r = s.g.rd r) ∧
      (s.arg.val ≠ 0 → unit ∈ (t.die s.g.dk).badUnits))

/-- A copy instruction that passes its checks appends one request to its queue (R235, R236), with its operands as they stand, and
INDEX advances; a broken control word traps with class 5 code 1; a queue of 64 requests makes the group wait. -/
def Obligations.CopyIssue : Prop :=
  ∀ (i : Instr) (s : State) (ops : List Opnd) (r : CopyArgs),
    copyForm i s.g = some (ops, r) → Issues i ops s → r.sideFaults s.myTeam.bytes = [] →
    (r.badWord = true → exec i s = .next (s.trap ⟨5, 1, none, false, 0, 0, 0⟩)) ∧
    (r.badWord = false → (s.queue s.g.tid (ctlQ r.ctl)).reqs.length < 64 →
      ∃ (t : State) (q : CopyReq), exec i s = .next t ∧ t.g = { (s.past i).g with index := s.g.index + 1 } ∧ t.mem = s.mem ∧
        t.groups = s.groups ∧ (t.queue s.g.tid (ctlQ r.ctl)).reqs = (s.queue s.g.tid (ctlQ r.ctl)).reqs ++ [q] ∧
        q.kind = r.kind ∧ q.d = r.d ∧ q.a = r.a ∧ q.ctl = r.ctl ∧ q.e = r.e ∧ q.gk = s.g.key ∧ q.heap = s.g.heap ∧
        q.asn = s.g.asn ∧ q.priv = s.g.priv ∧ q.started = false ∧ q.skip = (s.queue s.g.tid (ctlQ r.ctl)).void ∧ q.since = s.cycle ∧
        ∀ j, j < 16 → j ≠ ctlQ r.ctl → t.queue s.g.tid j = s.queue s.g.tid j) ∧
    (r.badWord = false → 64 ≤ (s.queue s.g.tid (ctlQ r.ctl)).reqs.length →
      exec i s = .next { s with g := { s.g with wait := .busy } })

/-- `send` queues a message with its destination, tag, length and source (R268, R390); `recv` posts a receive and writes its handle
(R268, R269), or takes the oldest waiting message that matches. A place word with bits [31:16] set traps with class 6 code 1; a
core-memory side beyond the team's bytes with class 3 code 9.

`probe` reads the status of the oldest waiting message that matches, without taking it, or zeros (R270); `rwait` on a complete
receive of the group writes its status and frees its handle, an acquire (Table 9-3), on an incomplete one waits, on any other handle
traps with class 6 code 4. -/
def Obligations.MessageInstructions : Prop :=
  ((∀ (d a b : Reg) (s : State), Issues (.send d a b) [pair d, pair a, pair b] s →
    let p := s.g.u64 d.toNat
    let aw := s.g.u64 a.toNat
    let bw := s.g.u64 b.toNat
    let inside := bw.getLsbD 32 = false ∨ bits bw.toNat 31 0 = 0 ∨ bits p.toNat 31 0 + bits bw.toNat 31 0 ≤ s.myTeam.bytes
    (¬ inside → exec (.send d a b) s =
      .next (s.trap ⟨3, 9, none, false, p &&& 0xFFFFFFFF, 0, bits p.toNat 31 0⟩)) ∧
    (inside → (aw.extractLsb' 0 32).extractLsb' 16 16 ≠ 0#16 →
      exec (.send d a b) s = .next (s.trap ⟨6, 1, none, false, 0, 0, 0⟩)) ∧
    (inside → (aw.extractLsb' 0 32).extractLsb' 16 16 = 0#16 → aw.extractLsb' 48 16 = 0#16 →
      bw.extractLsb' 33 31 = 0#31 →
      ∃ (t : State) (m : Msg), exec (.send d a b) s = .next t ∧
        t.g = { (s.past (.send d a b)).g with index := s.g.index + 1 } ∧ t.mem = s.mem ∧
        Store.find s.fresh t.msgs = some m ∧ m.gk = s.g.key ∧ m.src = s.g.core ∧
        m.dst = relCore s.g.core (aw.extractLsb' 0 32) ∧ m.mtag = aw.extractLsb' 32 16 ∧ m.len = bits bw.toNat 31 0 ∧
        m.scm = bw.getLsbD 32 ∧ m.ptr = p ∧ m.sent = false ∧ (t.team s.g.tid).pinned = true)) ∧
  ∀ (d a b : Reg) (s : State), Issues (.recv d a b) [one d, pair a, pair b] s →
    let ck := coreKey s.g.dk s.g.core
    let buf := s.g.u64 a.toNat
    let bw := s.g.u64 b.toNat
    let cap := bits bw.toNat 31 0
    let w : Word := bw.extractLsb' 32 32
    let h := (s.core ck).handle
    (matchDcm w = true → cap ≠ 0 → bits buf.toNat 31 0 + cap ≤ s.myTeam.bytes) →
    (matchFull w = true → matchDcm w = true ∧ bits buf.toNat 31 0 % 16 = 0 ∧ cap % 16 = 0) →
    (matchAnySrc w = true ∨ (s.g.u d.toNat).extractLsb' 16 16 = 0#16) →
    w.extractLsb' 20 12 = 0#12 → (s.core ck).recvs.length < 128 → 2 ≤ s.freeRows →
    ∃ (t : State) (r : Recv), exec (.recv d a b) s = .next t ∧ r ∈ (t.core ck).recvs ∧ r.handle = h ∧ r.buf = buf ∧ r.cap = cap ∧
      r.matchw = w ∧ r.gk = s.g.key ∧ (∀ q, q < 128 → t.g.rd q = readAfter s.g [(d.toNat, Lanes.uni h)] q) ∧ t.g.pc = s.g.pc + 4 ∧
      t.mem = s.mem ∧
      (s.overflowMatch s.g.dk s.g.core s.myTeam.lk (s.g.u d.toNat) w = none →
        (t.core ck).recvs = (s.core ck).recvs ++ [r] ∧ r.complete = false ∧ r.msg = none ∧ t.msgs = s.msgs) ∧
      ∀ key m, s.overflowMatch s.g.dk s.g.core s.myTeam.lk (s.g.u d.toNat) w = some (key, m) →
        r.msg = some key ∧ r.len = m.len ∧ r.mtag = m.mtag) ∧
  ((∀ (d a b : Reg) (s : State), Issues (.probe d a b) [quad d, one a, one b] s →
    let w := s.g.u b.toNat
    let ws := match s.overflowMatch s.g.dk s.g.core s.myTeam.lk (s.g.u a.toNat) w with
      | some (_, m) => statusRegs d.toNat m.len m.mtag (relWord m.src m.dst) 2
      | none => statusRegs d.toNat 0 0 0 0
    (matchAnySrc w = true ∨ (s.g.u a.toNat).extractLsb' 16 16 = 0#16) → w.extractLsb' 20 12 = 0#12 → 8 ≤ s.freeRows →
    ∃ t, exec (.probe d a b) s = .next t ∧ (∀ q, q < 128 → t.g.rd q = readAfter s.g ws q) ∧ t.g.pc = s.g.pc + 4 ∧
      t.mem = s.mem ∧ t.msgs = s.msgs ∧ t.cores = s.cores) ∧
  ∀ (d a : Reg) (s : State), Issues (.rwait d a) [quad d, one a] s →
    let ck := coreKey s.g.dk s.g.core
    let h := s.g.u a.toNat
    (s.recvOf ck h = none → exec (.rwait d a) s = .next (s.trap ⟨6, 4, none, false, 0, 0, 0⟩)) ∧
    ∀ r, s.recvOf ck h = some r →
      (r.gk ≠ s.g.key → exec (.rwait d a) s = .next (s.trap ⟨6, 4, none, false, 0, 0, 0⟩)) ∧
      (r.gk = s.g.key → r.fault = none → r.complete = false →
        exec (.rwait d a) s = .next { s with g := { s.g with wait := .rwait } }) ∧
      (r.gk = s.g.key → r.fault = none → r.complete = true → 8 ≤ s.freeRows →
        let ws := statusRegs d.toNat (min r.len r.cap) r.mtag r.from_ (if r.cap < r.len then 1 else 0)
        ∃ t, exec (.rwait d a) s = .next t ∧ t.recvOf ck h = none ∧ t.g.pc = s.g.pc + 4 ∧ SameBytes s t s.unsettled ∧
          t.g.landed ∧ (∀ v ∈ ws, t.g.rd v.1 = readAfter s.g ws v.1) ∧
          (s.g.mo.loads = [] → t.mem = s.mem ∧ ∀ q, q < 128 → t.g.rd q = readAfter s.g ws q)))

/-- A collective instruction that passes its checks joins the instance of its GID that is next for its core, or opens one
(R273, R397), and the group goes on; it waits while its core's issue before that has not drained, and where 64 instances are in
flight (R398, R395). `cwait` moves on once every issue of its GID is done, an acquire (Table 9-3), and else waits; a fault of one it
reports (R274). -/
def Obligations.CollectiveIssue : Prop :=
  (∀ (i : Instr) (oper : Nat) (d a b : Reg) (s : State) (tag : Word) (places : List Nat), collForm i = some (oper, d, a, b) →
    Issues i [pair d, pair a, pair b] s →
    let ctl := s.g.u64 b.toNat
    let gid := collGid ctl
    let ck := coreKey s.g.dk s.g.core
    let n := match Store.find gid (s.core ck).counts with
      | some (t, n) => if t = tag then n + 1 else 1
      | none => 1
    let its := s.colls.find? fun x => x.2.gid = gid && x.2.tabtag == tag && x.2.inst = n && x.2.places == places
    let flying := s.colls.filter fun x => x.2.members.any fun o => o.dk == s.g.dk && !o.noticed
    let drained := ∀ x ∈ s.colls, x.2.gid = gid → x.2.tabtag = tag → x.2.inst + 1 = n →
      ∀ o ∈ x.2.members, o.dk = s.g.dk → o.core = s.g.core → o.noticed = true
    let room := flying.length < 64 ∨ ∃ x y, its = some x ∧ y ∈ flying ∧ y.1 = x.1
    s.collTraps s.g.dk s.g.core oper (s.g.u64 d.toNat) (s.g.u64 a.toNat) ctl = [] →
    s.collTable s.g.dk s.g.core gid = some (tag, places) →
    (¬ (drained ∧ room) → exec i s = .next { s with g := { s.g with wait := .busy } }) ∧
    (drained → room →
      ∃ (t : State) (key : Nat) (x : Coll) (m : Member) (c : CollIssue), exec i s = .next t ∧ Store.find key t.colls = some x ∧
        m ∈ x.members ∧ m.oper = oper ∧ m.ctl = ctl ∧ m.d = s.g.u64 d.toNat ∧ m.a = s.g.u64 a.toNat ∧ m.gk = some s.g.key ∧
        m.dk = s.g.dk ∧ m.core = s.g.core ∧ Store.find gid (t.core ck).counts = some (tag, n) ∧ t.mem = s.mem ∧
        t.g = { (s.past i).g with colls := t.g.colls } ∧ t.g.colls.getLast? = some c ∧ c.gid = gid ∧ c.ci = key ∧
        (x.performed = false → t.g.colls = s.g.colls ++ [⟨gid, key, false, none⟩]) ∧
        (∀ k y, its = some (k, y) → key = k) ∧
        (its = none → key = s.fresh ∧ x.gid = gid ∧ x.tabtag = tag ∧ x.inst = n ∧ x.places = places ∧ x.members = [m]))) ∧
  ∀ (a : Reg) (s : State), Issues (.cwait a) [one a] s →
    let gid := bits (s.g.u a.toNat).toNat 11 0
    let u := s.acquired
    ((∃ c ∈ s.g.colls, c.gid = gid ∧ c.done = false) → exec (.cwait a) s = .next { s with g := { s.g with wait := .cwait } }) ∧
    ((∀ c ∈ s.g.colls, c.gid = gid → c.done = true ∧ c.fault = none) →
      exec (.cwait a) s =
        .next (State.past { u with g := { u.g with colls := s.g.colls.filter fun c => c.gid != gid } } (.cwait a)) ∧
      SameBytes s u s.unsettled ∧ (InOrder s → u = s)) ∧
    ∀ c f, (∀ c ∈ s.g.colls, c.gid = gid → c.done = true) → (s.g.colls.filter fun c => c.gid = gid) = [c] → c.fault = some f →
      ∃ t : State, exec (.cwait a) s = .next (t.trap f.trap) ∧
        t = { s with g := { s.g with colls := t.g.colls } } ∧ ∀ e ∈ t.g.colls, e.gid = gid → e.fault = none

/-- `grun` starts a run and writes its handle (R275, R372); `gwait` writes the status and the last clause of a run that has ended and
frees its handle, an acquire (Table 9-3), waits for another, and of an unknown handle reads status 3 (R275, R374); `gset` stores its
word, a release, and wakes the runs that wait on it (R275). -/
def Obligations.GraphRuns : Prop :=
  (∀ (d a : Reg) (s : State), Issues (.grun d a) [one d, pair a] s → (s.g.u64 a.toNat).toNat % 64 = 0 →
    (s.die s.g.dk).runs.length < 16 → 2 ≤ s.freeRows →
    let h := (s.die s.g.dk).nextRun
    ∃ (t : State) (r : Run), exec (.grun d a) s = .next t ∧ (t.die s.g.dk).runs = (s.die s.g.dk).runs ++ [r] ∧ r.handle = h ∧
      r.clauses = s.g.u64 a.toNat ∧ r.asn = s.g.asn ∧ r.loaded = false ∧ r.phase = 0 ∧
      (∀ q, q < 128 → t.g.rd q = readAfter s.g [(d.toNat, Lanes.uni h)] q) ∧ t.g.pc = s.g.pc + 4 ∧ t.mem = s.mem) ∧
  (∀ (d a : Reg) (s : State), Issues (.gwait d a) [pair d, one a] s →
    let h := s.g.u a.toNat
    (s.runOf s.g.dk h = none → Roomy s [(d.toNat, Lanes.uni 3#32), (d.toNat + 1, Lanes.uni 0xFFFFFFFF#32)] →
      ∃ t, exec (.gwait d a) s = .next t ∧
        Writes (.gwait d a) s t [(d.toNat, Lanes.uni 3#32), (d.toNat + 1, Lanes.uni 0xFFFFFFFF#32)]) ∧
    ∀ r, s.runOf s.g.dk h = some r →
      (r.phase ≠ 6 → exec (.gwait d a) s = .next { s with g := { s.g with wait := .gwait } }) ∧
      (r.phase = 6 → 4 ≤ s.freeRows →
        let ws : List (Nat × Lanes) := [(d.toNat, Lanes.uni r.status), (d.toNat + 1, Lanes.uni r.last)]
        ∃ t, exec (.gwait d a) s = .next t ∧ t.runOf s.g.dk h = none ∧ t.g.pc = s.g.pc + 4 ∧ SameBytes s t s.unsettled ∧
          t.g.landed ∧ (∀ v ∈ ws, t.g.rd v.1 = readAfter s.g ws v.1) ∧
          (s.g.mo.loads = [] → t.mem = s.mem ∧ ∀ q, q < 128 → t.g.rd q = readAfter s.g ws q))) ∧
  ∀ (a b : Reg) (s : State) (c : LaneAcc) (p : Piece),
    let ptr := (s.g.u64 a.toNat).toNat
    Issues (.gset a b) [pair a, one b] s →
    Reaches s ⟨.write, true, true, true, true⟩ [⟨s.g.ulane, ptr, ptr, 4, if ptr % 4 = 0 then [] else [(3, 10)]⟩] [c] →
    c.ps = [p] → p.off = 0 → p.len = 4 → p.x.ga % 16 + 4 ≤ 16 → InMemory [c] → InOrder s →
    ∃ t, exec (.gset a b) s = .next t ∧ t.bytes p.x.ga 4 = bytesLE (s.g.u b.toNat).toNat 4 ∧
      SameBytes s t (marksOf [c] ++ (p.x.ga, 4) :: s.doubled) ∧ t.g.pc = s.g.pc + 4 ∧ t.g.regs = s.g.regs ∧
      ∀ r ∈ (s.die s.g.dk).runs, r.phase = 4 → r.on = p.x.home / 4 * 2 ^ 64 + p.x.ga →
        { r with phase := 0 } ∈ (t.die s.g.dk).runs

/-- `launch` by the supervisor reads the packet at its pointer (R261, R350, R351): an accepted packet becomes an active launch of the
die, with the kernel's entry and roles; a refused one reports its reason to the home die and starts nothing; one that does not name
the die has no other effect. All move on. -/
def Obligations.LaunchInstruction : Prop :=
  ∀ (a : Reg) (s : State) (accs : List LaneAcc),
    let i : Instr := .launch a
    let p := (s.g.u64 a.toNat).toNat
    let r := (s.ready accs).readLanes 1 6 accs
    let s' := r.1
    let b := r.2.flatMap (·.2)
    let lid := BitVec.ofNat 32 (pkt b 0x18 4)
    let home := s'.pktHome s.g.dk b
    let free := s'.activeLaunch s.g.dk lid home = none ∧ s'.shareless s.g.dk lid home = false ∧ (s'.die s.g.dk).notices = [] ∧
      (s'.die s.g.dk).launches.length < 32
    Issues i [pair a] s → s.g.priv = true →
    Reaches s ⟨.read, true, true, true, true⟩ [⟨s.g.ulane, p, p, 128, if p % 128 = 0 then [] else [(3, 10)]⟩] accs →
    (pktDies b ≠ [] → (pktDies b).contains (s'.pktSelf s.g.dk) = false → exec i s = .next (s'.past i)) ∧
    (∀ desc, (pktDies b).contains (s'.pktSelf s.g.dk) = true → free → s'.verdict s.g.dk b s.g.hostFail = .take desc →
      ∃ (t : State) (lk : Nat) (l : Launch), exec i s = .next t ∧ Store.find lk t.launches = some l ∧ l.dk = s.g.dk ∧ l.lid = lid ∧
        l.home = home ∧ l.packet = s'.pktFix s.g.dk b ∧ l.entry = BitVec.ofNat 56 (pkt desc 0 8) &&& ~~~3#56 ∧ l.next = 0 ∧
        l.roles = (descRoles desc).filter (fun r => r.1 != 0) ∧ lk ∈ (t.die s.g.dk).launches ∧
        t.g.pc = s.g.pc + 4 ∧ t.g.regs = s'.g.regs) ∧
    (∀ r, (pktDies b).contains (s'.pktSelf s.g.dk) = true → free → s'.verdict s.g.dk b s.g.hostFail = .refuse r →
      ∃ t, exec i s = .next t ∧ t.launches = s.launches ∧ t.g.pc = s.g.pc + 4 ∧ t.g.regs = s'.g.regs ∧
        t.reports = s.reports ++ [⟨home, lid, s.g.dk, some ⟨2, r, 0, 0, s'.unitWord s.g.dk 0 0 0 3, 0⟩⟩]) ∧
    SameBytes s s' (marksOf accs ++ s.unsettled) ∧
    (InOrder s → InMemory accs → b = accs.flatMap (s.ready accs).laneBytes ∧ s'.g.regs = s.g.regs)

/-- Slots, rows and frames: a group without a row re-executes where no team of the core can be swapped and a row is free (R365); a
mailbox record is posted in ring order into its empty slot and its four granules become full (R277); a group whose page is not
present leaves its slot for a group frame, whose 73,728 bytes are those of Table 1-13, and requests the page only then; it comes back
to a free slot (R52, R53, R339, R367).

The end of a group (R148): the group frees its slot and is over; memory stays. -/
def Obligations.SlotsAndFrames : Prop :=
  ((∀ s : State, (s.group s.arg.key).status = .rowWait →
    let g := s.group s.arg.key
    s.swapTeams g.dk g.core = [] → (s.team g.tid).swappable = false → s.rowsFree g.dk g.core g.part ≠ 0 →
    exec .registerCopyReexecute s = .next (s.setGroup s.arg.key { g with status := .live, wait := .none })) ∧
  (∀ (s : State) (r : List Byte) (rest : List (List Byte)),
    let ck := s.arg.key
    let k := (s.core ck).seq.toNat % 64
    let at_ := coreAddr (ck / 96) (ck % 96) (64 * k)
    (s.core ck).posts = r :: rest → r.length = 64 → s.isFull (at_ / 16) = false →
    ∃ t, exec .mailboxPost s = .next t ∧ t.bytes at_ 44 = r.take 44 ∧ t.rdN (at_ + 0x2C) 4 = (s.core ck).seq.toNat ∧
      t.bytes (at_ + 48) 16 = r.drop 48 ∧ (∀ j, j < 4 → t.isFull (at_ / 16 + j) = true) ∧
      (t.core ck).seq = (s.core ck).seq + 1 ∧ (t.core ck).posts = rest ∧ SameBytes s t [(at_, 64)] ∧ t.g = s.g ∧
      t.groups = s.groups ∧ t.teams = s.teams) ∧
  (∀ (s : State) (g : Group), (s.frameImage g).length = 73728) ∧
  (∀ (s : State) (n : Nat),
    let g := s.group s.arg.key
    g.status = .paging n → s.frameBusy g = false → InOrder s →
    exec .groupFrameWrite s = .next ((s.setBytes (s.frameAddr g.dk (groupFrame s.arg.key)) (s.frameImage g)).setGroup s.arg.key
      { g.refetch with status := .paged n, wait := .none })) ∧
  (∀ (s : State) (va kind : Nat),
    let g := s.group s.arg.key
    g.status = .saving va kind → s.frameBusy g = false → InOrder s →
    ∃ (t : State) (p : PageReq), exec .groupFrameWrite s = .next t ∧ (t.group s.arg.key).status = .paged p.req ∧
      p ∈ (t.die g.dk).pages ∧ p.va = va ∧ p.asn = g.asn ∧ p.kind = kind ∧ (s.die g.dk).nextReq % 2 ^ 32 = p.req) ∧
  ∀ (s : State) (n : Nat),
    let g := s.group s.arg.key
    g.status = .returning → (s.team g.tid).status = .resident → s.freeSlot g.dk g.core g.part = some n →
    let t := ((s.setGroup s.arg.key { g.refetch with slot := n, status := .live, wait := .none }).poolGive g.dk
      (groupFrame s.arg.key)).unsync (coreKey g.dk g.core) s.arg.key
    t.rowsOk g.dk g.core = true → exec .groupFrameRestore s = .next t) ∧
  (∀ s : State, (s.group s.arg.key).status = .ending → (s.group s.arg.key).key = s.arg.key →
    firstTeam ≤ (s.group s.arg.key).tid → (s.team (s.group s.arg.key).tid).quota = [] →
    ∃ t, exec .groupEnd s = .next t ∧ (t.group s.arg.key).status = .ended ∧ SameBytes s t s.unsettled)

/-- Swapping (R54, R362 to R364): while a head waits that no core can take, the victim's core memory goes to its frame, which
occupies its bytes of the pool, and the team leaves its core; a victim that a frame would have to wait for only stops, to be saved
later (R52). A restore puts the frame back into an allocation and the team is resident again. -/
def Obligations.SwapAndRestore : Prop :=
  (∀ (s : State) (tid : Nat),
    let dk := s.arg.key / 96
    let t0 := s.team tid
    s.leaver dk (s.arg.key % 96) = none → s.headWaits dk = true → s.quantumVictim dk (s.arg.key % 96) = some tid →
    s.teamRoom tid = true → s.poolSize dk ≠ 0 →
    (s.canSave tid = false → exec .quantumSwap s = .next (s.setTeam tid { t0 with leaving := true })) ∧
    (s.canSave tid = true → InOrder s →
      (∀ g ∈ s.teamGroups tid, g.gidx < t0.size ∧ ∀ va kind, g.status ≠ .saving va kind) →
      ∃ t, exec .quantumSwap s = .next t ∧ (t.team tid).status = .swapped ∧
        SameBytes s t [(t.frameAddr dk (teamFrame tid), t0.frameSize)] ∧
        (∀ off, off < t0.bytes → Store.get (fun _ => 0#8) (t.team tid).frame off = s.byte (s.teamBase t0 + off)) ∧
        (∀ l, t0.lk ≠ 0 → Store.find t0.lk s.launches = some l →
          Store.find t0.lk t.launches = some { l with swapq := l.swapq ++ [tid] }) ∧
        (t0.lk = 0 → (t.die dk).strayq = (s.die dk).strayq ++ [tid]))) ∧
  ∀ (s x : State) (l : Launch) (base : Nat),
    let tid := s.arg.key
    let core := s.arg.sub
    let t0 := s.team tid
    Store.find t0.lk s.launches = some l → t0.status = .swapped → l.source = 2 → l.swapq.head? = some tid →
    (s.die t0.dk).launches = [t0.lk] → (s.die t0.dk).strays = [] → (s.die t0.dk).strayq = [] → s.stopWaits t0.dk = none →
    s.coreTakes t0.dk core = true → s.admitted t0.lk l = true → (t0.kind = .prologue ∨ l.coreOk core = true) →
    (t0.pinned = false ∨ core = t0.core) → t0.frame.Pairwise (fun a b => a.1 < b.1) → (∀ c ∈ t0.frame, c.1 < t0.bytes) →
    (∀ g ∈ s.teamGroups tid, g.away = false) → t0.img = none → s.freeBase t0.dk core t0.bytes = some base →
    s.restoreTeam tid core = some x →
    ∃ t, exec .teamRestore s = .next t ∧ (t.team tid).status = .resident ∧ (t.team tid).core = core ∧
      (t.team tid).base = base ∧ (t.team tid).frame = [] ∧
      ∀ off, off < t0.bytes → t.byte (coreAddr t0.dk core base + off) = Store.get (fun _ => 0#8) t0.frame off

/-- Dispatch (R253, R353, R355, R359, R360): the team at the head of the only active launch starts on a core that takes it, its
groups at the kernel's entry in user privilege, its core memory zero; the grid prologue starts likewise; a bin whose timer has
passed goes to its launch's bin queue. -/
def Obligations.DispatchSteps : Prop :=
  (∀ (s : State) (lk : Nat) (l : Launch) (n0 base : Nat),
    let dk := s.arg.key
    let core := s.arg.sub
    let r := pktRank l.packet dk
    (s.die dk).launches = [lk] → (s.die dk).strays = [] → (s.die dk).strayq = [] → Store.find lk s.launches = some l → l.dk = dk →
    s.coreTakes dk core = true → s.stopFirst dk core = false → s.admitted lk l = true → l.coreOk core = true → l.source = 3 → l.stem = none →
    l.teamStem = false → Places s l core l.roles n0 base →
    ∃ t, exec .teamDispatch s = .next t ∧ (t.team s.fresh).kind = .grid ∧ (t.team s.fresh).status = .resident ∧
      (t.team s.fresh).core = core ∧ (t.team s.fresh).base = base ∧
      (t.team s.fresh).tidx = teamCoords l.packet (shareTeam r.1 r.2 l.next) ∧
      (t.group (16 * s.fresh)).status = .live ∧ (t.group (16 * s.fresh)).pc = l.entry ∧
      (t.group (16 * s.fresh)).priv = false ∧ (t.group (16 * s.fresh)).slot = n0 ∧
      (t.group (16 * s.fresh)).asn = bits (pkt l.packet 0x20 4) 11 0 ∧
      (∀ off, off < l.bytes → t.byte (coreAddr dk core base + off) = 0) ∧
      Store.find lk t.launches = some { l with next := l.next + 1, swapTurn := true }) ∧
  (∀ (s : State) (lk : Nat) (l : Launch) (n0 base : Nat),
    let dk := s.arg.key
    let core := s.arg.sub
    (s.die dk).launches = [lk] → Store.find lk s.launches = some l → l.dk = dk → s.coreTakes dk core = true →
    s.stopFirst dk core = false → s.admitted lk l = true → l.pro = 1 → l.ended = false → Places s l core [(1, maxBudget l.roles)] n0 base →
    ∃ t, exec .gridPrologueDispatch s = .next t ∧ (t.team s.fresh).kind = .prologue ∧
      (t.group (16 * s.fresh)).status = .live ∧ (t.group (16 * s.fresh)).pc = l.entry ∧
      (t.group (16 * s.fresh)).rd 1 = laneNumbers ∧ Store.find lk t.launches = some { l with pro := 2 }) ∧
  ∀ (s : State) (b : Bin) (st : Stem) (l : Launch),
    let dk := s.arg.key
    (s.die dk).bins = [b] → s.binPeriod dk b ≤ s.cycle - b.since → s.stemAt dk b.stem = some st →
    Store.find st.lk s.launches = some l →
    ∃ t, exec .binTimerExpiry s = .next t ∧ (t.die dk).bins = [] ∧ (t.die dk).binSeq = (s.die dk).binSeq + 1 ∧
      Store.find st.lk t.launches = some { l with binq := l.binq ++ [⟨b.stem, b.target, b.items, (s.die dk).binSeq, b.tags⟩] } ∧
      Quiet s t

/-- The account of a launch at its home die (R369 to R371): the first failure report that arrives fixes the record and tells every
named die; a named die ends the launch, or keeps the notice; once drained, the record is written, then the signal, and the launch
is closed. -/
def Obligations.LaunchAccount : Prop :=
  (∀ (s : State) (r : Report) (hk : Nat) (h : Home), s.reports = [r] → s.arg.sub = 0 → r.home = s.arg.key →
    s.homeFind r.home r.lid = some (hk, h) → h.taken = true → h.fail = none →
    ∃ t, exec .launchFailureReport s = .next t ∧ t.reports = [] ∧
      Store.find hk t.homes = some { h with fail := r.fail, notices := pktDies h.packet } ∧ Quiet s t) ∧
  (∀ (s : State) (hk : Nat) (h : Home),
    let dk := s.arg.key
    let lid := BitVec.ofNat 32 s.arg.num
    (s.homes.find? fun h => h.2.lid = lid && h.2.notices.contains dk) = some (hk, h) →
    (s.activeLaunch dk lid h.dk = none → h.quiet.contains dk = false →
      ∃ t, exec .launchEndNotice s = .next t ∧ (t.die dk).notices = (s.die dk).notices ++ [(lid, h.dk)] ∧ Quiet s t) ∧
    ∀ lk l, s.activeLaunch dk lid h.dk = some (lk, l) → Store.find lk s.launches = some l → l.ended = false →
      ∃ t l', exec .launchEndNotice s = .next t ∧ Store.find lk t.launches = some l' ∧ l'.ended = true ∧ l'.binq = []) ∧
  ∀ (s : State) (hk : Nat) (h : Home) (p q : Piece),
    let dk := s.arg.key
    let asn := bits (pkt h.packet 0x20 4) 11 0
    let s1 := (s.completeWrite h (pkt h.packet 0x28 8) (recordOf h)).2
    Settled s → s.homeFind dk (BitVec.ofNat 32 s.arg.num) = some (hk, h) → s.drained h = true →
    s.plainAccess h.dk asn (pkt h.packet 0x28 8) 32 .write none = .ok [p] →
    s1.plainAccess h.dk asn (pkt h.packet 0x30 8) 4 .write none = .ok [q] →
    p.off = 0 → p.len = 32 → p.x.ga % 32 = 0 → p.x.home ≠ 4 → gaRegion p.x.ga = 0 → p.x.mark = none → OnePiece q 4 →
    (q.x.ga + 4 ≤ p.x.ga ∨ p.x.ga + 32 ≤ q.x.ga) →
    ∃ t, exec .launchCompletion s = .next t ∧ t.bytes p.x.ga 32 = recordOf h ∧
      t.bytes q.x.ga 4 = bytesLE (pkt h.packet 0x38 4) 4 ∧ SameBytes s t [(p.x.ga, 32), (q.x.ga, 4)] ∧
      ∀ e ∈ t.homes, ¬ (e.2.dk = dk ∧ e.2.lid = h.lid)

/-- The clauses of a run (R373, Table 11-7): a conditional or while clause follows the clause that its test names; a copy clause
starts, and copies its bytes unit by unit, with the last of which the run goes on; a launch clause makes the launch active and waits
for it; a collective clause joins an instance and waits for it; a clause whose launch or collective has ended without a failure goes
on. -/
def Obligations.GraphClauses : Prop :=
  (∀ (i : Instr) (s s1 : State) (k : Nat) (r : Run) (b : List Byte) (qs : List Piece),
    let dk := s.arg.key
    let s2 := (s1.mark qs).syncFor (dieAgent dk) 5 ((s1.mark qs).pieceTags qs)
    let test := clauseTest (bits (pkt b 0x14 4) 1 0) (natLE (s2.plainRead dk qs)) (pkt b 0x10 4)
    let n := if test then pkt b 0x18 4 else pkt b 0x04 4
    (i = .clauseConditional ∧ k = 4) ∨ (i = .clauseWhile ∧ k = 5) → ClauseAt s k r b s1 →
    s1.plainAccess dk r.asn (pkt b 0x08 8) 4 .read r.fail = .ok qs → (test = true → pkt b 0x18 4 < r.count) →
    (test = false → (pkt b 0x14 4).testBit 2 = false) → n ≠ 0xFFFFFFFF →
    ∃ t, exec i s = .next t ∧ t.runOf dk r.handle =
      some { r with
        phase := 0, copy := [], cur := n, last := BitVec.ofNat 32 r.cur, fail := none, ended := none, since := s.cycle } ∧
      (InOrder s → t.g = s.g)) ∧
  (∀ (s s1 : State) (r : Run) (b : List Byte) (ps : List Piece),
    let dk := s.arg.key
    let p := s1.planRows (r.request b) { deadTeam with dk := dk }
    ClauseAt s 2 r b s1 → bits (pkt b 0x08 8) 59 56 = 0 → bits (pkt b 0x10 8) 59 56 = 0 → p.res = .ok ps → p.units ≠ [] →
    ∃ (t : State) (c : CopyReq), exec .clauseCopy s = .next t ∧
      t.runOf dk r.handle = some { r with phase := 2, on := pkt b 0x04 4, fail := none, copy := [c] } ∧ c.units = p.units ∧
      c.started = true ∧ c.dst = (p.units.filter fun u => u.home != 4).map fun u => (u.ga, u.len)) ∧
  (∀ (s : State) (r : Run) (c : CopyReq) (u : CopyUnit) (src : Nat),
    let dk := s.arg.key
    s.runOf dk (BitVec.ofNat 32 s.arg.sub) = some r → r.loaded = true → r.phase = 2 → r.copy = [c] → c.units = [u] →
    c.taken = [] → u.els = [] → u.src = [(0, src, u.len)] → u.home ≠ 4 → InRam u.ga u.len → InRam src u.len → s.arg.num = 0 →
    (∃ ps, s.unitRes dk c u = .ok ps) → r.on ≠ 0xFFFFFFFF →
    ∃ t, exec .clauseCopy s = .next t ∧ t.bytes u.ga u.len = s.bytes src u.len ∧ SameBytes s t ((u.ga, u.len) :: s.doubled) ∧
      t.runOf dk r.handle = some { r with
        phase := 0, copy := [], cur := r.on, last := BitVec.ofNat 32 r.cur, fail := none, ended := none, since := s.cycle }) ∧
  (∀ (s s1 : State) (r : Run) (b : List Byte) (qs : List Piece) (desc : List Byte),
    let dk := s.arg.key
    let s2 := s1.mark qs
    let p := s2.plainRead dk qs
    let lid := BitVec.ofNat 32 (pkt p 0x18 4)
    ClauseAt s 1 r b s1 → r.ended = none → s1.plainAccess dk r.asn (pkt b 0x08 8) 128 .read r.fail = .ok qs →
    pktDies p = [s2.pktSelf dk] → s2.verdict dk p r.fail = .take desc → (s2.dev dk 0x0800).getLsbD 31 = true →
    s2.activeLaunch dk lid (s2.pktHome dk p) = none → s2.shareless dk lid (s2.pktHome dk p) = false → (s2.die dk).notices = [] → (s2.die dk).launches.length < 32 →
    ∃ (t : State) (lk : Nat) (l : Launch), exec .clauseLaunch s = .next t ∧ Store.find lk t.launches = some l ∧ l.dk = dk ∧
      l.lid = lid ∧ l.packet = p ∧ lk ∈ (t.die dk).launches ∧
      t.runOf dk r.handle = some { r with phase := 1, on := pkt p 0x18 4, fail := none }) ∧
  (∀ (s s1 : State) (r : Run) (b : List Byte) (tag : Word) (places : List Nat),
    let dk := s.arg.key
    let at_ := s1.absPlace dk (pkt b 0x24 4)
    let d : DWord := BitVec.ofNat 64 (pkt b 0x08 8)
    let a : DWord := BitVec.ofNat 64 (pkt b 0x10 8)
    let ctl : DWord := BitVec.ofNat 64 (pkt b 0x18 8)
    ClauseAt s 3 r b s1 → r.ended = none → r.phase = 0 → badAbsPlace (pkt b 0x24 4) = false → at_.1 = dk →
    s1.collTraps dk at_.2 (pkt b 0x20 4) d a ctl = [] → s1.collTable dk at_.2 (collGid ctl) = some (tag, places) →
    s1.colls = [] → Store.find (collGid ctl) (s1.core (coreKey dk at_.2)).counts = none →
    ∃ (t : State) (x : Coll), exec .clauseCollective s = .next t ∧ Store.find s1.fresh t.colls = some x ∧ x.gid = collGid ctl ∧
      x.members.length = 1 ∧ t.runOf dk r.handle = some { r with phase := 3, on := s1.fresh }) ∧
  ∀ (i : Instr) (s s1 : State) (k : Nat) (r : Run) (b : List Byte) (c e : Nat),
    (i = .clauseLaunch ∧ k = 1) ∨ (i = .clauseCollective ∧ k = 3) → ClauseAt s k r b s1 → r.ended = some (false, c, e) →
    pkt b 0x04 4 ≠ 0xFFFFFFFF →
    ∃ t, exec i s = .next t ∧ t.runOf s.arg.key r.handle =
      some { r with
        phase := 0, copy := [], cur := pkt b 0x04 4, last := BitVec.ofNat 32 r.cur, fail := none, ended := none, since := s.cycle }

/-- Copy requests (R236, R238, R241, R386): the next request of a queue that meets nothing in its way starts, after the accesses of its
group before it (R243), owning its destination; the key packet of a `cpyk` whose key holds starts it likewise, another voids the queue,
whose requests that have not started will complete without being performed (R245); the oldest request, with one range left to be
copied and its queue's turn at the port (R385), completes: the bytes stand at the destination, its granule is full where FULL asks for
it, the count advances. -/
def Obligations.CopyProgress : Prop :=
  (∀ (s : State) (n : Nat) (r : CopyReq) (ps : List Piece),
    let tid := s.arg.key
    let q := s.arg.sub
    let s0 := s.issuedBy r.gk r.tag.ord
    let p := if r.kind = .cpyx then s0.planElems r (s.team tid) else s0.planRows r (s.team tid)
    q < 16 → (s.queue tid q).nextStart = some (n, r) → s.served tid = true → r.skip = false →
    s.chainOk tid r = true → r.page = none → r.kind ≠ .cpyk → p.res = .ok ps →
    ∃ (t : State) (r' : CopyReq), exec .copyRequestStart s = .next t ∧ (t.queue tid q).reqs[n]? = some r' ∧
      r' = { r with
        started := true, since := s.cycle, units := p.units, taken := r'.taken,
        dst := (p.units.filter fun u => u.home != 4).map fun u => (u.ga, u.len) } ∧
      SameBytes s t ((p.marks.filterMap fun m => m.x.mark.map fun e => (e.1, 8)) ++ s.unsettled) ∧
      (Settled s → s0 = s ∧ ((∀ m ∈ p.marks, m.x.mark = none) → t.mem = s.mem ∧ t.g = s.g ∧ t.groups = s.groups))) ∧
  (∀ (s : State) (n : Nat) (r : CopyReq),
    let tid := s.arg.key
    let q := s.arg.sub
    let pkg := bits r.e.toNat 29 20
    let dk := (s.team tid).dk
    q < 16 → (s.queue tid q).nextStart = some (n, r) → s.served tid = true → r.skip = false → r.page = none → r.kind = .cpyk →
    r.sent = true → (s.pkg pkg).dead = false → s.reachable dk pkg = true → s.hears (4 * pkg) (dk / 4) = true →
    s.srcOk (4 * pkg) (dk / 4) = true →
    (∀ base ps, s.keyCheck r (s.team tid) = .ok base → (s.planKey r (s.team tid) base).res = .ok ps →
      ∃ (t : State) (r' : CopyReq), exec .keyCopyPacket s = .next t ∧ (t.queue tid q).reqs[n]? = some r' ∧
        r' = { r with
          started := true, since := s.cycle, units := (s.planKey r (s.team tid) base).units, taken := r'.taken,
          dst := ((s.planKey r (s.team tid) base).units.filter fun u => u.home != 4).map fun u => (u.ga, u.len) }) ∧
    ∀ c rest, s.keyCheck r (s.team tid) = .error c → n = 0 → (s.queue tid q).reqs = r :: rest →
      ∃ t, exec .keyCopyPacket s = .next t ∧ (t.queue tid q).void = true ∧
        (t.queue tid q).reqs = rest.map (fun x => if x.started then x else { x with skip := true }) ∧ t.mem = s.mem ∧
        (t.group r.gk).faults =
          (s.group r.gk).faults ++ [⟨r.tag.num, r.tag.index, 5, c, none, q, 0, r.e, true⟩]) ∧
  ∀ (s : State) (r : CopyReq) (rest : List CopyReq) (c : CopyUnit) (src : Nat),
    let tid := s.arg.key
    let q := s.arg.sub
    q < 16 → (s.queue tid q).reqs = r :: rest → s.served tid = true → r.skip = false → r.started = true → r.units = [c] →
    r.taken = [] → c.els = [] → c.src = [(0, src, c.len)] → c.home ≠ 4 → InRam c.ga c.len → InRam src c.len →
    s.portMine tid q 0 = true → c.len ≤ s.segmentLeft tid q → (∃ ps, s.unitRes (s.team tid).dk r c = .ok ps) →
    ∃ t, exec .copyRequestComplete s = .next t ∧ t.bytes c.ga c.len = s.bytes src c.len ∧
      SameBytes s t ((c.ga, c.len) :: s.doubled) ∧
      (ctlFull r.ctl = true → c.len = 16 → c.ga % 16 = 0 → (c.ga, c.len) ∈ r.dst → t.isFull (c.ga / 16) = true) ∧
      (t.queue tid q).reqs = rest ∧ (t.queue tid q).count = (s.queue tid q).count + 1

/-- Messages (R390 to R393): an announcement is accepted for the oldest receive that matches, else into an overflow entry, else
refused; the reply lets the sender go on, or the announcement is repeated, after MSG.RETRY.GAP cycles and up to MSG.RETRY.COUNT
times, after which the `send` faults with class 6 code 3; a data packet, here of a whole message to core memory, places its bytes
and completes the receive.

Collectives (R398, R399): members that have issued read their sources in chunks of up to 256 bytes, a node of the tree is formed from
its children's chunks, and once every member has issued the chunks of the result go to each member, the last of which completes its
issue; once performed, a member's drain report, then its notice, are recorded, and the instance is gone with the last notice. -/
def Obligations.MessageSteps : Prop :=
  ((∀ (s : State) (m : Msg),
    let key := s.arg.key
    let ck := coreKey m.dk m.dst
    let pick := (s.core ck).recvs.find? fun r => r.msg.isNone && m.fits r.dk r.core r.lk r.src r.matchw
    Store.find key s.msgs = some m → m.state = .announce → m.page = none → s.msgHeld key m = false → m.places.isSome = true →
    (∀ r, pick = some r → s.recvOf ck r.handle = some r →
      ∃ t, exec .messageAnnouncement s = .next t ∧ Store.find key t.msgs = some { m with state := .toRecv r.handle } ∧
        t.recvOf ck r.handle = some { r with
          msg := some key, mtag := m.mtag, from_ := relWord m.src m.dst, len := m.len, complete := m.len == 0 } ∧ Quiet s t) ∧
    (pick = none → m.len ≤ 4096 → (s.overflow ck).length < 64 →
      ∃ t, exec .messageAnnouncement s = .next t ∧ Store.find key t.msgs = some { m with state := .toOverflow } ∧
        (t.core ck).overflow = (s.overflow ck).map (·.1) ++ [key] ∧ Quiet s t) ∧
    (pick = none → 4096 < m.len ∨ 64 ≤ (s.overflow ck).length →
      exec .messageAnnouncement s = .next { s with msgs := Store.ins key { m with state := .refused } s.msgs })) ∧
  (∀ (s : State) (m : Msg),
    let key := s.arg.key
    Store.find key s.msgs = some m →
    (∀ h, m.state = .toRecv h → m.go = false →
      ∃ t, exec .announcementReply s = .next t ∧ t.mem = s.mem ∧
        (0 < m.len → Store.find key t.msgs = some { m with go := true, since := s.cycle, sent := false }) ∧
        (m.len = 0 → m.held = [] → (∀ r, s.recvOf (coreKey m.dk m.dst) h = some r → r.complete = true) →
          Store.find key t.msgs = none)) ∧
    (m.state = .refused → m.tries < s.retryCount m.dk →
      exec .announcementReply s = .next { s with msgs := Store.ins key { m with state := .retry, since := s.cycle } s.msgs }) ∧
    (m.state = .refused → s.retryCount m.dk ≤ m.tries →
      ∃ t, exec .announcementReply s = .next t ∧ Store.find key t.msgs = none ∧
        (t.group m.gk).faults =
          (s.group m.gk).faults ++ [⟨m.tag.num, m.tag.index, 6, 3, none, 0, 0, m.tag.pc, false⟩] ∧
        (t.dev m.dk 0x0314).toNat = ((s.dev m.dk 0x0314).toNat + 1) % 2 ^ 32) ∧
    (m.state = .retry → s.retryGap m.dk ≤ s.cycle - m.since →
      exec .messageRetry s = .next { s with msgs := Store.ins key { m with state := .announce, tries := m.tries + 1 } s.msgs }) ∧
    (m.state = .retry → s.cycle - m.since < s.retryGap m.dk → exec .messageRetry s = .next s)) ∧
  ∀ (s : State) (m : Msg) (r : Recv) (h : Word) (src : Nat),
    let key := s.arg.key
    let ck := coreKey m.dk m.dst
    let t0 := s.team (r.gk / 16)
    let dst := coreAddr t0.dk t0.core (t0.base + bits r.buf.toNat 31 0)
    s.arg.sub = 0 → Store.find key s.msgs = some m → m.go = true → m.state = .toRecv h → m.got = [] → m.held = [] → 0 < m.len →
    m.len ≤ 256 → m.scm = false → s.coreOwned (r.gk / 16) (bits r.buf.toNat 31 0) m.len = false →
    s.teamBad (r.gk / 16) (bits r.buf.toNat 31 0) m.len = none → (∃ ps, s.packetRes m 0 = .ok ps) → Settled s →
    m.places = some [(0, src, m.len)] → InRam src m.len → s.recvOf ck h = some r →
    r.page = none → r.failed = false → r.placed = [] → matchDcm r.matchw = true → m.len ≤ r.cap → t0.status = .resident →
    InRam dst m.len →
    ∃ t, exec .messageDataPacket s = .next t ∧ t.bytes dst m.len = s.bytes src m.len ∧ SameBytes s t [(dst, m.len)] ∧
      t.recvOf ck h = some { r with placed := [0], complete := true } ∧ Store.find key t.msgs = none) ∧
  ((∀ (s : State) (x : Coll) (m0 : Member) (ms : List Member),
    let key := s.arg.key
    let act := x.acts[s.arg.sub]?
    let ready := x.todo.isSome = true ∨ x.members.length < x.places.length
    Store.find key s.colls = some x → x.performed = false → x.members = m0 :: ms → (∀ m ∈ x.members, m.page = none) →
    s.collClash x m0.dk = none → x.disagree = false → s.collLost x = false → s.collMute x = false →
    (x.todo = none → x.members.length = x.places.length →
      let offs := resultOffs m0.oper m0.ctl x.places.length
      offs ≠ [] →
      exec .collectivePacket s = .next (s.setColl key { x with
        todo := some ((List.range x.places.length).flatMap fun r => offs.map fun o => (r, o)), since := s.cycle })) ∧
    (∀ (m : Member) (r off : Nat) (p : Piece), ready → act = some (.leaf r off) → x.members.find? (fun m => m.rank = r) = some m →
      s.collXlat m (m.a + BitVec.ofNat 64 off) (min 256 (collSrc m.oper m.ctl - off)) .read = .ok [p] → InOrder s →
      p.x.mark = none → p.x.home ≠ 4 → InRam p.x.ga p.len →
      exec .collectivePacket s = .next (s.setColl key { x with
        nodes := x.nodes ++ [((0, r, off), s.bytes p.x.ga p.len)], since := s.cycle })) ∧
    (∀ (l n off : Nat) (bs : List Byte), ready → act = some (.form l n off) → x.node (l - 1) (2 * n) off = some bs →
      exec .collectivePacket s = .next (s.setColl key { x with
        nodes := x.nodes ++ [((l, n, off), formNode (collNode (collType m0.ctl) (collOp m0.ctl)) (collBytes (collType m0.ctl)) bs
          (x.node (l - 1) (2 * n + 1) off))], since := s.cycle })) ∧
    ∀ (m : Member) (r off gk : Nat) (bs : List Byte) (q : Piece),
      let k := x.resultAt m0.oper m0.ctl off
      let ts := (x.todo.getD []).filter (· != (r, off))
      ready → act = some (.write r off) → x.members.find? (fun m => m.rank = r) = some m → m.gk = some gk →
      (s.group gk).status ≠ .ended → x.node k.1 k.2.1 k.2.2 = some bs →
      s.collXlat m (m.d + BitVec.ofNat 64 off) bs.length .write = .ok [q] → s.engPoison [q] = none → q.len = bs.length →
      q.x.home ≠ 4 → InRam q.x.ga bs.length → q.x.mark = none → Settled s →
      ∃ t, exec .collectivePacket s = .next t ∧ t.bytes q.x.ga bs.length = bs ∧ SameBytes s t [(q.x.ga, bs.length)] ∧
        Store.find key t.colls = some { x with
          todo := some ts, performed := ts.isEmpty, nodes := if ts.isEmpty then [] else x.nodes, since := s.cycle } ∧
        (t.group gk).colls = if ts.any (fun e => e.1 == r) then (s.group gk).colls else
          (s.group gk).colls.map fun c => if c.ci = key then { c with done := true, fault := none } else c) ∧
  ∀ (s : State) (x : Coll),
    let key := s.arg.key
    let one := fun (f : Member → Member) => x.members.map fun m => if m.rank = s.arg.sub then f m else m
    let ds := one fun m => { m with drained := true }
    let ns := one fun m => { m with noticed := true }
    Store.find key s.colls = some x → x.performed = true →
    ((∃ m ∈ ds, m.noticed = false) →
      exec .collectiveDrainReport s = .next { s with colls := Store.ins key { x with members := ds } s.colls }) ∧
    ((∀ m ∈ x.members, m.drained = true) →
      ((∃ m ∈ ns, m.noticed = false) →
        exec .collectiveDrainedNotice s = .next { s with colls := Store.ins key { x with members := ns } s.colls }) ∧
      (ns.length = x.places.length → (∀ m ∈ ns, m.noticed = true) →
        exec .collectiveDrainedNotice s = .next { s with colls := Store.erase key s.colls })))

/-- Page requests and translations of the host (R339, R340, R343, R344): a request that waited for room is written to the ring and
PROD advances with a release at die scope; PRQ.DONE lets what waited for it go on, an unknown number is ignored; a completion of the host that grants access is
cached, a response to a Page Request Group lets the accesses go on or fault with code 2 or 3, an invalidation drops the pages of its
range, and its completion follows once no engine has an access to host memory left to make. -/
def Obligations.PageSteps : Prop :=
  (∀ (s : State) (p : PageReq),
    let dk := s.arg.key
    let base := s.ringBase dk
    let prod := s.rdN base 4
    let at_ := base + 128 + 32 * (prod % s.ringCount dk)
    (s.die dk).pages.find? (fun p => !p.posted) = some p → s.ringRoom dk = true →
    ∃ t, exec .pageRequestPost s = .next t ∧
      t.bytes at_ 32 = bytesLE (p.va % 2 ^ 56) 8 ++ bytesLE (p.asn % 4096 + p.kind % 4 * 2 ^ 12 + p.src % 4 * 2 ^ 14) 4 ++
        bytesLE p.req 4 ++ bytesLE (s.locWord dk p.core 0 0).toNat 4 ++ bytesLE 0 12 ∧
      t.rdN base 4 = (prod + 1) % 2 ^ 32 ∧ SameBytes s t [(base, 4), (at_, 32)] ∧
      (dieAgent dk).release 2 ∈ t.tagsAt base 4 ∧
      (∀ q ∈ (t.die dk).pages, q.req = p.req → q.posted = true) ∧ t.g = s.g ∧ t.groups = s.groups) ∧
  (∀ s : State,
    let dk := s.arg.key
    let req := s.arg.val.toNat % 2 ^ 32
    ((∀ p ∈ (s.die dk).pages, p.req = req → p.posted = false) → exec .prqDone s = .next s) ∧
    (∀ p ∈ (s.die dk).pages, p.req = req → p.posted = true → s.g.dk = dk →
      ∃ t, exec .prqDone s = .next t ∧ (∀ q ∈ (t.die dk).pages, q.req ≠ req) ∧ t.mem = s.mem ∧
        (s.g.status = .paged req → t.g = { s.g with status := .returning }) ∧
        (s.g.status = .paging req → t.g = { s.g with status := .live, wait := .none }))) ∧
  (∀ s : State,
    let p := s.arg.key
    let key := s.arg.sub
    let asked := (s.pkg p).ats.any fun a => a.1 == key
    (asked = false → exec .atsCompletion s = .next s) ∧
    (asked = true → s.arg.num = 0 ∨ (s.arg.num = 1 ∧ key < 2 ^ 64) →
      ∃ t, exec .atsCompletion s = .next t ∧ Store.find (key % 2 ^ 64) (t.pkg p).atc = some (s.arg.val.toNat, s.arg.num == 0) ∧
        (t.pkg p).ats = ((s.pkg p).ats.filter fun a => a.1 != key) ∧ t.mem = s.mem)) ∧
  (∀ s : State,
    let p := s.arg.key
    let key := s.arg.sub
    let asked := (s.pkg p).pri.any fun a => a.1 == key
    (asked = false → exec .prgResponse s = .next s) ∧
    (asked = true → s.g.dk / 4 = p → s.g.status = .paged (2 ^ 32 + key) →
      ∃ t, exec .prgResponse s = .next t ∧ t.mem = s.mem ∧ (t.pkg p).pri = ((s.pkg p).pri.filter fun a => a.1 != key) ∧
        t.g = { s.g with
          status := .returning
          hostFail := if s.arg.num = 0 then s.g.hostFail else some (key, if s.arg.num = 1 then 2 else 3) })) ∧
  ∀ s : State,
    let p := s.arg.key
    let a := s.arg.val.toNat % 2 ^ 20 * 2 ^ 44 + s.arg.sub
    ∃ t, exec .atsInvalidation s = .next t ∧ Quiet s t ∧
      (s.hostInUse p = false → (t.pkg p).invs = 0 ∧
        (t.pkg p).out = List.replicate ((s.pkg p).invs + 1) (6, []) ++ (s.pkg p).out) ∧
      (s.hostInUse p = true → (t.pkg p).invs = (s.pkg p).invs + 1 ∧ (t.pkg p).out = (s.pkg p).out) ∧
      ∀ e, e ∈ (t.pkg p).atc ↔ e ∈ (s.pkg p).atc ∧ ¬ (a ≤ e.1 ∧ e.1 < a + s.arg.num)

/-- The host's requests to BAR0 (R438, R439) and the storage service (R436): a read is completed with the bytes as the gallery holds
them, a write stores its bytes, an AtomicOp returns the old value; a request outside package DRAM, or that the TDI does not serve,
is an Unsupported Request; a read waits for the posted writes before it that lack Relaxed Ordering (R307). A storage request is
performed, its STATUS written, the ring's count advanced.

The trusted interface (R441, R442, R444), where no die of the package refused its image: locked, run, error and back to unlocked;
a key of a stream is held while unlocked, and is an error while locked; a measurements response burns a leaf before it leaves, and once every leaf is spent an error is
answered. The layout of the response is the model's choice (log entry 6). -/
def Obligations.HostSteps : Prop :=
  ((∀ s : State,
    let p := s.arg.key
    let n := s.arg.num
    let ps := s.physPlaces (barAddr p s.arg.sub) n
    let served := s.tdiServes p s.arg.flag (bits s.arg.val.toNat 11 8)
    ((∃ w ∈ (s.pkg p).posted, w.relaxed = false) → exec .hostRead s = .next s) ∧
    ((s.pkg p).dead = false → (∀ w ∈ (s.pkg p).posted, w.relaxed = true) →
    (served = false ∨ barOk p s.arg.sub n = false →
      exec .hostRead s = .next (s.setPkg p { s.pkg p with out := (1, []) :: (s.pkg p).out })) ∧
    (served = true → barOk p s.arg.sub n = true → s.arg.val.getLsbD 0 = false → s.hostWaits p ps = false → s.stuckIn ps false = false →
      (∀ l ∈ linesIn ps, s.isPoison l = false) → Settled s →
      ∃ t, exec .hostRead s = .next t ∧ (t.pkg p).out = (0, s.bytesIn ps) :: (s.pkg p).out ∧ Quiet s t))) ∧
  (∀ (s : State) (h ga : Nat),
    let p := s.arg.key
    let bs := s.arg.data
    let ps := [(h, ga, bs.length)]
    s.physPlaces (barAddr p s.arg.sub) bs.length = ps → h ≠ 4 →
    (s.pkg p).dead = false → (∀ w ∈ (s.pkg p).posted, w.relaxed = true) → s.tdiServes p s.arg.flag (bits s.arg.num 11 8) = true →
    barOk p s.arg.sub bs.length = true → s.arg.num.testBit 0 = false → s.arg.num.testBit 1 = false →
    s.hostWaits p ps = false → s.stuckIn ps true = false →
    ((∀ l ∈ linesIn ps, s.walled p l = false ∧ s.keepsPoison ps l = false) → InRam ga bs.length → Settled s →
      ∃ t, exec .hostWrite s = .next t ∧ t.bytes ga bs.length = bs ∧ SameBytes s t [(ga, bs.length)] ∧ t.g = s.g ∧
        ∀ l ∈ linesIn ps, t.dirAt l = Dir.none) ∧
    ((∃ l ∈ linesIn ps, s.walled p l = true ∨ s.keepsPoison ps l = true) →
      exec .hostWrite s = .next (s.setPkg p { s.pkg p with aer := (s.pkg p).aer + 1 }))) ∧
  (∀ (s : State) (h ga : Nat),
    let p := s.arg.key
    let o := s.arg.sub
    let w := hostAtomWidth s.arg.num s.arg.data.length
    let ps := [(h, ga, w)]
    s.physPlaces (barAddr p o) w = ps → h ≠ 4 →
    (s.pkg p).dead = false → (∀ w ∈ (s.pkg p).posted, w.relaxed = true) → Settled s →
    s.tdiServes p s.arg.flag (bits s.arg.val.toNat 11 8) = true → w ≠ 0 → o % w = 0 → barOk p o w = true →
    s.hostWaits p ps = false → s.stuckIn ps true = false → (∀ l ∈ linesIn ps, s.isPoison l = false ∧ s.walled p l = false) →
    InRam ga w →
    ∃ t, exec .hostAtomicop s = .next t ∧ (t.pkg p).out = (0, s.bytes ga w) :: (s.pkg p).out ∧
      SameBytes s t [(ga, w)] ∧
      (s.arg.num = 0 → t.rdN ga w = (s.rdN ga w + natLE s.arg.data) % 2 ^ (8 * w)) ∧
      (s.arg.num = 1 → t.bytes ga w = s.arg.data) ∧
      (s.arg.num = 2 → t.bytes ga w = if s.arg.data.take w = s.bytes ga w then s.arg.data.drop w else s.bytes ga w)) ∧
  ∀ s : State,
    let p := s.arg.key
    let st := s.arg.val.toNat
    let base := bits (s.dev (4 * p) 0x0908).toNat 53 12 * 4096
    let cons := s.rdN (base + 64) 4
    let at_ := base + 128 + 64 * (cons % s.storCount p)
    let r := s.bytes at_ 64
    let dst := pkt r 0x18 8
    let n := pkt r 0x20 4
    let here := fun (a k : Nat) => k = 0 ∨ s.physPlaces a k = [(0, a, k)]
    let free := fun (a k : Nat) => here a k ∧ s.serviceWaits p true a k = false ∧
      ∀ l ∈ linesOf a k, s.walled p l = false ∧ s.isPoison l = false
    Settled s → here base 4 → free (at_ + 4) 4 → free (base + 64) 4 → here at_ 64 → s.serviceWaits p true at_ 64 = false →
    (pkt r 0 4 = 1 → free dst n) →
    (pkt r 0 4 = 2 → here dst n ∧ s.serviceWaits p false dst n = false ∧ ∀ l ∈ linesOf dst n, s.isPoison l = false) →
    s.storCount p ≠ 0 → tableOk base = true → s.rdN base 4 ≠ cons → (s.pkg p).dead = false → badStore436 r = false →
    InRam at_ 64 → InRam base 128 → pkt r 0 4 = 2 ∨ (pkt r 0 4 = 1 ∧ n ≤ s.arg.data.length ∧ InRam dst n ∧
      (dst + n ≤ base + 64 ∨ base + 68 ≤ dst) ∧ (dst + n ≤ at_ + 4 ∨ at_ + 8 ≤ dst)) →
    ∃ t, exec .storageRequest s = .next t ∧ t.rdN (at_ + 4) 4 = (if st = 1 ∨ st = 2 then st else 1) ∧
      t.rdN (base + 64) 4 = (cons + 1) % 2 ^ 32 ∧
      (pkt r 0 4 = 1 → t.bytes dst n = s.arg.data.take n) ∧
      SameBytes s t [(at_ + 4, 4), (base + 64, 4), (dst, if pkt r 0 4 = 1 then n else 0)]) ∧
  (∀ s : State,
    let p := s.arg.key
    let k := s.pkg p
    (s.heldError p = false →
      (s.arg.num = 0 → k.tdi = 0 → exec .tdispMessage s = .next (s.setPkg p { k with tdi := 1, bound := s.arg.sub })) ∧
      (s.arg.num = 1 → k.tdi = 1 → exec .tdispMessage s = .next (s.setPkg p { k with tdi := 2 })) ∧
      (2 ≤ s.arg.num → k.tdi = 1 ∨ k.tdi = 2 → exec .tdispMessage s = .next (s.setPkg p { k with tdi := 3 })) ∧
      exec .stopInterface s = .next (s.setPkg p { k with tdi := 0 })) ∧
    (s.heldError p = true → exec .tdispMessage s = .next s ∧ exec .stopInterface s = .next s) ∧
    (k.tdi = 0 → s.arg.sub ≤ 8 → s.arg.data.length = 32 →
      exec .ideKm s = .next (s.setPkg p { k with ide := Store.ins s.arg.sub s.arg.data k.ide })) ∧
    (k.tdi = 1 ∨ k.tdi = 2 → exec .ideKm s = .next (s.setPkg p { k with tdi := 3 })) ∧
    (k.leaf < 2 ^ 20 → ∃ t sig, exec .spdmMeasurements s = .next t ∧ (t.pkg p).leaf = k.leaf + 1 ∧
      (t.pkg p).out = (4, (diesOf p).flatMap s.firmware ++ bytesLE k.rollback 8 ++
        (diesOf p).flatMap (fun dk => bytesLE (s.sysReg dk 0x700).toNat 8) ++ bytesLE k.tdi 1 ++ bytesLE k.leaf 4 ++ sig) :: k.out ∧
      Quiet s t) ∧
    (2 ^ 20 ≤ k.leaf → exec .spdmMeasurements s = .next (s.setPkg p { k with out := (5, []) :: k.out })))

/-- Migration of a page (R345, R346, R427): GO on a valid request starts it, on another sets RESULT 3; then every copy of the page is
dropped, every byte copied, the leaf remapped unless it changed (RESULT 2), the page's translations dropped, RESULT 1 set; with the
destination's cell declared dead it ends with RESULT 4, and without power, or declared dead itself, it stands still.

Moves of L2 buckets (R321 to R323): a write to a BUCKET entry asks for a move to its slice, one to a slice that the fuses mark bad
sets REB.STAT.BADW; the rebalancer, at the end of its period, asks likewise where a slice is too busy; a move at the head of the
queue drops the bucket's copies, reassigns the bucket and is counted, one of a bucket that holds a line under a migration block leads back to Idle. -/
def Obligations.PageMoves : Prop :=
  ((∀ s : State,
    let dk := s.arg.key
    let v := s.arg.val.toNat
    let src := bits (s.dev dk 0x0040).toNat 53 16 * 65536
    let dst := bits (s.dev dk 0x0048).toNat 53 16 * 65536
    let pte := bits (s.dev dk 0x0050).toNat 53 4 * 16
    let n := if bits v 1 1 = 1 then 2 ^ 28 else 2 ^ 16
    let ok := tableOk src = true ∧ tableOk dst = true ∧ gaDie src = dk ∧ src % n = 0 ∧ dst % n = 0 ∧ tableOk (src + n - 1) = true ∧
      tableOk (dst + n - 1) = true ∧ s.migLeafOk pte src n = true ∧ s.reachable dk (gaPkg dst) = true
    (s.die dk).mig = none → v % 2 = 1 →
    (ok → ∃ t, exec .migGo s = .next t ∧ Quiet s t ∧
      (t.die dk).mig = some ⟨1, src, dst, pte, n, BitVec.ofNat 64 (s.rdN pte 8), s.cycle⟩) ∧
    (¬ ok → ∃ t, exec .migGo s = .next t ∧ Quiet s t ∧ (t.die dk).mig = none ∧ t.dev dk 0x005C = 48)) ∧
  (∀ (s : State) (m : Migration),
    let dk := s.arg.key
    (s.die dk).mig = some m → (s.pkg (dk / 4)).dead = false → s.declared dk (gaPkg m.dst) = false →
    s.declared (gaDie m.dst) (dk / 4) = false →
    (m.phase = 1 → s.engineIn m.src m.bytes = false → (∀ l ∈ s.copiedIn m, s.recallStuck l true = false) →
      ∃ t, exec .migrationRecall s = .next t ∧ (t.die dk).mig = some { m with phase := 2 } ∧
        ∀ l, m.src ≤ l * 128 → l * 128 < m.src + m.bytes → t.dirAt l = Dir.none) ∧
    (m.phase = 2 → Memory.wf s.mem = true →
      ∃ t, exec .migrationCopy s = .next t ∧ (t.die dk).mig = some { m with phase := 3 } ∧
        (∀ off, off < m.bytes → t.byte (m.dst + off) = s.byte (m.src + off)) ∧ SameBytes s t [(m.dst, m.bytes)]) ∧
    (m.phase = 3 →
      let now : DWord := BitVec.ofNat 64 (s.rdN m.pte 8)
      ((now ^^^ m.old) &&& ~~~0x60#64 = 0#64 →
        ∃ t, exec .migrationRemap s = .next t ∧ (t.die dk).mig = some { m with phase := 4, since := s.cycle } ∧ SameBytes s t [(m.pte, 8)] ∧
          t.rdN m.pte 8 = (bits now.toNat 63 54 * 2 ^ 54 + m.dst + bits now.toNat 15 0) % 2 ^ 64) ∧
      ((now ^^^ m.old) &&& ~~~0x60#64 ≠ 0#64 →
        ∃ t, exec .migrationRemap s = .next t ∧ (t.die dk).mig = none ∧ t.mem = s.mem ∧ t.dev dk 0x005C = 32)) ∧
    (m.phase = 4 → s.migInUse m = true → exec .migrationForward s = .next s) ∧
    (m.phase = 4 → s.migInUse m = false →
      ∃ t, exec .migrationForward s = .next t ∧ (t.die dk).mig = some { m with phase := 5 } ∧ SameBytes s t s.doubled ∧
        ∀ l ∈ t.tlb, ¬ (bits l.lo.toNat 53 16 * 65536 = m.src ∧ l.bytes = m.bytes)) ∧
    (m.phase = 5 →
      ∃ t, exec .migrationRelease s = .next t ∧ (t.die dk).mig = none ∧ t.mem = s.mem ∧ t.dev dk 0x005C = 16)) ∧
  ∀ (i : Instr) (s : State) (m : Migration),
    (i = .migrationRecall ∧ m.phase = 1) ∨ (i = .migrationCopy ∧ m.phase = 2) ∨ (i = .migrationRemap ∧ m.phase = 3) ∨
    (i = .migrationForward ∧ m.phase = 4) ∨ (i = .migrationRelease ∧ m.phase = 5) →
    let dk := s.arg.key
    (s.die dk).mig = some m →
    ((s.pkg (dk / 4)).dead = true → exec i s = .next s) ∧
    ((s.pkg (dk / 4)).dead = false → s.declared dk (gaPkg m.dst) = false → s.declared (gaDie m.dst) (dk / 4) = true →
      exec i s = .next s) ∧
    ((s.pkg (dk / 4)).dead = false → s.declared dk (gaPkg m.dst) = true →
      ∃ t, exec i s = .next t ∧ (t.die dk).mig = none ∧ SameBytes s t s.doubled ∧ t.dev dk 0x005C = 64 ∧
        (4 ≤ m.phase → ∀ l ∈ t.tlb, ¬ (bits l.lo.toNat 53 16 * 65536 = m.src ∧ l.bytes = m.bytes)))) ∧
  ((∀ s : State,
    let dk := s.arg.key
    let sl := s.arg.val.toNat % 256
    s.arg.sub < 4096 →
    (sl < 192 → s.sliceFused dk sl = false → exec .bucketWrite s = .next (s.setDie dk { s.die dk with
      reb := (s.die dk).reb ++ [(s.arg.sub, sl)] })) ∧
    (191 < sl ∨ s.sliceFused dk sl = true → exec .bucketWrite s = .next (s.setDev dk 0x0064 (s.dev dk 0x0064 ||| 1))) ∧
    (s.cycle - (s.die dk).period < s.rebPeriod dk → exec .rebalancePeriod s = .next s) ∧
    (s.rebPeriod dk ≤ s.cycle - (s.die dk).period →
      (∀ mv, (s.dev dk 0x0060).getLsbD 0 = true → s.rebalance dk = some mv →
        exec .rebalancePeriod s = .next (s.setDie dk { s.die dk with
          reb := (s.die dk).reb ++ [mv], served := [], period := s.cycle })) ∧
      ((s.dev dk 0x0060).getLsbD 0 = false ∨ s.rebalance dk = none →
        exec .rebalancePeriod s = .next (s.setDie dk { s.die dk with served := [], period := s.cycle })))) ∧
  ∀ (s : State) (b sl : Nat) (rest : List (Nat × Nat)),
    let dk := s.arg.key
    (s.die dk).reb = (b, sl) :: rest → sl < 256 →
    (s.bucket dk b = sl → exec .bucketDrain s = .next (s.setDie dk { s.die dk with reb := rest })) ∧
    (s.bucket dk b ≠ sl → s.bucketBlocked dk b = true →
      exec .bucketDrain s = .next (s.setDie dk { s.die dk with reb := rest })) ∧
    (s.bucket dk b ≠ sl → s.bucketBlocked dk b = false → s.snoop = [] →
      ∃ t, exec .bucketDrain s = .next t ∧ t.bucket dk b = sl ∧ (t.die dk).reb = rest ∧ Quiet s t ∧
        (∀ line, bucketOf (line * 128) = b → t.copyAt line (l2Unit dk) = 0) ∧
        (t.dev dk 0x0064).toNat =
          (s.dev dk 0x0064).toNat % 256 + ((s.dev dk 0x0064).toNat / 256 + 1) % 2 ^ 24 * 256))

/-- The home's service of a request by Table 13-2 (R410, R413, R415, R428): a request takes its place in the order of arrival; a read of
a line that nobody holds is granted E, of a shared one, or by a cell that may not own it, S, and of its own owner the state that it
holds (the model's choice, log entry 89); GetM and Upgrade are granted M once every other copy is gone; an atomic and an uncached
write drop every copy; the firewall refuses a cell that may not own the line, a poisoned line is answered as poisoned. -/
def Obligations.HomeService : Prop :=
  (∀ (s : State) (t : Txn),
    let line := t.ga / 128
    let dk := gaDie t.ga
    let c := s.cellBit dk t.src
    let d := s.dirAt line
    let free := s.firewall t.ga ((s.cellOf dk t.src).getD 0) = true ∧ s.holders line = []
    Pending s 1 t →
    (s.isPoison line = true → exec .homeGets s = .next (s.answer s.arg.key t 5)) ∧
    (s.isPoison line = false → 2 ≤ d.state → d.owner = t.src → exec .homeGets s = .next (s.answer s.arg.key t d.state)) ∧
    (s.isPoison line = false → d.state = 0 → free → Settled s →
      ∃ u, exec .homeGets s = .next u ∧ u.dirAt line = ⟨2, t.src, c⟩ ∧ u.heldBy line t.src = 2 ∧
        Store.find s.arg.key u.txns = some { t with phase := 1, grant := 2 } ∧ Quiet s u) ∧
    (s.isPoison line = false → d.state = 0 → ¬ free → Settled s →
      ∃ u, exec .homeGets s = .next u ∧ u.dirAt line = ⟨1, 0, d.cells ||| c⟩ ∧ u.heldBy line t.src = 1 ∧
        Store.find s.arg.key u.txns = some { t with phase := 1, grant := 1 } ∧ Quiet s u) ∧
    (s.isPoison line = false → d.state = 1 ∨ (d.state = 3 ∧ d.owner ≠ t.src ∧ s.ownerMute line = false) → Settled s →
      ∃ u, exec .homeGets s = .next u ∧ u.dirAt line = { d with cells := d.cells ||| c } ∧ u.heldBy line t.src = 1 ∧
        Store.find s.arg.key u.txns = some { t with phase := 1, grant := 1 } ∧ Quiet s u)) ∧
  (∀ (s : State) (t : Txn),
    let line := t.ga / 128
    let dk := gaDie t.ga
    Heard s 1 t → s.txns = [(s.arg.key, t)] → t.seq = none → t.ask = none → (s.die (gaDie (line * 128))).recov.phase = 0 →
    (s.dirAt line).state = 0 → (s.setLines line).length < 16 → s.isPoison line = false → s.holders line = [] →
    s.firewall t.ga ((s.cellOf dk t.src).getD 0) = true → Settled s →
    ∃ u, exec .homeGets s = .next u ∧ u.dirAt line = ⟨2, t.src, s.cellBit dk t.src⟩ ∧ u.heldBy line t.src = 2 ∧
      Store.find s.arg.key u.txns = some { t with phase := 1, grant := 2, seq := some s.fresh, ask := some [] } ∧ Quiet s u) ∧
  (∀ (i : Instr) (s : State) (op : Nat) (t : Txn),
    let line := t.ga / 128
    let dk := gaDie t.ga
    (i = .homeGetm ∧ op = 2) ∨ (i = .homeUpgrade ∧ op = 3) → Pending s op t →
    (s.firewall t.ga ((s.cellOf dk t.src).getD 0) = false → exec i s = .next (s.answer s.arg.key t 7)) ∧
    (s.firewall t.ga ((s.cellOf dk t.src).getD 0) = true → s.clearFor line t.src = true → Settled s →
      ∃ u, exec i s = .next u ∧ u.dirAt line = ⟨4, t.src, s.cellBit dk t.src⟩ ∧ u.heldBy line t.src = 4 ∧
        Store.find s.arg.key u.txns = some { t with phase := 1, grant := 4 } ∧ Quiet s u)) ∧
  (∀ (i : Instr) (s : State) (op : Nat) (t : Txn),
    let line := t.ga / 128
    (i = .homeAtomic ∧ op = 7) ∨ (i = .uncachedWrite ∧ op = 9) → Pending s op t →
    (lineCached t.ga = false → exec i s = .next (s.answer s.arg.key t 0)) ∧
    (lineCached t.ga = true → s.firewall t.ga ((s.cellOf (gaDie t.ga) t.src).getD 0) = false →
      exec i s = .next (s.answer s.arg.key t 7)) ∧
    (lineCached t.ga = true → s.firewall t.ga ((s.cellOf (gaDie t.ga) t.src).getD 0) = true →
      (op = 7 → s.isPoison line = false) → s.holders line = [] → (s.dirAt line).state < 2 → Settled s →
      ∃ u, exec i s = .next u ∧ u.dirAt line = Dir.none ∧
        Store.find s.arg.key u.txns = some { t with phase := 1, grant := 0 } ∧ Quiet s u)) ∧
  ∀ (s : State) (t : Txn),
    let line := t.ga / 128
    Pending s 8 t →
    (lineCached t.ga = true → s.isPoison line = true → exec .uncachedRead s = .next (s.answer s.arg.key t 5)) ∧
    (lineCached t.ga = false ∨ (s.isPoison line = false ∧ (s.dirAt line).state ≠ 2 ∧ (s.dirAt line).state ≠ 4 ∧
      s.ownerMute line = false) →
      exec .uncachedRead s = .next (s.answer s.arg.key t 0))

/-- Copies given back (R408 to R411, R418, R424): a write notice of the owner in E records M; PutM brings the data home, and PutM and PutE
clear the owner that dropped its copy, but for a package that the home does not hear, or of a wrong cell; an eviction drops the package's own; a recall takes the owner's line, for a request that needs it alone, or leaves it shared; an
invalidation drops a read-only copy; either answer is taken from those that the request awaits.

Responses (R410, R411, R415, R420 to R422, R428): data, a grant or an acknowledgement ends a request of a line, and lets the
issuer of an atomic or an uncached access perform it; a refusal and poison fault it; a request unanswered past the limit expires and
is counted. -/
def Obligations.CopiesAndResponses : Prop :=
  ((∀ (s : State) (key : Nat) (t : Txn),
    let p := s.arg.key
    let line := s.arg.sub
    let d := s.dirAt line
    (s.txns.find? fun t => t.2.op = 4 && t.2.phase = 0 && t.2.src = p && t.2.ga / 128 = line) = some (key, t) →
    s.unheard t = false → t.src ≠ gaPkg t.ga →
    (s.srcOk (gaDie t.ga) p = false →
      exec .writeNotice s = .next ((s.countBad (gaDie t.ga)).setTxn key { t with phase := 8, grant := 9 })) ∧
    (s.srcOk (gaDie t.ga) p = true → t.seq.isSome = true → s.turnOf key t = true → s.cannotServe t = false →
      (s.die (gaDie (line * 128))).recov.phase = 0 →
      (d.state = 2 → d.owner = p →
        ∃ u, exec .writeNotice s = .next u ∧ u.dirAt line = { d with state := 4 } ∧ u.heldBy line p = 4 ∧
          Store.find key u.txns = some { t with phase := 1, grant := 4 } ∧ Quiet s u) ∧
      (¬ (d.state = 2 ∧ d.owner = p) → exec .writeNotice s = .next (s.answer key t 0)))) ∧
  (∀ s : State,
    let p := s.arg.key
    let line := s.arg.sub
    let d := s.dirAt line
    let dk := gaDie (line * 128)
    (s.hears dk p = false → exec .putm s = .next s ∧ exec .pute s = .next s) ∧
    (s.returning p line = true → (s.pkg (gaPkg (line * 128))).dead = false → s.hears dk p = true → s.begun line = none →
      s.engineOwns line = false → s.blocked (line * 128) = false →
      (s.srcOk dk p = false → (dirtyState d.state = true → exec .putm s = .next (s.countBad dk)) ∧
        (d.state = 2 → exec .pute s = .next (s.countBad dk))) ∧
      (s.srcOk dk p = true → (s.die dk).recov.phase = 0 →
        (d.state = 4 → exec .putm s = .next ((s.writtenHome line).setDir line Dir.none)) ∧
        (d.state = 3 → exec .putm s = .next ((s.writtenHome line).setDir line ⟨1, 0, d.cells⟩)) ∧
        (d.state = 2 → exec .pute s = .next (s.setDir line Dir.none)))) ∧
    (s.writtenHome line).stale line = false ∧
    exec .cacheEvict s = .next (s.copyLeaves p line) ∧ (s.copyLeaves p line).heldBy line p = 0) ∧
  ∀ (s : State) (key : Nat) (t : Txn),
    let p := s.arg.key
    let line := s.arg.sub
    let d := s.dirAt line
    let heard := fun (u : State) => Store.find key u.txns = some (t.heardFrom p) ∧ Quiet s u
    Asked s p line key t → Settled s →
    (t.takes = true → d.owner = p → 2 ≤ d.state →
      ∃ u, exec .recall s = .next u ∧ u.heldBy line p = 0 ∧ (u.dirAt line).state < 2 ∧ heard u) ∧
    (t.takes = false → d.owner = p → d.state = 4 → s.heldBy line p ≠ 0 →
      ∃ u, exec .recall s = .next u ∧ u.heldBy line p = 3 ∧ u.dirAt line = ⟨3, p, d.cells⟩ ∧ heard u) ∧
    (t.takes = false → d.owner = p → d.state = 2 → s.heldBy line p ≠ 0 →
      ∃ u, exec .recall s = .next u ∧ u.heldBy line p = 1 ∧ u.dirAt line = ⟨1, 0, d.cells⟩ ∧ heard u) ∧
    (t.takes = true → d.state = 1 → ∃ u, exec .invalidate s = .next u ∧ u.heldBy line p = 0 ∧ heard u)) ∧
  ((∀ (s : State) (t : Txn), Answered s t →
    let key := s.arg.key
    (t.grant < 5 →
      (t.op = 1 → exec .responseData s = .next { s with txns := Store.erase key s.txns }) ∧
      (t.op = 7 ∨ t.op = 8 → exec .responseData s = .next { s with txns := Store.ins key { t with phase := 6 } s.txns }) ∧
      (t.op = 2 ∨ t.op = 3 → exec .responseGrant s = .next { s with txns := Store.erase key s.txns }) ∧
      (t.op = 4 → exec .responseAcknowledge s = .next { s with txns := Store.erase key s.txns }) ∧
      (t.op = 9 → exec .responseAcknowledge s = .next { s with txns := Store.ins key { t with phase := 6 } s.txns })) ∧
    (t.grant = 7 → exec .responseRefused s = .next { s with txns := Store.ins key { t with phase := 2 } s.txns }) ∧
    (t.grant = 5 → exec .responsePoisoned s = .next { s with txns := Store.ins key { t with phase := 3 } s.txns })) ∧
  ∀ (s : State) (t : Txn),
    let dk := (s.group t.gk).dk
    s.arg.num = 0 → Store.find s.arg.key s.txns = some t → t.gk ≠ noGroup → t.op ≠ 10 → t.phase ≤ 1 → dk ≠ gaDie t.ga →
    s.blocked t.ga = false →
    (s.cycle - t.since < s.txnLimit dk → exec .transactionTimeout s = .next s) ∧
    (s.txnLimit dk ≤ s.cycle - t.since → s.arg.key < s.fresh →
      ∃ u, exec .transactionTimeout s = .next u ∧ Quiet s u ∧
        (u.dev dk 0x082C).toNat = ((s.dev dk 0x082C).toNat + 1) % 2 ^ 32 ∧
        Store.find s.arg.key u.txns = some { t with phase := if t.phase = 0 ∨ 5 ≤ t.grant then 4 else 7 }))

/-- Links (R382 to R384, R418): a flit with a correct CRC and the next SEQ is accepted by its station, and its ACK lets go of the flits
that it covers; any other is discarded, and the sender sends again from the SEQ expected; a station sends its packets in flits of 240
bytes and keeps no more than 512 unacknowledged; more than 8 CRC errors, or a lane failure, start a retrain, which starts on request
too and ends up, or after three failures in succession down (in service again after the first two, the model's choice, log entry 82),
and then what no ACK covers is sent again; a port completes training with its partner; a packet that breaks Table 13-3, or has a LEN
above 256 (log entry 83), is discarded and counted. -/
def Obligations.LinkSteps : Prop :=
  (∀ s : State,
    let dk := s.arg.key
    let e := s.arg.sub
    let i := s.arg.num
    let l := s.edge dk e
    let x := s.station dk e i
    let peer := edgePeer dk (e % 2)
    let seq := BitVec.ofNat 12 (bits s.arg.val.toNat 11 0)
    let ack := BitVec.ofNat 12 (bits s.arg.val.toNat 27 16)
    l.up = true → l.training = false →
    ∃ t, exec .dieEdgeFlit s = .next t ∧ Quiet s t ∧
      (s.arg.flag = true → seq = x.seq →
        t.station dk e i = (x.acked ack).accept (s.arg.data.take 240) ∧ (t.edge dk e).flits = l.flits + 1 ∧
        t.edge peer e = s.edge peer e) ∧
      (s.arg.flag = false ∨ seq ≠ x.seq →
        t.station dk e i = (if s.arg.flag then x.acked ack else x) ∧
        (t.edge peer e).replays = (s.edge peer e).replays + 1 ∧ t.station peer e i = (s.station peer e i).replay x.seq) ∧
      (s.arg.flag = false → (t.edge dk e).training = decide (8 < (l.counted false).errors.length))) ∧
  (∀ (x : Station) (ack : BitVec 12) (i : Nat), (x.kept.findIdx? fun f => f.1 == ack) = some i →
    (x.acked ack).kept = x.kept.drop (i + 1)) ∧
  (∀ x : Station,
    let f := (x.sent, x.wait.take 240 ++ List.replicate (240 - x.wait.length) 0#8)
    (x.kept[x.again]? = none → x.wait ≠ [] → x.kept.length < 512 →
      ∃ y, x.next = some (f, y) ∧ y.kept = x.kept ++ [f] ∧ y.wait = x.wait.drop 240 ∧ y.sent = x.sent + 1) ∧
    (x.kept.length ≤ 512 → ∀ f y, x.next = some (f, y) → y.kept.length ≤ 512 ∧ f ∈ y.kept ∧ y.owes = false)) ∧
  (∀ s : State,
    let dk := s.arg.key
    let e := s.arg.sub % 2
    let l := s.edge dk e
    (s.arg.num = 1 → l.up = true → ∃ t, exec .dieEdgeRetrain s = .next t ∧ Quiet s t ∧ (t.edge dk e).training = true) ∧
    (s.arg.num ≠ 1 → l.up = true ∨ l.training = true → ∃ t, exec .dieEdgeRetrain s = .next t ∧ Quiet s t ∧
      (∀ i, (t.station dk e i).again = 0 ∧ (t.station dk e i).kept = (s.station dk e i).kept) ∧
      (t.edge dk e).retrains = l.retrains + 1 ∧ (t.edge dk e).training = false ∧
      (t.edge dk e).up = (s.arg.flag || (l.up && decide (l.failed + 1 < 3)))) ∧
    (s.arg.val.toNat % 2 = 1 → ∃ t, exec .d2dRetrain s = .next t ∧ Quiet s t ∧ (t.edge dk e).training = true ∧
      (t.edge (edgePeer dk e) e).training = true)) ∧
  (∀ (s : State) (l : Link),
    let dk := s.arg.key
    let n := s.arg.sub
    (s.die dk).ports[n]? = some l →
    (l.up = true ∨ l.training = true → ∃ t, exec .fabricPortRetrain s = .next t ∧ Quiet s t ∧
      (t.die dk).ports[n]? = some (l.retrained s.arg.flag) ∧ ∀ j, j ≠ n → (t.die dk).ports[j]? = (s.die dk).ports[j]?) ∧
    (∃ t, exec .fabRetrain s = .next t ∧ Quiet s t ∧
      (t.die dk).ports[n]? = some (if s.arg.val.toNat.testBit n then { l with training := true } else l)) ∧
    ((s.sysReg dk 0x706).getLsbD (2 + n) = false → (s.die dk).badUnits.contains (0x3000 + n) = false →
      ∃ t, exec .fabricLinkTraining s = .next t ∧ Quiet s t ∧
        (t.die dk).ports[n]? = some { l with up := true, training := false, failed := 0 } ∧
        ∀ j, j ≠ n → (t.die dk).ports[j]? = (s.die dk).ports[j]?)) ∧
  (∀ l : Link, l.retrained true = { l with up := true, training := false, failed := 0, retrains := l.retrains + 1 }) ∧
  ∀ s : State,
    let v := (s.dev s.arg.key 0x0850).toNat
    (s.dev s.arg.key 0x0800).getLsbD 31 = true →
    (s.badPacket s.arg.key s.arg.hdr = true → exec .bulkPacket s = .next (s.setDev s.arg.key 0x0850
      (BitVec.ofNat 64 (v % 65536 + (v / 65536 + 1) % 65536 * 65536)))) ∧
    (s.badPacket s.arg.key s.arg.hdr = false → exec .bulkPacket s = .next s)

/-- A declared cell (R423 to R426, R430, R431, Tables 13-4, 13-5): a declaration drops copies of its lines, fails transactions toward
it, discards what its home has not granted to the cell, and starts a recovery, or waits behind the one in hand; the fence does so
again; lines that transactions wait for, then every line of the die, are resolved, a line that the
cell held dirty becoming poisoned and counted in REC.LOST; the report is posted and the next declaration taken; a cell is readmitted by clearing its bit;
the packages of a failed cell stop. -/
def Obligations.CellSteps : Prop :=
  (∀ s : State,
    let dk := s.arg.key
    let v := s.arg.val.toNat % 2 ^ 32
    let c := v % 64
    let r := (s.die dk).recov
    bits v 31 6 = 0 → ((s.dev dk 0x0800).getLsbD 31 = false ∨ c ≠ s.myCell dk) →
    ((s.dev dk 0x0808).getLsbD c = false →
      ∃ t, exec .recDeclare s = .next t ∧ Quiet s t ∧ t.dev dk 0x0808 = s.dev dk 0x0808 ||| BitVec.twoPow 64 c ∧
        (t.die dk).recov = (if r.phase = 0 then { r with phase := 1, cell := c, lost := 0 } else { r with queue := r.queue ++ [c] }) ∧
        (∀ e ∈ t.held, ¬ (e.1 % 1024 = dk / 4 ∧ s.inCell dk c (gaPkg (e.1 / 1024 * 128)) = true)) ∧
        ∀ k x, (k, x) ∈ s.txns → x.gk ≠ noGroup → (s.group x.gk).dk = dk → s.inCell dk c (gaPkg x.ga) = true → x.phase < 2 ∨ x.phase = 8 →
          (k, { x with phase := 5 }) ∈ t.txns) ∧
    ((s.dev dk 0x0808).getLsbD c = false → ∀ k x, (k, x) ∈ s.txns → x.gk = noGroup ∨ (s.group x.gk).dk ≠ dk → gaDie x.ga = dk →
      s.inCell dk c x.src = true → x.src ≠ dk / 4 → x.phase = 0 → x.seq.isSome = true →
      ∃ t, exec .recDeclare s = .next t ∧ (k, { x with phase := 8, grant := 9, ask := none }) ∈ t.txns) ∧
    ((s.dev dk 0x0808).getLsbD c = true → (r.phase = 0 ∨ r.cell ≠ c) → r.queue.contains c = false →
      exec .recReadmit s = .next (s.setDev dk 0x0808 (s.dev dk 0x0808 &&& ~~~BitVec.twoPow 64 c)))) ∧
  (∀ s : State,
    let dk := s.arg.key
    let r := (s.die dk).recov
    r.phase = 1 →
    ∃ t, exec .recoveryFence s = .next t ∧ Quiet s t ∧ (t.die dk).recov = { r with phase := 2 } ∧
      (∀ e ∈ t.held, ¬ (e.1 % 1024 = dk / 4 ∧ s.inCell dk r.cell (gaPkg (e.1 / 1024 * 128)) = true)) ∧
      ∀ k x, (k, x) ∈ s.txns → x.gk ≠ noGroup → (s.group x.gk).dk = dk → s.inCell dk r.cell (gaPkg x.ga) = true → x.phase < 2 ∨ x.phase = 8 →
        (k, { x with phase := 5 }) ∈ t.txns) ∧
  (∀ (s : State) (o : Nat) (cs : BitVec 64),
    let dk := s.arg.key
    let r := (s.die dk).recov
    s.inCell dk r.cell o = true → Settled s →
    (∀ k x, r.phase = 2 → s.txns = [(k, x)] → x.phase = 0 → gaDie x.ga = dk → s.dirAt (x.ga / 128) = ⟨4, o, cs⟩ →
      ∃ t, exec .recoveryResolve s = .next t ∧ Quiet s t ∧ t.isPoison (x.ga / 128) = true ∧ t.dirAt (x.ga / 128) = Dir.none ∧
        (t.die dk).recov = { r with phase := 3, lost := r.lost + 1 }) ∧
    (∀ line, r.phase = 3 → s.dir = [(line, ⟨4, o, cs⟩)] → gaDie (line * 128) = dk →
      ∃ t, exec .recoverySweep s = .next t ∧ Quiet s t ∧ t.isPoison line = true ∧ t.dirAt line = Dir.none ∧
        (t.die dk).recov = { r with phase := 4, lost := r.lost + 1 } ∧
        t.dev dk 0x0820 = s.dev dk 0x0820 + BitVec.ofNat 64 (r.lost + 1)) ∧
    (r.phase = 4 → ∃ t, exec .recoveryReport s = .next t ∧ t.dev dk 0x0820 = s.dev dk 0x0820 ∧
      (let core := s.firstCore dk
       let n := (s.core (coreKey dk core)).seq
       let slot := coreAddr dk core (64 * (n.toNat % 64))
       (s.core (coreKey dk core)).posts = [] → s.isFull (mailGranule dk core (n.toNat % 64)) = false →
        t.bytes slot 64 = recordBytes ⟨0, 100, 0, BitVec.ofNat 64 (r.cell % 64 + r.lost % 2 ^ 32 * 2 ^ 32)⟩ 0 0 0 n) ∧
      (t.die dk).recov = (match r.queue with | c :: rest => ⟨1, c, rest, 0⟩ | [] => ⟨0, 0, [], 0⟩))) ∧
  ∀ s : State,
    let c := s.arg.sub
    let mine := fun (d : Nat × Die) => (s.dev d.1 0x0800).getLsbD 31 = true ∧ s.myCell d.1 = c
    ∃ t, exec .cellFailure s = .next t ∧ Quiet s t ∧ (∀ d ∈ s.dies, mine d → (t.pkg (d.1 / 4)).dead = true) ∧
      ∀ p, (∀ d ∈ s.dies, d.1 / 4 = p → ¬ mine d) → t.pkg p = s.pkg p

/-- Writes to device registers (R347, R402, R404, R413, R416, R433, R441): a register stores the bits of its mask; the locked set moves
a locked interface to ERROR; GAL.ID locks with its V; a firewall write recalls to S a line whose owner it refuses, and waits while the
owner gives no answer; RDIR.Q returns the home state of a line, and STATE 7 for an address of another die or, the model's choice (log
entry 84), outside region 0. -/
def Obligations.RegisterSteps : Prop :=
  (∀ s : State,
    let dk := s.arg.key
    let off := s.arg.sub
    let k := s.pkg (dk / 4)
    (devWidth off = none → exec .registerWrite s = .next s) ∧
    (off ∈ [0x0000, 0x0008, 0x0010, 0x0018, 0x0020, 0x0028, 0x0060, 0x0300, 0x0308, 0x0310, 0x0418, 0x0828, 0x0908, 0x0910,
        0x0A00, 0x0A08, 0x0A10, 0x0A20] → devMask dk off ≠ 0 →
      exec .registerWrite s = .next (s.setDev dk off (BitVec.ofNat 64 (s.arg.val.toNat &&& devMask dk off)))) ∧
    (devLocked off = true → (devWidth off).isSome = true →
      (k.tdi = 3 → exec .registerWrite s = .next s) ∧
      (k.tdi = 1 ∨ k.tdi = 2 → exec .registerWrite s = .next (s.setPkg (dk / 4) { k with tdi := 3 })) ∧
      (k.tdi = 0 → devMask dk off ≠ 0 →
        exec .registerWrite s = .next (s.setDev dk off (BitVec.ofNat 64 (s.arg.val.toNat &&& devMask dk off)))))) ∧
  (∀ s : State,
    let dk := s.arg.key
    let v := s.arg.val.toNat
    ((s.dev dk 0x0800).getLsbD 31 = true → exec .galIdWrite s = .next s) ∧
    ((s.dev dk 0x0800).getLsbD 31 = false → exec .galIdWrite s = .next (s.setDev dk 0x0800
      (BitVec.ofNat 64 (bits v 9 0 + bits v 21 16 * 2 ^ 16 + bits v 31 31 * 2 ^ 31))))) ∧
  (∀ s : State,
    let dk := s.arg.key
    let s' := s.setDev dk 0x0830 s.arg.val
    s.arg.sub = 0x0830 → (s.die dk).fwPend = [] → s'.engineUnpermitted dk = false → s'.takesUnpermitted dk = false →
    (s.dir = [] → s.inner = [] → InOrder s → exec .firewallWrite s = .next s') ∧
    ∀ line o cs, s.dir = [(line, ⟨4, o, cs⟩)] → gaDie (line * 128) = dk →
      s'.firewall (line * 128) ((s'.cellOf dk o).getD 0) = false →
      (s'.ownerMute line = true → exec .firewallWrite s = .next (s.setDie dk { s.die dk with
        fwPend := [(0x0830, s.arg.val.toNat)] })) ∧
      (s'.ownerMute line = false → s'.heldBy line o ≠ 0 → Settled s →
      ∃ t, exec .firewallWrite s = .next t ∧ Quiet s t ∧ t.dev dk 0x0830 = s.arg.val ∧ t.dirAt line = ⟨1, 0, cs⟩ ∧
        t.heldBy line o = 1)) ∧
  ∀ s : State,
    let dk := s.arg.key
    let ga := bits s.arg.val.toNat 53 7 * 128
    let d := s.dirAt (ga / 128)
    (gaDie ga ≠ dk ∨ gaRegion ga ≠ 0 → ∃ t, exec .rdirQuery s = .next t ∧ Quiet s t ∧ t.dev dk 0x0848 = 7) ∧
    (gaDie ga = dk → gaRegion ga = 0 → s.isPoison (ga / 128) = true → d.state = 0 → s.inMove ga = false →
      ∃ t, exec .rdirQuery s = .next t ∧ Quiet s t ∧ t.dev dk 0x0838 = BitVec.ofNat 64 ga ∧ t.dev dk 0x0840 = 0 ∧
        t.dev dk 0x0848 = BitVec.ofNat 64 (5 + bits ga 35 7 * 2 ^ 17)) ∧
    (gaDie ga = dk → gaRegion ga = 0 → s.isPoison (ga / 128) = false ∨ d.state ≠ 0 → d.state ≠ 5 →
      ∃ t, exec .rdirQuery s = .next t ∧ Quiet s t ∧ t.dev dk 0x0838 = BitVec.ofNat 64 ga ∧ t.dev dk 0x0840 = d.cells ∧
        t.dev dk 0x0848 = BitVec.ofNat 64 ((if s.inMove ga then 6 + d.state * 8 else d.state) + d.owner * 64 +
          (if d.state ≠ 0 then 2 ^ 16 else 0) + bits ga 35 7 * 2 ^ 17))

/-- Team stops (R459 to R461): a stop names the team that matches DBG.LID and DBG.TIDX, or ends in state 4; at its boundaries, where
every earlier instruction of its groups has taken full effect (R45), the team is held and its dump written; attach, step, resume, termination and the hold limit move between the states. -/
def Obligations.TeamStops : Prop :=
  (∀ s : State,
    let dk := s.arg.key
    let v := s.arg.val.toNat
    s.dbgState dk = 0 ∨ s.dbgState dk = 4 →
    (s.dbgFind dk (v.testBit 4) = none → exec .dbgStop s = .next (s.setDbg dk 4)) ∧
    ∀ tid, s.dbgFind dk (v.testBit 4) = some tid →
      ∃ t, exec .dbgStop s = .next t ∧ Quiet s t ∧ t.dbgState dk = 1 ∧ (t.die dk).dbgTeam = tid ∧
        (t.die dk).dbgFull = v.testBit 3) ∧
  (∀ s : State,
    let dk := s.arg.key
    let tid := (s.die dk).dbgTeam
    let base := bits (s.dev dk 0x0A10).toNat 53 7 * 128
    let s1 := s.settleTeam tid
    let dump := s1.dumpTeam dk tid (s.die dk).dbgFull
    let core := s.firstCore dk
    let slot := coreAddr dk core (64 * ((s.core (coreKey dk core)).seq.toNat % 64))
    (s.dbgState dk = 1 →
      ((s.team tid).status = .retired → exec .teamStopEffect s = .next (s.setDbg dk 4)) ∧
      ((s.team tid).status = .resident →
        ∃ t, exec .teamStopEffect s = .next t ∧ t.dbgState dk = 2 ∧ (t.team tid).held = true ∧ (t.die dk).dbgSince = s.cycle ∧
          t.g = s1.g ∧ t.groups = s1.groups ∧ (InOrder s → s1 = s) ∧
          (base + dump.length ≤ slot ∨ slot + 64 ≤ base → t.bytes base dump.length = dump))) ∧
    (s.dbgState dk = 3 → (s.team tid).held = true → (s.die dk).dbgStep = some [] →
      exec .teamStopEffect s = .next (((s1.setBytes base dump).setDie dk { s1.die dk with dbgStep := none }).unsyncTeam tid))) ∧
  ∀ s : State,
    let dk := s.arg.key
    let tid := (s.die dk).dbgTeam
    (s.dbgState dk = 2 → exec .dbgAttach s = .next (s.setDbg dk 3)) ∧
    (s.dbgState dk = 3 → exec .dbgStep s = .next (s.setDie dk { s.die dk with
      dbgStep := some (((s.teamGroups tid).filter Group.steps).map Group.key) })) ∧
    (s.dbgState dk = 2 ∨ s.dbgState dk = 3 → (s.team tid).status ≠ .retired →
      exec .dbgResume s = .next (((s.setTeam tid { s.team tid with held := false }).unsyncTeam tid).setDbg dk 0)) ∧
    (s.dbgState dk = 2 ∨ s.dbgState dk = 3 → firstTeam ≤ tid → (s.team tid).status ≠ .retired →
      ∃ t, exec .dbgTerminate s = .next t ∧ t.dbgState dk = 0 ∧ (t.team tid).status = .retired ∧ SameBytes s t s.unsettled) ∧
    (s.dbgState dk = 2 → (s.team tid).status ≠ .retired →
      (s.holdLimit dk ≤ s.cycle - (s.die dk).dbgSince →
        exec .holdLimitExpiry s = .next (((s.setTeam tid { s.team tid with held := false }).unsyncTeam tid).setDbg dk 0)) ∧
      (s.cycle - (s.die dk).dbgSince < s.holdLimit dk → exec .holdLimitExpiry s = .next s))

/-- Sampling, trace, energy (R368, R453, R456, R462): where one sample of one group is due its record is appended to the ring; TRACE.CTL
stores its enable; a new energy window starts the counts at 0 and restores the clock; a throttle lowers the clock by 100 MHz, to no
less than 600 MHz.

Margining and the spare lane (R441, R446, R449): each field of MARG.VOLT is held within 20 steps, GO starts a run on a link, its end
records the errors; on die 0 of a locked function these writes move the interface to ERROR; with no team on the core a failing lane is
steered to its spare and dispatch resumes. -/
def Obligations.UpkeepSteps : Prop :=
  ((∀ (s : State) (g : Group),
    let ck := s.arg.key
    let now := s.cycleOf (ck / 96)
    let due := now / s.samplePeriod ck - (s.core ck).ticked / s.samplePeriod ck
    let head := (s.coreSys ck 0x303).toNat
    let at_ := (s.coreSys ck 0x301).toNat + 32 * (head % (s.coreSys ck 0x302).toNat)
    (s.sampling ck = false → exec .sampleTick s = .next s) ∧
    (s.sampling ck = true → due = 0 → exec .sampleTick s = .next (s.setCore ck { s.core ck with ticked := now })) ∧
    (s.sampling ck = true → due = 1 → s.residents (ck / 96) (ck % 96) 0 = [g] → g.slot < 16 →
      (∀ p, 0 < p → p < 4 → s.residents (ck / 96) (ck % 96) p = []) →
      ∃ t, exec .sampleTick s = .next t ∧ t.bytes at_ 32 = s.sampleRecord g (((s.core ck).ticked / s.samplePeriod ck + 1) * s.samplePeriod ck) ∧ SameBytes s t [(at_, 32)] ∧
        t.coreSys ck 0x303 = BitVec.ofNat 64 ((head + 1) % 2 ^ 32) ∧ (t.core ck).ticked = now ∧ t.g = s.g)) ∧
  (∀ s : State,
    let ck := s.arg.key
    (s.arg.val.getLsbD 0 = false → exec .traceEnable s = .next (s.setCoreSys ck 0x400 0)) ∧
    (s.arg.val.getLsbD 0 = true → (s.coreSys ck 0x400).getLsbD 0 = true → exec .traceEnable s = .next (s.setCoreSys ck 0x400 1)) ∧
    (s.arg.val.getLsbD 0 = true → ∃ t, exec .traceEnable s = .next t ∧ t.coreSys ck 0x400 = 1 ∧ t.g = s.g ∧ t.groups = s.groups)) ∧
  ∀ s : State,
    let dk := s.arg.key
    (s.windowNow dk = (s.die dk).window → exec .energyWindow s = .next s) ∧
    (s.windowNow dk ≠ (s.die dk).window →
      ∃ t, exec .energyWindow s = .next t ∧ Quiet s t ∧ (t.die dk).window = s.windowNow dk ∧ t.sysReg dk 0x500 = 0 ∧
        t.sysReg dk 0x503 = 1500 ∧ ∀ l ∈ t.launches, l.2.dk = dk → l.2.charge = 0) ∧
    ∃ t, exec .clockThrottle s = .next t ∧ Quiet s t ∧
      t.sysReg dk 0x503 = BitVec.ofNat 64 (max 600 ((s.sysReg dk 0x503).toNat - 100))) ∧
  ((∀ s : State,
    let dk := s.arg.key
    let k := s.pkg (dk / 4)
    (dk % 4 ≠ 0 ∨ k.tdi = 0 →
      exec .margVolt s = .next (s.setSysReg dk 0x600 (0#40 ++ voltClamp (s.arg.val.extractLsb' 16 8) ++
        voltClamp (s.arg.val.extractLsb' 8 8) ++ voltClamp (s.arg.val.extractLsb' 0 8))) ∧
      (s.arg.val.getLsbD 0 = true → (s.sysReg dk 0x601).extractLsb' 0 2 ≠ 3#2 →
        exec .margLrun s = .next (s.setSysReg dk 0x602 1)) ∧
      (s.arg.val.getLsbD 0 = false → exec .margLrun s = .next s)) ∧
    (dk % 4 = 0 → k.tdi = 1 ∨ k.tdi = 2 → ∀ i, i = .margVolt ∨ i = .margLrun →
      exec i s = .next (s.setPkg (dk / 4) { k with tdi := 3 })) ∧
    (s.sysReg dk 0x602 = 1 → exec .marginRunDone s = .next (s.setSysReg dk 0x602
      (BitVec.ofNat 64 (2 + min s.arg.val.toNat 65535 * 65536)))) ∧
    (s.sysReg dk 0x602 ≠ 1 → exec .marginRunDone s = .next s)) ∧
  (∀ b : BitVec 8, (voltClamp b).toInt = max (-20) (min 20 b.toInt)) ∧
  ∀ (s : State) (lane : Nat),
    let ck := s.arg.key
    let dk := ck / 96
    let c := s.core ck
    let busy := fun (t : Nat × Team) => t.2.dk = dk ∧ t.2.core = ck % 96 ∧ t.2.status = .resident ∧ t.2.kind ≠ .supervisor
    c.failing = [(s.arg.sub, lane)] → c.withdrawn = false →
    ((∃ t ∈ s.teams, busy t) → exec .laneSpareSteer s = .next s) ∧
    ((∀ t ∈ s.teams, ¬ busy t) →
      ∃ t, exec .laneSpareSteer s = .next t ∧ Quiet s t ∧ t.dev dk 0x0938 = s.dev dk 0x0938 ||| 1 ∧
        t.core ck = { c with steered := c.steered ++ [(s.arg.sub, lane)], failing := [], withheld := false }))

/-- The reset of a die (R51, R443, R444): an image that the boot ROM accepts, of a version not below the rollback counter, stands at
offset 0 of its DRAM and is measured, its registers are at their reset values, its launches are gone, and the supervisor group of each
good core starts at the image's entry; a refused image leaves the die in reset, and the interface in ERROR as long as one die of the
package is. -/
def Obligations.DieReset : Prop :=
  ∀ s : State,
    let dk := s.arg.key
    let image := s.arg.data
    let entry := natLE (slice image 0 8)
    let k := s.pkg (dk / 4)
    (s.arg.flag = true → k.rollback ≤ s.arg.num → entry % 4 = 0 →
      ∃ t, exec .dieReset s = .next t ∧ t.bytes (dramAddr dk 0) image.length = image ∧ (t.die dk).inReset = false ∧
        (t.die dk).regs = [] ∧ (t.die dk).digest = shake256 image ∧ (t.pkg (dk / 4)).leaf = k.leaf ∧
        (t.pkg (dk / 4)).rollback = k.rollback ∧
        ((∃ d ∈ diesOf (dk / 4), d ≠ dk ∧ (s.die d).inReset = true) → (t.pkg (dk / 4)).tdi = 3) ∧ (∀ l ∈ t.launches, l.2.dk ≠ dk) ∧
        ∀ c, c < 96 → s.coreBad dk c = false →
          t.group (16 * coreKey dk c) = supervisorGroup dk c (BitVec.ofNat 64 entry)) ∧
    (s.arg.flag = false ∨ s.arg.num < k.rollback ∨ entry % 4 ≠ 0 →
      ∃ t, exec .dieReset s = .next t ∧ (t.die dk).inReset = true ∧ (t.pkg (dk / 4)).tdi = 3)
end

