-- ==== Sys2Proof/Laws/State.lean ====
section
/-! SUPPORT. One lemma per field of the state per named update: the field that the update writes, and that it leaves every
other field as it was. -/

namespace Sys2Proof.Machine

/-! ### `setTeam` -/

@[simp] theorem State.setTeam_mem (s : State) (k : Nat) (t : Team) : (s.setTeam k t).mem = s.mem := rfl
@[simp] theorem State.setTeam_tags (s : State) (k : Nat) (t : Team) : (s.setTeam k t).tags = s.tags := rfl
@[simp] theorem State.setTeam_full (s : State) (k : Nat) (t : Team) : (s.setTeam k t).full = s.full := rfl
@[simp] theorem State.setTeam_poison (s : State) (k : Nat) (t : Team) : (s.setTeam k t).poison = s.poison := rfl
@[simp] theorem State.setTeam_bad (s : State) (k : Nat) (t : Team) : (s.setTeam k t).bad = s.bad := rfl
@[simp] theorem State.setTeam_fills (s : State) (k : Nat) (t : Team) : (s.setTeam k t).fills = s.fills := rfl
@[simp] theorem State.setTeam_host (s : State) (k : Nat) (t : Team) : (s.setTeam k t).host = s.host := rfl
@[simp] theorem State.setTeam_snoop (s : State) (k : Nat) (t : Team) : (s.setTeam k t).snoop = s.snoop := rfl
@[simp] theorem State.setTeam_g (s : State) (k : Nat) (t : Team) : (s.setTeam k t).g = s.g := rfl
@[simp] theorem State.setTeam_groups (s : State) (k : Nat) (t : Team) : (s.setTeam k t).groups = s.groups := rfl
@[simp] theorem State.setTeam_teams (s : State) (k : Nat) (t : Team) : (s.setTeam k t).teams = Store.ins k t s.teams := rfl
@[simp] theorem State.setTeam_cores (s : State) (k : Nat) (t : Team) : (s.setTeam k t).cores = s.cores := rfl
@[simp] theorem State.setTeam_dies (s : State) (k : Nat) (t : Team) : (s.setTeam k t).dies = s.dies := rfl
@[simp] theorem State.setTeam_pkgs (s : State) (k : Nat) (t : Team) : (s.setTeam k t).pkgs = s.pkgs := rfl
@[simp] theorem State.setTeam_launches (s : State) (k : Nat) (t : Team) : (s.setTeam k t).launches = s.launches := rfl
@[simp] theorem State.setTeam_homes (s : State) (k : Nat) (t : Team) : (s.setTeam k t).homes = s.homes := rfl
@[simp] theorem State.setTeam_reports (s : State) (k : Nat) (t : Team) : (s.setTeam k t).reports = s.reports := rfl
@[simp] theorem State.setTeam_msgs (s : State) (k : Nat) (t : Team) : (s.setTeam k t).msgs = s.msgs := rfl
@[simp] theorem State.setTeam_colls (s : State) (k : Nat) (t : Team) : (s.setTeam k t).colls = s.colls := rfl
@[simp] theorem State.setTeam_txns (s : State) (k : Nat) (t : Team) : (s.setTeam k t).txns = s.txns := rfl
@[simp] theorem State.setTeam_dir (s : State) (k : Nat) (t : Team) : (s.setTeam k t).dir = s.dir := rfl
@[simp] theorem State.setTeam_held (s : State) (k : Nat) (t : Team) : (s.setTeam k t).held = s.held := rfl
@[simp] theorem State.setTeam_dirUse (s : State) (k : Nat) (t : Team) : (s.setTeam k t).dirUse = s.dirUse := rfl
@[simp] theorem State.setTeam_inner (s : State) (k : Nat) (t : Team) : (s.setTeam k t).inner = s.inner := rfl
@[simp] theorem State.setTeam_lag (s : State) (k : Nat) (t : Team) : (s.setTeam k t).lag = s.lag := rfl
@[simp] theorem State.setTeam_rels (s : State) (k : Nat) (t : Team) : (s.setTeam k t).rels = s.rels := rfl
@[simp] theorem State.setTeam_lostRegs (s : State) (k : Nat) (t : Team) : (s.setTeam k t).lostRegs = s.lostRegs := rfl
@[simp] theorem State.setTeam_scs (s : State) (k : Nat) (t : Team) : (s.setTeam k t).scs = s.scs := rfl
@[simp] theorem State.setTeam_tlb (s : State) (k : Nat) (t : Team) : (s.setTeam k t).tlb = s.tlb := rfl
@[simp] theorem State.setTeam_walker (s : State) (k : Nat) (t : Team) : (s.setTeam k t).walker = s.walker := rfl
@[simp] theorem State.setTeam_fresh (s : State) (k : Nat) (t : Team) : (s.setTeam k t).fresh = s.fresh := rfl
@[simp] theorem State.setTeam_cycle (s : State) (k : Nat) (t : Team) : (s.setTeam k t).cycle = s.cycle := rfl
@[simp] theorem State.setTeam_steps (s : State) (k : Nat) (t : Team) : (s.setTeam k t).steps = s.steps := rfl
@[simp] theorem State.setTeam_agenda (s : State) (k : Nat) (t : Team) : (s.setTeam k t).agenda = s.agenda := rfl
@[simp] theorem State.setTeam_beat (s : State) (k : Nat) (t : Team) : (s.setTeam k t).beat = s.beat := rfl
@[simp] theorem State.setTeam_order (s : State) (k : Nat) (t : Team) : (s.setTeam k t).order = s.order := rfl
@[simp] theorem State.setTeam_defer (s : State) (k : Nat) (t : Team) : (s.setTeam k t).defer = s.defer := rfl
@[simp] theorem State.setTeam_arg (s : State) (k : Nat) (t : Team) : (s.setTeam k t).arg = s.arg := rfl

/-! ### `setCore` -/

@[simp] theorem State.setCore_mem (s : State) (k : Nat) (c : Core) : (s.setCore k c).mem = s.mem := rfl
@[simp] theorem State.setCore_tags (s : State) (k : Nat) (c : Core) : (s.setCore k c).tags = s.tags := rfl
@[simp] theorem State.setCore_full (s : State) (k : Nat) (c : Core) : (s.setCore k c).full = s.full := rfl
@[simp] theorem State.setCore_poison (s : State) (k : Nat) (c : Core) : (s.setCore k c).poison = s.poison := rfl
@[simp] theorem State.setCore_bad (s : State) (k : Nat) (c : Core) : (s.setCore k c).bad = s.bad := rfl
@[simp] theorem State.setCore_fills (s : State) (k : Nat) (c : Core) : (s.setCore k c).fills = s.fills := rfl
@[simp] theorem State.setCore_host (s : State) (k : Nat) (c : Core) : (s.setCore k c).host = s.host := rfl
@[simp] theorem State.setCore_snoop (s : State) (k : Nat) (c : Core) : (s.setCore k c).snoop = s.snoop := rfl
@[simp] theorem State.setCore_g (s : State) (k : Nat) (c : Core) : (s.setCore k c).g = s.g := rfl
@[simp] theorem State.setCore_groups (s : State) (k : Nat) (c : Core) : (s.setCore k c).groups = s.groups := rfl
@[simp] theorem State.setCore_teams (s : State) (k : Nat) (c : Core) : (s.setCore k c).teams = s.teams := rfl
@[simp] theorem State.setCore_cores (s : State) (k : Nat) (c : Core) : (s.setCore k c).cores = Store.ins k c s.cores := rfl
@[simp] theorem State.setCore_dies (s : State) (k : Nat) (c : Core) : (s.setCore k c).dies = s.dies := rfl
@[simp] theorem State.setCore_pkgs (s : State) (k : Nat) (c : Core) : (s.setCore k c).pkgs = s.pkgs := rfl
@[simp] theorem State.setCore_launches (s : State) (k : Nat) (c : Core) : (s.setCore k c).launches = s.launches := rfl
@[simp] theorem State.setCore_homes (s : State) (k : Nat) (c : Core) : (s.setCore k c).homes = s.homes := rfl
@[simp] theorem State.setCore_reports (s : State) (k : Nat) (c : Core) : (s.setCore k c).reports = s.reports := rfl
@[simp] theorem State.setCore_msgs (s : State) (k : Nat) (c : Core) : (s.setCore k c).msgs = s.msgs := rfl
@[simp] theorem State.setCore_colls (s : State) (k : Nat) (c : Core) : (s.setCore k c).colls = s.colls := rfl
@[simp] theorem State.setCore_txns (s : State) (k : Nat) (c : Core) : (s.setCore k c).txns = s.txns := rfl
@[simp] theorem State.setCore_dir (s : State) (k : Nat) (c : Core) : (s.setCore k c).dir = s.dir := rfl
@[simp] theorem State.setCore_held (s : State) (k : Nat) (c : Core) : (s.setCore k c).held = s.held := rfl
@[simp] theorem State.setCore_dirUse (s : State) (k : Nat) (c : Core) : (s.setCore k c).dirUse = s.dirUse := rfl
@[simp] theorem State.setCore_inner (s : State) (k : Nat) (c : Core) : (s.setCore k c).inner = s.inner := rfl
@[simp] theorem State.setCore_lag (s : State) (k : Nat) (c : Core) : (s.setCore k c).lag = s.lag := rfl
@[simp] theorem State.setCore_rels (s : State) (k : Nat) (c : Core) : (s.setCore k c).rels = s.rels := rfl
@[simp] theorem State.setCore_lostRegs (s : State) (k : Nat) (c : Core) : (s.setCore k c).lostRegs = s.lostRegs := rfl
@[simp] theorem State.setCore_scs (s : State) (k : Nat) (c : Core) : (s.setCore k c).scs = s.scs := rfl
@[simp] theorem State.setCore_tlb (s : State) (k : Nat) (c : Core) : (s.setCore k c).tlb = s.tlb := rfl
@[simp] theorem State.setCore_walker (s : State) (k : Nat) (c : Core) : (s.setCore k c).walker = s.walker := rfl
@[simp] theorem State.setCore_fresh (s : State) (k : Nat) (c : Core) : (s.setCore k c).fresh = s.fresh := rfl
@[simp] theorem State.setCore_cycle (s : State) (k : Nat) (c : Core) : (s.setCore k c).cycle = s.cycle := rfl
@[simp] theorem State.setCore_steps (s : State) (k : Nat) (c : Core) : (s.setCore k c).steps = s.steps := rfl
@[simp] theorem State.setCore_agenda (s : State) (k : Nat) (c : Core) : (s.setCore k c).agenda = s.agenda := rfl
@[simp] theorem State.setCore_beat (s : State) (k : Nat) (c : Core) : (s.setCore k c).beat = s.beat := rfl
@[simp] theorem State.setCore_order (s : State) (k : Nat) (c : Core) : (s.setCore k c).order = s.order := rfl
@[simp] theorem State.setCore_defer (s : State) (k : Nat) (c : Core) : (s.setCore k c).defer = s.defer := rfl
@[simp] theorem State.setCore_arg (s : State) (k : Nat) (c : Core) : (s.setCore k c).arg = s.arg := rfl

/-! ### `setDie` -/

@[simp] theorem State.setDie_mem (s : State) (k : Nat) (d : Die) : (s.setDie k d).mem = s.mem := rfl
@[simp] theorem State.setDie_tags (s : State) (k : Nat) (d : Die) : (s.setDie k d).tags = s.tags := rfl
@[simp] theorem State.setDie_full (s : State) (k : Nat) (d : Die) : (s.setDie k d).full = s.full := rfl
@[simp] theorem State.setDie_poison (s : State) (k : Nat) (d : Die) : (s.setDie k d).poison = s.poison := rfl
@[simp] theorem State.setDie_bad (s : State) (k : Nat) (d : Die) : (s.setDie k d).bad = s.bad := rfl
@[simp] theorem State.setDie_fills (s : State) (k : Nat) (d : Die) : (s.setDie k d).fills = s.fills := rfl
@[simp] theorem State.setDie_host (s : State) (k : Nat) (d : Die) : (s.setDie k d).host = s.host := rfl
@[simp] theorem State.setDie_snoop (s : State) (k : Nat) (d : Die) : (s.setDie k d).snoop = s.snoop := rfl
@[simp] theorem State.setDie_g (s : State) (k : Nat) (d : Die) : (s.setDie k d).g = s.g := rfl
@[simp] theorem State.setDie_groups (s : State) (k : Nat) (d : Die) : (s.setDie k d).groups = s.groups := rfl
@[simp] theorem State.setDie_teams (s : State) (k : Nat) (d : Die) : (s.setDie k d).teams = s.teams := rfl
@[simp] theorem State.setDie_cores (s : State) (k : Nat) (d : Die) : (s.setDie k d).cores = s.cores := rfl
@[simp] theorem State.setDie_dies (s : State) (k : Nat) (d : Die) : (s.setDie k d).dies = Store.ins k d s.dies := rfl
@[simp] theorem State.setDie_pkgs (s : State) (k : Nat) (d : Die) : (s.setDie k d).pkgs = s.pkgs := rfl
@[simp] theorem State.setDie_launches (s : State) (k : Nat) (d : Die) : (s.setDie k d).launches = s.launches := rfl
@[simp] theorem State.setDie_homes (s : State) (k : Nat) (d : Die) : (s.setDie k d).homes = s.homes := rfl
@[simp] theorem State.setDie_reports (s : State) (k : Nat) (d : Die) : (s.setDie k d).reports = s.reports := rfl
@[simp] theorem State.setDie_msgs (s : State) (k : Nat) (d : Die) : (s.setDie k d).msgs = s.msgs := rfl
@[simp] theorem State.setDie_colls (s : State) (k : Nat) (d : Die) : (s.setDie k d).colls = s.colls := rfl
@[simp] theorem State.setDie_txns (s : State) (k : Nat) (d : Die) : (s.setDie k d).txns = s.txns := rfl
@[simp] theorem State.setDie_dir (s : State) (k : Nat) (d : Die) : (s.setDie k d).dir = s.dir := rfl
@[simp] theorem State.setDie_held (s : State) (k : Nat) (d : Die) : (s.setDie k d).held = s.held := rfl
@[simp] theorem State.setDie_dirUse (s : State) (k : Nat) (d : Die) : (s.setDie k d).dirUse = s.dirUse := rfl
@[simp] theorem State.setDie_inner (s : State) (k : Nat) (d : Die) : (s.setDie k d).inner = s.inner := rfl
@[simp] theorem State.setDie_lag (s : State) (k : Nat) (d : Die) : (s.setDie k d).lag = s.lag := rfl
@[simp] theorem State.setDie_rels (s : State) (k : Nat) (d : Die) : (s.setDie k d).rels = s.rels := rfl
@[simp] theorem State.setDie_lostRegs (s : State) (k : Nat) (d : Die) : (s.setDie k d).lostRegs = s.lostRegs := rfl
@[simp] theorem State.setDie_scs (s : State) (k : Nat) (d : Die) : (s.setDie k d).scs = s.scs := rfl
@[simp] theorem State.setDie_tlb (s : State) (k : Nat) (d : Die) : (s.setDie k d).tlb = s.tlb := rfl
@[simp] theorem State.setDie_walker (s : State) (k : Nat) (d : Die) : (s.setDie k d).walker = s.walker := rfl
@[simp] theorem State.setDie_fresh (s : State) (k : Nat) (d : Die) : (s.setDie k d).fresh = s.fresh := rfl
@[simp] theorem State.setDie_cycle (s : State) (k : Nat) (d : Die) : (s.setDie k d).cycle = s.cycle := rfl
@[simp] theorem State.setDie_steps (s : State) (k : Nat) (d : Die) : (s.setDie k d).steps = s.steps := rfl
@[simp] theorem State.setDie_agenda (s : State) (k : Nat) (d : Die) : (s.setDie k d).agenda = s.agenda := rfl
@[simp] theorem State.setDie_beat (s : State) (k : Nat) (d : Die) : (s.setDie k d).beat = s.beat := rfl
@[simp] theorem State.setDie_order (s : State) (k : Nat) (d : Die) : (s.setDie k d).order = s.order := rfl
@[simp] theorem State.setDie_defer (s : State) (k : Nat) (d : Die) : (s.setDie k d).defer = s.defer := rfl
@[simp] theorem State.setDie_arg (s : State) (k : Nat) (d : Die) : (s.setDie k d).arg = s.arg := rfl

/-! ### `setPkg` -/

@[simp] theorem State.setPkg_mem (s : State) (k : Nat) (p : Package) : (s.setPkg k p).mem = s.mem := rfl
@[simp] theorem State.setPkg_tags (s : State) (k : Nat) (p : Package) : (s.setPkg k p).tags = s.tags := rfl
@[simp] theorem State.setPkg_full (s : State) (k : Nat) (p : Package) : (s.setPkg k p).full = s.full := rfl
@[simp] theorem State.setPkg_poison (s : State) (k : Nat) (p : Package) : (s.setPkg k p).poison = s.poison := rfl
@[simp] theorem State.setPkg_bad (s : State) (k : Nat) (p : Package) : (s.setPkg k p).bad = s.bad := rfl
@[simp] theorem State.setPkg_fills (s : State) (k : Nat) (p : Package) : (s.setPkg k p).fills = s.fills := rfl
@[simp] theorem State.setPkg_host (s : State) (k : Nat) (p : Package) : (s.setPkg k p).host = s.host := rfl
@[simp] theorem State.setPkg_snoop (s : State) (k : Nat) (p : Package) : (s.setPkg k p).snoop = s.snoop := rfl
@[simp] theorem State.setPkg_g (s : State) (k : Nat) (p : Package) : (s.setPkg k p).g = s.g := rfl
@[simp] theorem State.setPkg_groups (s : State) (k : Nat) (p : Package) : (s.setPkg k p).groups = s.groups := rfl
@[simp] theorem State.setPkg_teams (s : State) (k : Nat) (p : Package) : (s.setPkg k p).teams = s.teams := rfl
@[simp] theorem State.setPkg_cores (s : State) (k : Nat) (p : Package) : (s.setPkg k p).cores = s.cores := rfl
@[simp] theorem State.setPkg_dies (s : State) (k : Nat) (p : Package) : (s.setPkg k p).dies = s.dies := rfl
@[simp] theorem State.setPkg_pkgs (s : State) (k : Nat) (p : Package) : (s.setPkg k p).pkgs = Store.ins k p s.pkgs := rfl
@[simp] theorem State.setPkg_launches (s : State) (k : Nat) (p : Package) : (s.setPkg k p).launches = s.launches := rfl
@[simp] theorem State.setPkg_homes (s : State) (k : Nat) (p : Package) : (s.setPkg k p).homes = s.homes := rfl
@[simp] theorem State.setPkg_reports (s : State) (k : Nat) (p : Package) : (s.setPkg k p).reports = s.reports := rfl
@[simp] theorem State.setPkg_msgs (s : State) (k : Nat) (p : Package) : (s.setPkg k p).msgs = s.msgs := rfl
@[simp] theorem State.setPkg_colls (s : State) (k : Nat) (p : Package) : (s.setPkg k p).colls = s.colls := rfl
@[simp] theorem State.setPkg_txns (s : State) (k : Nat) (p : Package) : (s.setPkg k p).txns = s.txns := rfl
@[simp] theorem State.setPkg_dir (s : State) (k : Nat) (p : Package) : (s.setPkg k p).dir = s.dir := rfl
@[simp] theorem State.setPkg_held (s : State) (k : Nat) (p : Package) : (s.setPkg k p).held = s.held := rfl
@[simp] theorem State.setPkg_dirUse (s : State) (k : Nat) (p : Package) : (s.setPkg k p).dirUse = s.dirUse := rfl
@[simp] theorem State.setPkg_inner (s : State) (k : Nat) (p : Package) : (s.setPkg k p).inner = s.inner := rfl
@[simp] theorem State.setPkg_lag (s : State) (k : Nat) (p : Package) : (s.setPkg k p).lag = s.lag := rfl
@[simp] theorem State.setPkg_rels (s : State) (k : Nat) (p : Package) : (s.setPkg k p).rels = s.rels := rfl
@[simp] theorem State.setPkg_lostRegs (s : State) (k : Nat) (p : Package) : (s.setPkg k p).lostRegs = s.lostRegs := rfl
@[simp] theorem State.setPkg_scs (s : State) (k : Nat) (p : Package) : (s.setPkg k p).scs = s.scs := rfl
@[simp] theorem State.setPkg_tlb (s : State) (k : Nat) (p : Package) : (s.setPkg k p).tlb = s.tlb := rfl
@[simp] theorem State.setPkg_walker (s : State) (k : Nat) (p : Package) : (s.setPkg k p).walker = s.walker := rfl
@[simp] theorem State.setPkg_fresh (s : State) (k : Nat) (p : Package) : (s.setPkg k p).fresh = s.fresh := rfl
@[simp] theorem State.setPkg_cycle (s : State) (k : Nat) (p : Package) : (s.setPkg k p).cycle = s.cycle := rfl
@[simp] theorem State.setPkg_steps (s : State) (k : Nat) (p : Package) : (s.setPkg k p).steps = s.steps := rfl
@[simp] theorem State.setPkg_agenda (s : State) (k : Nat) (p : Package) : (s.setPkg k p).agenda = s.agenda := rfl
@[simp] theorem State.setPkg_beat (s : State) (k : Nat) (p : Package) : (s.setPkg k p).beat = s.beat := rfl
@[simp] theorem State.setPkg_order (s : State) (k : Nat) (p : Package) : (s.setPkg k p).order = s.order := rfl
@[simp] theorem State.setPkg_defer (s : State) (k : Nat) (p : Package) : (s.setPkg k p).defer = s.defer := rfl
@[simp] theorem State.setPkg_arg (s : State) (k : Nat) (p : Package) : (s.setPkg k p).arg = s.arg := rfl

/-! ### `setSysReg` -/

@[simp] theorem State.setSysReg_mem (s : State) (dk n : Nat) (v : DWord) : (s.setSysReg dk n v).mem = s.mem := rfl
@[simp] theorem State.setSysReg_tags (s : State) (dk n : Nat) (v : DWord) : (s.setSysReg dk n v).tags = s.tags := rfl
@[simp] theorem State.setSysReg_full (s : State) (dk n : Nat) (v : DWord) : (s.setSysReg dk n v).full = s.full := rfl
@[simp] theorem State.setSysReg_poison (s : State) (dk n : Nat) (v : DWord) : (s.setSysReg dk n v).poison = s.poison := rfl
@[simp] theorem State.setSysReg_bad (s : State) (dk n : Nat) (v : DWord) : (s.setSysReg dk n v).bad = s.bad := rfl
@[simp] theorem State.setSysReg_fills (s : State) (dk n : Nat) (v : DWord) : (s.setSysReg dk n v).fills = s.fills := rfl
@[simp] theorem State.setSysReg_host (s : State) (dk n : Nat) (v : DWord) : (s.setSysReg dk n v).host = s.host := rfl
@[simp] theorem State.setSysReg_snoop (s : State) (dk n : Nat) (v : DWord) : (s.setSysReg dk n v).snoop = s.snoop := rfl
@[simp] theorem State.setSysReg_g (s : State) (dk n : Nat) (v : DWord) : (s.setSysReg dk n v).g = s.g := rfl
@[simp] theorem State.setSysReg_groups (s : State) (dk n : Nat) (v : DWord) : (s.setSysReg dk n v).groups = s.groups := rfl
@[simp] theorem State.setSysReg_teams (s : State) (dk n : Nat) (v : DWord) : (s.setSysReg dk n v).teams = s.teams := rfl
@[simp] theorem State.setSysReg_cores (s : State) (dk n : Nat) (v : DWord) : (s.setSysReg dk n v).cores = s.cores := rfl
@[simp] theorem State.setSysReg_pkgs (s : State) (dk n : Nat) (v : DWord) : (s.setSysReg dk n v).pkgs = s.pkgs := rfl
@[simp] theorem State.setSysReg_launches (s : State) (dk n : Nat) (v : DWord) : (s.setSysReg dk n v).launches = s.launches := rfl
@[simp] theorem State.setSysReg_homes (s : State) (dk n : Nat) (v : DWord) : (s.setSysReg dk n v).homes = s.homes := rfl
@[simp] theorem State.setSysReg_reports (s : State) (dk n : Nat) (v : DWord) : (s.setSysReg dk n v).reports = s.reports := rfl
@[simp] theorem State.setSysReg_msgs (s : State) (dk n : Nat) (v : DWord) : (s.setSysReg dk n v).msgs = s.msgs := rfl
@[simp] theorem State.setSysReg_colls (s : State) (dk n : Nat) (v : DWord) : (s.setSysReg dk n v).colls = s.colls := rfl
@[simp] theorem State.setSysReg_txns (s : State) (dk n : Nat) (v : DWord) : (s.setSysReg dk n v).txns = s.txns := rfl
@[simp] theorem State.setSysReg_dir (s : State) (dk n : Nat) (v : DWord) : (s.setSysReg dk n v).dir = s.dir := rfl
@[simp] theorem State.setSysReg_held (s : State) (dk n : Nat) (v : DWord) : (s.setSysReg dk n v).held = s.held := rfl
@[simp] theorem State.setSysReg_dirUse (s : State) (dk n : Nat) (v : DWord) : (s.setSysReg dk n v).dirUse = s.dirUse := rfl
@[simp] theorem State.setSysReg_inner (s : State) (dk n : Nat) (v : DWord) : (s.setSysReg dk n v).inner = s.inner := rfl
@[simp] theorem State.setSysReg_lag (s : State) (dk n : Nat) (v : DWord) : (s.setSysReg dk n v).lag = s.lag := rfl
@[simp] theorem State.setSysReg_rels (s : State) (dk n : Nat) (v : DWord) : (s.setSysReg dk n v).rels = s.rels := rfl
@[simp] theorem State.setSysReg_lostRegs (s : State) (dk n : Nat) (v : DWord) : (s.setSysReg dk n v).lostRegs = s.lostRegs := rfl
@[simp] theorem State.setSysReg_scs (s : State) (dk n : Nat) (v : DWord) : (s.setSysReg dk n v).scs = s.scs := rfl
@[simp] theorem State.setSysReg_tlb (s : State) (dk n : Nat) (v : DWord) : (s.setSysReg dk n v).tlb = s.tlb := rfl
@[simp] theorem State.setSysReg_walker (s : State) (dk n : Nat) (v : DWord) : (s.setSysReg dk n v).walker = s.walker := rfl
@[simp] theorem State.setSysReg_fresh (s : State) (dk n : Nat) (v : DWord) : (s.setSysReg dk n v).fresh = s.fresh := rfl
@[simp] theorem State.setSysReg_cycle (s : State) (dk n : Nat) (v : DWord) : (s.setSysReg dk n v).cycle = s.cycle := rfl
@[simp] theorem State.setSysReg_steps (s : State) (dk n : Nat) (v : DWord) : (s.setSysReg dk n v).steps = s.steps := rfl
@[simp] theorem State.setSysReg_agenda (s : State) (dk n : Nat) (v : DWord) : (s.setSysReg dk n v).agenda = s.agenda := rfl
@[simp] theorem State.setSysReg_beat (s : State) (dk n : Nat) (v : DWord) : (s.setSysReg dk n v).beat = s.beat := rfl
@[simp] theorem State.setSysReg_order (s : State) (dk n : Nat) (v : DWord) : (s.setSysReg dk n v).order = s.order := rfl
@[simp] theorem State.setSysReg_defer (s : State) (dk n : Nat) (v : DWord) : (s.setSysReg dk n v).defer = s.defer := rfl
@[simp] theorem State.setSysReg_arg (s : State) (dk n : Nat) (v : DWord) : (s.setSysReg dk n v).arg = s.arg := rfl

/-! ### `setDev` -/

@[simp] theorem State.setDev_mem (s : State) (dk off : Nat) (v : DWord) : (s.setDev dk off v).mem = s.mem := rfl
@[simp] theorem State.setDev_tags (s : State) (dk off : Nat) (v : DWord) : (s.setDev dk off v).tags = s.tags := rfl
@[simp] theorem State.setDev_full (s : State) (dk off : Nat) (v : DWord) : (s.setDev dk off v).full = s.full := rfl
@[simp] theorem State.setDev_poison (s : State) (dk off : Nat) (v : DWord) : (s.setDev dk off v).poison = s.poison := rfl
@[simp] theorem State.setDev_bad (s : State) (dk off : Nat) (v : DWord) : (s.setDev dk off v).bad = s.bad := rfl
@[simp] theorem State.setDev_fills (s : State) (dk off : Nat) (v : DWord) : (s.setDev dk off v).fills = s.fills := rfl
@[simp] theorem State.setDev_host (s : State) (dk off : Nat) (v : DWord) : (s.setDev dk off v).host = s.host := rfl
@[simp] theorem State.setDev_snoop (s : State) (dk off : Nat) (v : DWord) : (s.setDev dk off v).snoop = s.snoop := rfl
@[simp] theorem State.setDev_g (s : State) (dk off : Nat) (v : DWord) : (s.setDev dk off v).g = s.g := rfl
@[simp] theorem State.setDev_groups (s : State) (dk off : Nat) (v : DWord) : (s.setDev dk off v).groups = s.groups := rfl
@[simp] theorem State.setDev_teams (s : State) (dk off : Nat) (v : DWord) : (s.setDev dk off v).teams = s.teams := rfl
@[simp] theorem State.setDev_cores (s : State) (dk off : Nat) (v : DWord) : (s.setDev dk off v).cores = s.cores := rfl
@[simp] theorem State.setDev_pkgs (s : State) (dk off : Nat) (v : DWord) : (s.setDev dk off v).pkgs = s.pkgs := rfl
@[simp] theorem State.setDev_launches (s : State) (dk off : Nat) (v : DWord) : (s.setDev dk off v).launches = s.launches := rfl
@[simp] theorem State.setDev_homes (s : State) (dk off : Nat) (v : DWord) : (s.setDev dk off v).homes = s.homes := rfl
@[simp] theorem State.setDev_reports (s : State) (dk off : Nat) (v : DWord) : (s.setDev dk off v).reports = s.reports := rfl
@[simp] theorem State.setDev_msgs (s : State) (dk off : Nat) (v : DWord) : (s.setDev dk off v).msgs = s.msgs := rfl
@[simp] theorem State.setDev_colls (s : State) (dk off : Nat) (v : DWord) : (s.setDev dk off v).colls = s.colls := rfl
@[simp] theorem State.setDev_txns (s : State) (dk off : Nat) (v : DWord) : (s.setDev dk off v).txns = s.txns := rfl
@[simp] theorem State.setDev_dir (s : State) (dk off : Nat) (v : DWord) : (s.setDev dk off v).dir = s.dir := rfl
@[simp] theorem State.setDev_held (s : State) (dk off : Nat) (v : DWord) : (s.setDev dk off v).held = s.held := rfl
@[simp] theorem State.setDev_dirUse (s : State) (dk off : Nat) (v : DWord) : (s.setDev dk off v).dirUse = s.dirUse := rfl
@[simp] theorem State.setDev_inner (s : State) (dk off : Nat) (v : DWord) : (s.setDev dk off v).inner = s.inner := rfl
@[simp] theorem State.setDev_lag (s : State) (dk off : Nat) (v : DWord) : (s.setDev dk off v).lag = s.lag := rfl
@[simp] theorem State.setDev_rels (s : State) (dk off : Nat) (v : DWord) : (s.setDev dk off v).rels = s.rels := rfl
@[simp] theorem State.setDev_lostRegs (s : State) (dk off : Nat) (v : DWord) : (s.setDev dk off v).lostRegs = s.lostRegs := rfl
@[simp] theorem State.setDev_scs (s : State) (dk off : Nat) (v : DWord) : (s.setDev dk off v).scs = s.scs := rfl
@[simp] theorem State.setDev_tlb (s : State) (dk off : Nat) (v : DWord) : (s.setDev dk off v).tlb = s.tlb := rfl
@[simp] theorem State.setDev_walker (s : State) (dk off : Nat) (v : DWord) : (s.setDev dk off v).walker = s.walker := rfl
@[simp] theorem State.setDev_fresh (s : State) (dk off : Nat) (v : DWord) : (s.setDev dk off v).fresh = s.fresh := rfl
@[simp] theorem State.setDev_cycle (s : State) (dk off : Nat) (v : DWord) : (s.setDev dk off v).cycle = s.cycle := rfl
@[simp] theorem State.setDev_steps (s : State) (dk off : Nat) (v : DWord) : (s.setDev dk off v).steps = s.steps := rfl
@[simp] theorem State.setDev_agenda (s : State) (dk off : Nat) (v : DWord) : (s.setDev dk off v).agenda = s.agenda := rfl
@[simp] theorem State.setDev_beat (s : State) (dk off : Nat) (v : DWord) : (s.setDev dk off v).beat = s.beat := rfl
@[simp] theorem State.setDev_order (s : State) (dk off : Nat) (v : DWord) : (s.setDev dk off v).order = s.order := rfl
@[simp] theorem State.setDev_defer (s : State) (dk off : Nat) (v : DWord) : (s.setDev dk off v).defer = s.defer := rfl
@[simp] theorem State.setDev_arg (s : State) (dk off : Nat) (v : DWord) : (s.setDev dk off v).arg = s.arg := rfl

/-! ### `setCoreSys` -/

@[simp] theorem State.setCoreSys_mem (s : State) (ck n : Nat) (v : DWord) : (s.setCoreSys ck n v).mem = s.mem := rfl
@[simp] theorem State.setCoreSys_tags (s : State) (ck n : Nat) (v : DWord) : (s.setCoreSys ck n v).tags = s.tags := rfl
@[simp] theorem State.setCoreSys_full (s : State) (ck n : Nat) (v : DWord) : (s.setCoreSys ck n v).full = s.full := rfl
@[simp] theorem State.setCoreSys_poison (s : State) (ck n : Nat) (v : DWord) : (s.setCoreSys ck n v).poison = s.poison := rfl
@[simp] theorem State.setCoreSys_bad (s : State) (ck n : Nat) (v : DWord) : (s.setCoreSys ck n v).bad = s.bad := rfl
@[simp] theorem State.setCoreSys_fills (s : State) (ck n : Nat) (v : DWord) : (s.setCoreSys ck n v).fills = s.fills := rfl
@[simp] theorem State.setCoreSys_host (s : State) (ck n : Nat) (v : DWord) : (s.setCoreSys ck n v).host = s.host := rfl
@[simp] theorem State.setCoreSys_snoop (s : State) (ck n : Nat) (v : DWord) : (s.setCoreSys ck n v).snoop = s.snoop := rfl
@[simp] theorem State.setCoreSys_g (s : State) (ck n : Nat) (v : DWord) : (s.setCoreSys ck n v).g = s.g := rfl
@[simp] theorem State.setCoreSys_groups (s : State) (ck n : Nat) (v : DWord) : (s.setCoreSys ck n v).groups = s.groups := rfl
@[simp] theorem State.setCoreSys_teams (s : State) (ck n : Nat) (v : DWord) : (s.setCoreSys ck n v).teams = s.teams := rfl
@[simp] theorem State.setCoreSys_dies (s : State) (ck n : Nat) (v : DWord) : (s.setCoreSys ck n v).dies = s.dies := rfl
@[simp] theorem State.setCoreSys_pkgs (s : State) (ck n : Nat) (v : DWord) : (s.setCoreSys ck n v).pkgs = s.pkgs := rfl
@[simp] theorem State.setCoreSys_launches (s : State) (ck n : Nat) (v : DWord) : (s.setCoreSys ck n v).launches = s.launches := rfl
@[simp] theorem State.setCoreSys_homes (s : State) (ck n : Nat) (v : DWord) : (s.setCoreSys ck n v).homes = s.homes := rfl
@[simp] theorem State.setCoreSys_reports (s : State) (ck n : Nat) (v : DWord) : (s.setCoreSys ck n v).reports = s.reports := rfl
@[simp] theorem State.setCoreSys_msgs (s : State) (ck n : Nat) (v : DWord) : (s.setCoreSys ck n v).msgs = s.msgs := rfl
@[simp] theorem State.setCoreSys_colls (s : State) (ck n : Nat) (v : DWord) : (s.setCoreSys ck n v).colls = s.colls := rfl
@[simp] theorem State.setCoreSys_txns (s : State) (ck n : Nat) (v : DWord) : (s.setCoreSys ck n v).txns = s.txns := rfl
@[simp] theorem State.setCoreSys_dir (s : State) (ck n : Nat) (v : DWord) : (s.setCoreSys ck n v).dir = s.dir := rfl
@[simp] theorem State.setCoreSys_held (s : State) (ck n : Nat) (v : DWord) : (s.setCoreSys ck n v).held = s.held := rfl
@[simp] theorem State.setCoreSys_dirUse (s : State) (ck n : Nat) (v : DWord) : (s.setCoreSys ck n v).dirUse = s.dirUse := rfl
@[simp] theorem State.setCoreSys_inner (s : State) (ck n : Nat) (v : DWord) : (s.setCoreSys ck n v).inner = s.inner := rfl
@[simp] theorem State.setCoreSys_lag (s : State) (ck n : Nat) (v : DWord) : (s.setCoreSys ck n v).lag = s.lag := rfl
@[simp] theorem State.setCoreSys_rels (s : State) (ck n : Nat) (v : DWord) : (s.setCoreSys ck n v).rels = s.rels := rfl
@[simp] theorem State.setCoreSys_lostRegs (s : State) (ck n : Nat) (v : DWord) : (s.setCoreSys ck n v).lostRegs = s.lostRegs := rfl
@[simp] theorem State.setCoreSys_scs (s : State) (ck n : Nat) (v : DWord) : (s.setCoreSys ck n v).scs = s.scs := rfl
@[simp] theorem State.setCoreSys_tlb (s : State) (ck n : Nat) (v : DWord) : (s.setCoreSys ck n v).tlb = s.tlb := rfl
@[simp] theorem State.setCoreSys_walker (s : State) (ck n : Nat) (v : DWord) : (s.setCoreSys ck n v).walker = s.walker := rfl
@[simp] theorem State.setCoreSys_fresh (s : State) (ck n : Nat) (v : DWord) : (s.setCoreSys ck n v).fresh = s.fresh := rfl
@[simp] theorem State.setCoreSys_cycle (s : State) (ck n : Nat) (v : DWord) : (s.setCoreSys ck n v).cycle = s.cycle := rfl
@[simp] theorem State.setCoreSys_steps (s : State) (ck n : Nat) (v : DWord) : (s.setCoreSys ck n v).steps = s.steps := rfl
@[simp] theorem State.setCoreSys_agenda (s : State) (ck n : Nat) (v : DWord) : (s.setCoreSys ck n v).agenda = s.agenda := rfl
@[simp] theorem State.setCoreSys_beat (s : State) (ck n : Nat) (v : DWord) : (s.setCoreSys ck n v).beat = s.beat := rfl
@[simp] theorem State.setCoreSys_order (s : State) (ck n : Nat) (v : DWord) : (s.setCoreSys ck n v).order = s.order := rfl
@[simp] theorem State.setCoreSys_defer (s : State) (ck n : Nat) (v : DWord) : (s.setCoreSys ck n v).defer = s.defer := rfl
@[simp] theorem State.setCoreSys_arg (s : State) (ck n : Nat) (v : DWord) : (s.setCoreSys ck n v).arg = s.arg := rfl

/-! ### `setByte` -/

@[simp] theorem State.setByte_mem (s : State) (ga : Nat) (b : Byte) : (s.setByte ga b).mem = Store.put memDefault ga b s.mem := rfl
@[simp] theorem State.setByte_tags (s : State) (ga : Nat) (b : Byte) : (s.setByte ga b).tags = s.tags := rfl
@[simp] theorem State.setByte_full (s : State) (ga : Nat) (b : Byte) : (s.setByte ga b).full = s.full := rfl
@[simp] theorem State.setByte_poison (s : State) (ga : Nat) (b : Byte) : (s.setByte ga b).poison = s.poison := rfl
@[simp] theorem State.setByte_bad (s : State) (ga : Nat) (b : Byte) : (s.setByte ga b).bad = s.bad := rfl
@[simp] theorem State.setByte_fills (s : State) (ga : Nat) (b : Byte) : (s.setByte ga b).fills = s.fills := rfl
@[simp] theorem State.setByte_host (s : State) (ga : Nat) (b : Byte) : (s.setByte ga b).host = s.host := rfl
@[simp] theorem State.setByte_snoop (s : State) (ga : Nat) (b : Byte) : (s.setByte ga b).snoop = s.snoop := rfl
@[simp] theorem State.setByte_g (s : State) (ga : Nat) (b : Byte) : (s.setByte ga b).g = s.g := rfl
@[simp] theorem State.setByte_groups (s : State) (ga : Nat) (b : Byte) : (s.setByte ga b).groups = s.groups := rfl
@[simp] theorem State.setByte_teams (s : State) (ga : Nat) (b : Byte) : (s.setByte ga b).teams = s.teams := rfl
@[simp] theorem State.setByte_cores (s : State) (ga : Nat) (b : Byte) : (s.setByte ga b).cores = s.cores := rfl
@[simp] theorem State.setByte_dies (s : State) (ga : Nat) (b : Byte) : (s.setByte ga b).dies = s.dies := rfl
@[simp] theorem State.setByte_pkgs (s : State) (ga : Nat) (b : Byte) : (s.setByte ga b).pkgs = s.pkgs := rfl
@[simp] theorem State.setByte_launches (s : State) (ga : Nat) (b : Byte) : (s.setByte ga b).launches = s.launches := rfl
@[simp] theorem State.setByte_homes (s : State) (ga : Nat) (b : Byte) : (s.setByte ga b).homes = s.homes := rfl
@[simp] theorem State.setByte_reports (s : State) (ga : Nat) (b : Byte) : (s.setByte ga b).reports = s.reports := rfl
@[simp] theorem State.setByte_msgs (s : State) (ga : Nat) (b : Byte) : (s.setByte ga b).msgs = s.msgs := rfl
@[simp] theorem State.setByte_colls (s : State) (ga : Nat) (b : Byte) : (s.setByte ga b).colls = s.colls := rfl
@[simp] theorem State.setByte_txns (s : State) (ga : Nat) (b : Byte) : (s.setByte ga b).txns = s.txns := rfl
@[simp] theorem State.setByte_dir (s : State) (ga : Nat) (b : Byte) : (s.setByte ga b).dir = s.dir := rfl
@[simp] theorem State.setByte_held (s : State) (ga : Nat) (b : Byte) : (s.setByte ga b).held = s.held := rfl
@[simp] theorem State.setByte_dirUse (s : State) (ga : Nat) (b : Byte) : (s.setByte ga b).dirUse = s.dirUse := rfl
@[simp] theorem State.setByte_inner (s : State) (ga : Nat) (b : Byte) : (s.setByte ga b).inner = s.inner := rfl
@[simp] theorem State.setByte_lag (s : State) (ga : Nat) (b : Byte) : (s.setByte ga b).lag = s.lag := rfl
@[simp] theorem State.setByte_rels (s : State) (ga : Nat) (b : Byte) : (s.setByte ga b).rels = s.rels := rfl
@[simp] theorem State.setByte_lostRegs (s : State) (ga : Nat) (b : Byte) : (s.setByte ga b).lostRegs = s.lostRegs := rfl
@[simp] theorem State.setByte_scs (s : State) (ga : Nat) (b : Byte) : (s.setByte ga b).scs = s.scs := rfl
@[simp] theorem State.setByte_tlb (s : State) (ga : Nat) (b : Byte) : (s.setByte ga b).tlb = s.tlb := rfl
@[simp] theorem State.setByte_walker (s : State) (ga : Nat) (b : Byte) : (s.setByte ga b).walker = s.walker := rfl
@[simp] theorem State.setByte_fresh (s : State) (ga : Nat) (b : Byte) : (s.setByte ga b).fresh = s.fresh := rfl
@[simp] theorem State.setByte_cycle (s : State) (ga : Nat) (b : Byte) : (s.setByte ga b).cycle = s.cycle := rfl
@[simp] theorem State.setByte_steps (s : State) (ga : Nat) (b : Byte) : (s.setByte ga b).steps = s.steps := rfl
@[simp] theorem State.setByte_agenda (s : State) (ga : Nat) (b : Byte) : (s.setByte ga b).agenda = s.agenda := rfl
@[simp] theorem State.setByte_beat (s : State) (ga : Nat) (b : Byte) : (s.setByte ga b).beat = s.beat := rfl
@[simp] theorem State.setByte_order (s : State) (ga : Nat) (b : Byte) : (s.setByte ga b).order = s.order := rfl
@[simp] theorem State.setByte_defer (s : State) (ga : Nat) (b : Byte) : (s.setByte ga b).defer = s.defer := rfl
@[simp] theorem State.setByte_arg (s : State) (ga : Nat) (b : Byte) : (s.setByte ga b).arg = s.arg := rfl

/-! ### `setHostByte` -/

@[simp] theorem State.setHostByte_mem (s : State) (k : Nat) (b : Byte) : (s.setHostByte k b).mem = s.mem := rfl
@[simp] theorem State.setHostByte_tags (s : State) (k : Nat) (b : Byte) : (s.setHostByte k b).tags = s.tags := rfl
@[simp] theorem State.setHostByte_full (s : State) (k : Nat) (b : Byte) : (s.setHostByte k b).full = s.full := rfl
@[simp] theorem State.setHostByte_poison (s : State) (k : Nat) (b : Byte) : (s.setHostByte k b).poison = s.poison := rfl
@[simp] theorem State.setHostByte_bad (s : State) (k : Nat) (b : Byte) : (s.setHostByte k b).bad = s.bad := rfl
@[simp] theorem State.setHostByte_fills (s : State) (k : Nat) (b : Byte) : (s.setHostByte k b).fills = s.fills := rfl
@[simp] theorem State.setHostByte_host (s : State) (k : Nat) (b : Byte) : (s.setHostByte k b).host = Store.put hostDefault k b s.host := rfl
@[simp] theorem State.setHostByte_snoop (s : State) (k : Nat) (b : Byte) : (s.setHostByte k b).snoop = s.snoop := rfl
@[simp] theorem State.setHostByte_g (s : State) (k : Nat) (b : Byte) : (s.setHostByte k b).g = s.g := rfl
@[simp] theorem State.setHostByte_groups (s : State) (k : Nat) (b : Byte) : (s.setHostByte k b).groups = s.groups := rfl
@[simp] theorem State.setHostByte_teams (s : State) (k : Nat) (b : Byte) : (s.setHostByte k b).teams = s.teams := rfl
@[simp] theorem State.setHostByte_cores (s : State) (k : Nat) (b : Byte) : (s.setHostByte k b).cores = s.cores := rfl
@[simp] theorem State.setHostByte_dies (s : State) (k : Nat) (b : Byte) : (s.setHostByte k b).dies = s.dies := rfl
@[simp] theorem State.setHostByte_pkgs (s : State) (k : Nat) (b : Byte) : (s.setHostByte k b).pkgs = s.pkgs := rfl
@[simp] theorem State.setHostByte_launches (s : State) (k : Nat) (b : Byte) : (s.setHostByte k b).launches = s.launches := rfl
@[simp] theorem State.setHostByte_homes (s : State) (k : Nat) (b : Byte) : (s.setHostByte k b).homes = s.homes := rfl
@[simp] theorem State.setHostByte_reports (s : State) (k : Nat) (b : Byte) : (s.setHostByte k b).reports = s.reports := rfl
@[simp] theorem State.setHostByte_msgs (s : State) (k : Nat) (b : Byte) : (s.setHostByte k b).msgs = s.msgs := rfl
@[simp] theorem State.setHostByte_colls (s : State) (k : Nat) (b : Byte) : (s.setHostByte k b).colls = s.colls := rfl
@[simp] theorem State.setHostByte_txns (s : State) (k : Nat) (b : Byte) : (s.setHostByte k b).txns = s.txns := rfl
@[simp] theorem State.setHostByte_dir (s : State) (k : Nat) (b : Byte) : (s.setHostByte k b).dir = s.dir := rfl
@[simp] theorem State.setHostByte_held (s : State) (k : Nat) (b : Byte) : (s.setHostByte k b).held = s.held := rfl
@[simp] theorem State.setHostByte_dirUse (s : State) (k : Nat) (b : Byte) : (s.setHostByte k b).dirUse = s.dirUse := rfl
@[simp] theorem State.setHostByte_inner (s : State) (k : Nat) (b : Byte) : (s.setHostByte k b).inner = s.inner := rfl
@[simp] theorem State.setHostByte_lag (s : State) (k : Nat) (b : Byte) : (s.setHostByte k b).lag = s.lag := rfl
@[simp] theorem State.setHostByte_rels (s : State) (k : Nat) (b : Byte) : (s.setHostByte k b).rels = s.rels := rfl
@[simp] theorem State.setHostByte_lostRegs (s : State) (k : Nat) (b : Byte) : (s.setHostByte k b).lostRegs = s.lostRegs := rfl
@[simp] theorem State.setHostByte_scs (s : State) (k : Nat) (b : Byte) : (s.setHostByte k b).scs = s.scs := rfl
@[simp] theorem State.setHostByte_tlb (s : State) (k : Nat) (b : Byte) : (s.setHostByte k b).tlb = s.tlb := rfl
@[simp] theorem State.setHostByte_walker (s : State) (k : Nat) (b : Byte) : (s.setHostByte k b).walker = s.walker := rfl
@[simp] theorem State.setHostByte_fresh (s : State) (k : Nat) (b : Byte) : (s.setHostByte k b).fresh = s.fresh := rfl
@[simp] theorem State.setHostByte_cycle (s : State) (k : Nat) (b : Byte) : (s.setHostByte k b).cycle = s.cycle := rfl
@[simp] theorem State.setHostByte_steps (s : State) (k : Nat) (b : Byte) : (s.setHostByte k b).steps = s.steps := rfl
@[simp] theorem State.setHostByte_agenda (s : State) (k : Nat) (b : Byte) : (s.setHostByte k b).agenda = s.agenda := rfl
@[simp] theorem State.setHostByte_beat (s : State) (k : Nat) (b : Byte) : (s.setHostByte k b).beat = s.beat := rfl
@[simp] theorem State.setHostByte_order (s : State) (k : Nat) (b : Byte) : (s.setHostByte k b).order = s.order := rfl
@[simp] theorem State.setHostByte_defer (s : State) (k : Nat) (b : Byte) : (s.setHostByte k b).defer = s.defer := rfl
@[simp] theorem State.setHostByte_arg (s : State) (k : Nat) (b : Byte) : (s.setHostByte k b).arg = s.arg := rfl

/-! ### `setFull` -/

@[simp] theorem State.setFull_mem (s : State) (k : Nat) (b : Bool) : (s.setFull k b).mem = s.mem := rfl
@[simp] theorem State.setFull_tags (s : State) (k : Nat) (b : Bool) : (s.setFull k b).tags = s.tags := rfl
@[simp] theorem State.setFull_full (s : State) (k : Nat) (b : Bool) : (s.setFull k b).full = Store.put (fun _ => false) k b s.full := rfl
@[simp] theorem State.setFull_poison (s : State) (k : Nat) (b : Bool) : (s.setFull k b).poison = s.poison := rfl
@[simp] theorem State.setFull_bad (s : State) (k : Nat) (b : Bool) : (s.setFull k b).bad = s.bad := rfl
@[simp] theorem State.setFull_fills (s : State) (k : Nat) (b : Bool) : (s.setFull k b).fills = s.fills := rfl
@[simp] theorem State.setFull_host (s : State) (k : Nat) (b : Bool) : (s.setFull k b).host = s.host := rfl
@[simp] theorem State.setFull_snoop (s : State) (k : Nat) (b : Bool) : (s.setFull k b).snoop = s.snoop := rfl
@[simp] theorem State.setFull_g (s : State) (k : Nat) (b : Bool) : (s.setFull k b).g = s.g := rfl
@[simp] theorem State.setFull_groups (s : State) (k : Nat) (b : Bool) : (s.setFull k b).groups = s.groups := rfl
@[simp] theorem State.setFull_teams (s : State) (k : Nat) (b : Bool) : (s.setFull k b).teams = s.teams := rfl
@[simp] theorem State.setFull_cores (s : State) (k : Nat) (b : Bool) : (s.setFull k b).cores = s.cores := rfl
@[simp] theorem State.setFull_dies (s : State) (k : Nat) (b : Bool) : (s.setFull k b).dies = s.dies := rfl
@[simp] theorem State.setFull_pkgs (s : State) (k : Nat) (b : Bool) : (s.setFull k b).pkgs = s.pkgs := rfl
@[simp] theorem State.setFull_launches (s : State) (k : Nat) (b : Bool) : (s.setFull k b).launches = s.launches := rfl
@[simp] theorem State.setFull_homes (s : State) (k : Nat) (b : Bool) : (s.setFull k b).homes = s.homes := rfl
@[simp] theorem State.setFull_reports (s : State) (k : Nat) (b : Bool) : (s.setFull k b).reports = s.reports := rfl
@[simp] theorem State.setFull_msgs (s : State) (k : Nat) (b : Bool) : (s.setFull k b).msgs = s.msgs := rfl
@[simp] theorem State.setFull_colls (s : State) (k : Nat) (b : Bool) : (s.setFull k b).colls = s.colls := rfl
@[simp] theorem State.setFull_txns (s : State) (k : Nat) (b : Bool) : (s.setFull k b).txns = s.txns := rfl
@[simp] theorem State.setFull_dir (s : State) (k : Nat) (b : Bool) : (s.setFull k b).dir = s.dir := rfl
@[simp] theorem State.setFull_held (s : State) (k : Nat) (b : Bool) : (s.setFull k b).held = s.held := rfl
@[simp] theorem State.setFull_dirUse (s : State) (k : Nat) (b : Bool) : (s.setFull k b).dirUse = s.dirUse := rfl
@[simp] theorem State.setFull_inner (s : State) (k : Nat) (b : Bool) : (s.setFull k b).inner = s.inner := rfl
@[simp] theorem State.setFull_lag (s : State) (k : Nat) (b : Bool) : (s.setFull k b).lag = s.lag := rfl
@[simp] theorem State.setFull_rels (s : State) (k : Nat) (b : Bool) : (s.setFull k b).rels = s.rels := rfl
@[simp] theorem State.setFull_lostRegs (s : State) (k : Nat) (b : Bool) : (s.setFull k b).lostRegs = s.lostRegs := rfl
@[simp] theorem State.setFull_scs (s : State) (k : Nat) (b : Bool) : (s.setFull k b).scs = s.scs := rfl
@[simp] theorem State.setFull_tlb (s : State) (k : Nat) (b : Bool) : (s.setFull k b).tlb = s.tlb := rfl
@[simp] theorem State.setFull_walker (s : State) (k : Nat) (b : Bool) : (s.setFull k b).walker = s.walker := rfl
@[simp] theorem State.setFull_fresh (s : State) (k : Nat) (b : Bool) : (s.setFull k b).fresh = s.fresh := rfl
@[simp] theorem State.setFull_cycle (s : State) (k : Nat) (b : Bool) : (s.setFull k b).cycle = s.cycle := rfl
@[simp] theorem State.setFull_steps (s : State) (k : Nat) (b : Bool) : (s.setFull k b).steps = s.steps := rfl
@[simp] theorem State.setFull_agenda (s : State) (k : Nat) (b : Bool) : (s.setFull k b).agenda = s.agenda := rfl
@[simp] theorem State.setFull_beat (s : State) (k : Nat) (b : Bool) : (s.setFull k b).beat = s.beat := rfl
@[simp] theorem State.setFull_order (s : State) (k : Nat) (b : Bool) : (s.setFull k b).order = s.order := rfl
@[simp] theorem State.setFull_defer (s : State) (k : Nat) (b : Bool) : (s.setFull k b).defer = s.defer := rfl
@[simp] theorem State.setFull_arg (s : State) (k : Nat) (b : Bool) : (s.setFull k b).arg = s.arg := rfl

/-! ### `setTag` -/

@[simp] theorem State.setTag_mem (s : State) (k : Nat) (t : BitVec 4) : (s.setTag k t).mem = s.mem := rfl
@[simp] theorem State.setTag_tags (s : State) (k : Nat) (t : BitVec 4) : (s.setTag k t).tags = Store.put (fun _ => 0#4) k t s.tags := rfl
@[simp] theorem State.setTag_full (s : State) (k : Nat) (t : BitVec 4) : (s.setTag k t).full = s.full := rfl
@[simp] theorem State.setTag_poison (s : State) (k : Nat) (t : BitVec 4) : (s.setTag k t).poison = s.poison := rfl
@[simp] theorem State.setTag_bad (s : State) (k : Nat) (t : BitVec 4) : (s.setTag k t).bad = s.bad := rfl
@[simp] theorem State.setTag_fills (s : State) (k : Nat) (t : BitVec 4) : (s.setTag k t).fills = s.fills := rfl
@[simp] theorem State.setTag_host (s : State) (k : Nat) (t : BitVec 4) : (s.setTag k t).host = s.host := rfl
@[simp] theorem State.setTag_snoop (s : State) (k : Nat) (t : BitVec 4) : (s.setTag k t).snoop = s.snoop := rfl
@[simp] theorem State.setTag_g (s : State) (k : Nat) (t : BitVec 4) : (s.setTag k t).g = s.g := rfl
@[simp] theorem State.setTag_groups (s : State) (k : Nat) (t : BitVec 4) : (s.setTag k t).groups = s.groups := rfl
@[simp] theorem State.setTag_teams (s : State) (k : Nat) (t : BitVec 4) : (s.setTag k t).teams = s.teams := rfl
@[simp] theorem State.setTag_cores (s : State) (k : Nat) (t : BitVec 4) : (s.setTag k t).cores = s.cores := rfl
@[simp] theorem State.setTag_dies (s : State) (k : Nat) (t : BitVec 4) : (s.setTag k t).dies = s.dies := rfl
@[simp] theorem State.setTag_pkgs (s : State) (k : Nat) (t : BitVec 4) : (s.setTag k t).pkgs = s.pkgs := rfl
@[simp] theorem State.setTag_launches (s : State) (k : Nat) (t : BitVec 4) : (s.setTag k t).launches = s.launches := rfl
@[simp] theorem State.setTag_homes (s : State) (k : Nat) (t : BitVec 4) : (s.setTag k t).homes = s.homes := rfl
@[simp] theorem State.setTag_reports (s : State) (k : Nat) (t : BitVec 4) : (s.setTag k t).reports = s.reports := rfl
@[simp] theorem State.setTag_msgs (s : State) (k : Nat) (t : BitVec 4) : (s.setTag k t).msgs = s.msgs := rfl
@[simp] theorem State.setTag_colls (s : State) (k : Nat) (t : BitVec 4) : (s.setTag k t).colls = s.colls := rfl
@[simp] theorem State.setTag_txns (s : State) (k : Nat) (t : BitVec 4) : (s.setTag k t).txns = s.txns := rfl
@[simp] theorem State.setTag_dir (s : State) (k : Nat) (t : BitVec 4) : (s.setTag k t).dir = s.dir := rfl
@[simp] theorem State.setTag_held (s : State) (k : Nat) (t : BitVec 4) : (s.setTag k t).held = s.held := rfl
@[simp] theorem State.setTag_dirUse (s : State) (k : Nat) (t : BitVec 4) : (s.setTag k t).dirUse = s.dirUse := rfl
@[simp] theorem State.setTag_inner (s : State) (k : Nat) (t : BitVec 4) : (s.setTag k t).inner = s.inner := rfl
@[simp] theorem State.setTag_lag (s : State) (k : Nat) (t : BitVec 4) : (s.setTag k t).lag = s.lag := rfl
@[simp] theorem State.setTag_rels (s : State) (k : Nat) (t : BitVec 4) : (s.setTag k t).rels = s.rels := rfl
@[simp] theorem State.setTag_lostRegs (s : State) (k : Nat) (t : BitVec 4) : (s.setTag k t).lostRegs = s.lostRegs := rfl
@[simp] theorem State.setTag_scs (s : State) (k : Nat) (t : BitVec 4) : (s.setTag k t).scs = s.scs := rfl
@[simp] theorem State.setTag_tlb (s : State) (k : Nat) (t : BitVec 4) : (s.setTag k t).tlb = s.tlb := rfl
@[simp] theorem State.setTag_walker (s : State) (k : Nat) (t : BitVec 4) : (s.setTag k t).walker = s.walker := rfl
@[simp] theorem State.setTag_fresh (s : State) (k : Nat) (t : BitVec 4) : (s.setTag k t).fresh = s.fresh := rfl
@[simp] theorem State.setTag_cycle (s : State) (k : Nat) (t : BitVec 4) : (s.setTag k t).cycle = s.cycle := rfl
@[simp] theorem State.setTag_steps (s : State) (k : Nat) (t : BitVec 4) : (s.setTag k t).steps = s.steps := rfl
@[simp] theorem State.setTag_agenda (s : State) (k : Nat) (t : BitVec 4) : (s.setTag k t).agenda = s.agenda := rfl
@[simp] theorem State.setTag_beat (s : State) (k : Nat) (t : BitVec 4) : (s.setTag k t).beat = s.beat := rfl
@[simp] theorem State.setTag_order (s : State) (k : Nat) (t : BitVec 4) : (s.setTag k t).order = s.order := rfl
@[simp] theorem State.setTag_defer (s : State) (k : Nat) (t : BitVec 4) : (s.setTag k t).defer = s.defer := rfl
@[simp] theorem State.setTag_arg (s : State) (k : Nat) (t : BitVec 4) : (s.setTag k t).arg = s.arg := rfl

/-! ### `setPoison` -/

@[simp] theorem State.setPoison_mem (s : State) (k : Nat) (b : Bool) : (s.setPoison k b).mem = s.mem := rfl
@[simp] theorem State.setPoison_tags (s : State) (k : Nat) (b : Bool) : (s.setPoison k b).tags = s.tags := rfl
@[simp] theorem State.setPoison_full (s : State) (k : Nat) (b : Bool) : (s.setPoison k b).full = s.full := rfl
@[simp] theorem State.setPoison_poison (s : State) (k : Nat) (b : Bool) : (s.setPoison k b).poison = Store.put (fun _ => false) k b s.poison := rfl
@[simp] theorem State.setPoison_bad (s : State) (k : Nat) (b : Bool) : (s.setPoison k b).bad = s.bad := rfl
@[simp] theorem State.setPoison_fills (s : State) (k : Nat) (b : Bool) : (s.setPoison k b).fills = s.fills := rfl
@[simp] theorem State.setPoison_host (s : State) (k : Nat) (b : Bool) : (s.setPoison k b).host = s.host := rfl
@[simp] theorem State.setPoison_snoop (s : State) (k : Nat) (b : Bool) : (s.setPoison k b).snoop = s.snoop := rfl
@[simp] theorem State.setPoison_g (s : State) (k : Nat) (b : Bool) : (s.setPoison k b).g = s.g := rfl
@[simp] theorem State.setPoison_groups (s : State) (k : Nat) (b : Bool) : (s.setPoison k b).groups = s.groups := rfl
@[simp] theorem State.setPoison_teams (s : State) (k : Nat) (b : Bool) : (s.setPoison k b).teams = s.teams := rfl
@[simp] theorem State.setPoison_cores (s : State) (k : Nat) (b : Bool) : (s.setPoison k b).cores = s.cores := rfl
@[simp] theorem State.setPoison_dies (s : State) (k : Nat) (b : Bool) : (s.setPoison k b).dies = s.dies := rfl
@[simp] theorem State.setPoison_pkgs (s : State) (k : Nat) (b : Bool) : (s.setPoison k b).pkgs = s.pkgs := rfl
@[simp] theorem State.setPoison_launches (s : State) (k : Nat) (b : Bool) : (s.setPoison k b).launches = s.launches := rfl
@[simp] theorem State.setPoison_homes (s : State) (k : Nat) (b : Bool) : (s.setPoison k b).homes = s.homes := rfl
@[simp] theorem State.setPoison_reports (s : State) (k : Nat) (b : Bool) : (s.setPoison k b).reports = s.reports := rfl
@[simp] theorem State.setPoison_msgs (s : State) (k : Nat) (b : Bool) : (s.setPoison k b).msgs = s.msgs := rfl
@[simp] theorem State.setPoison_colls (s : State) (k : Nat) (b : Bool) : (s.setPoison k b).colls = s.colls := rfl
@[simp] theorem State.setPoison_txns (s : State) (k : Nat) (b : Bool) : (s.setPoison k b).txns = s.txns := rfl
@[simp] theorem State.setPoison_dir (s : State) (k : Nat) (b : Bool) : (s.setPoison k b).dir = s.dir := rfl
@[simp] theorem State.setPoison_held (s : State) (k : Nat) (b : Bool) : (s.setPoison k b).held = s.held := rfl
@[simp] theorem State.setPoison_dirUse (s : State) (k : Nat) (b : Bool) : (s.setPoison k b).dirUse = s.dirUse := rfl
@[simp] theorem State.setPoison_inner (s : State) (k : Nat) (b : Bool) : (s.setPoison k b).inner = s.inner := rfl
@[simp] theorem State.setPoison_lag (s : State) (k : Nat) (b : Bool) : (s.setPoison k b).lag = s.lag := rfl
@[simp] theorem State.setPoison_rels (s : State) (k : Nat) (b : Bool) : (s.setPoison k b).rels = s.rels := rfl
@[simp] theorem State.setPoison_lostRegs (s : State) (k : Nat) (b : Bool) : (s.setPoison k b).lostRegs = s.lostRegs := rfl
@[simp] theorem State.setPoison_scs (s : State) (k : Nat) (b : Bool) : (s.setPoison k b).scs = s.scs := rfl
@[simp] theorem State.setPoison_tlb (s : State) (k : Nat) (b : Bool) : (s.setPoison k b).tlb = s.tlb := rfl
@[simp] theorem State.setPoison_walker (s : State) (k : Nat) (b : Bool) : (s.setPoison k b).walker = s.walker := rfl
@[simp] theorem State.setPoison_fresh (s : State) (k : Nat) (b : Bool) : (s.setPoison k b).fresh = s.fresh := rfl
@[simp] theorem State.setPoison_cycle (s : State) (k : Nat) (b : Bool) : (s.setPoison k b).cycle = s.cycle := rfl
@[simp] theorem State.setPoison_steps (s : State) (k : Nat) (b : Bool) : (s.setPoison k b).steps = s.steps := rfl
@[simp] theorem State.setPoison_agenda (s : State) (k : Nat) (b : Bool) : (s.setPoison k b).agenda = s.agenda := rfl
@[simp] theorem State.setPoison_beat (s : State) (k : Nat) (b : Bool) : (s.setPoison k b).beat = s.beat := rfl
@[simp] theorem State.setPoison_order (s : State) (k : Nat) (b : Bool) : (s.setPoison k b).order = s.order := rfl
@[simp] theorem State.setPoison_defer (s : State) (k : Nat) (b : Bool) : (s.setPoison k b).defer = s.defer := rfl
@[simp] theorem State.setPoison_arg (s : State) (k : Nat) (b : Bool) : (s.setPoison k b).arg = s.arg := rfl

/-! ### `setBad` -/

@[simp] theorem State.setBad_mem (s : State) (k : Nat) (b : Bool) : (s.setBad k b).mem = s.mem := rfl
@[simp] theorem State.setBad_tags (s : State) (k : Nat) (b : Bool) : (s.setBad k b).tags = s.tags := rfl
@[simp] theorem State.setBad_full (s : State) (k : Nat) (b : Bool) : (s.setBad k b).full = s.full := rfl
@[simp] theorem State.setBad_poison (s : State) (k : Nat) (b : Bool) : (s.setBad k b).poison = s.poison := rfl
@[simp] theorem State.setBad_bad (s : State) (k : Nat) (b : Bool) : (s.setBad k b).bad = Store.put (fun _ => false) k b s.bad := rfl
@[simp] theorem State.setBad_fills (s : State) (k : Nat) (b : Bool) : (s.setBad k b).fills = s.fills := rfl
@[simp] theorem State.setBad_host (s : State) (k : Nat) (b : Bool) : (s.setBad k b).host = s.host := rfl
@[simp] theorem State.setBad_snoop (s : State) (k : Nat) (b : Bool) : (s.setBad k b).snoop = s.snoop := rfl
@[simp] theorem State.setBad_g (s : State) (k : Nat) (b : Bool) : (s.setBad k b).g = s.g := rfl
@[simp] theorem State.setBad_groups (s : State) (k : Nat) (b : Bool) : (s.setBad k b).groups = s.groups := rfl
@[simp] theorem State.setBad_teams (s : State) (k : Nat) (b : Bool) : (s.setBad k b).teams = s.teams := rfl
@[simp] theorem State.setBad_cores (s : State) (k : Nat) (b : Bool) : (s.setBad k b).cores = s.cores := rfl
@[simp] theorem State.setBad_dies (s : State) (k : Nat) (b : Bool) : (s.setBad k b).dies = s.dies := rfl
@[simp] theorem State.setBad_pkgs (s : State) (k : Nat) (b : Bool) : (s.setBad k b).pkgs = s.pkgs := rfl
@[simp] theorem State.setBad_launches (s : State) (k : Nat) (b : Bool) : (s.setBad k b).launches = s.launches := rfl
@[simp] theorem State.setBad_homes (s : State) (k : Nat) (b : Bool) : (s.setBad k b).homes = s.homes := rfl
@[simp] theorem State.setBad_reports (s : State) (k : Nat) (b : Bool) : (s.setBad k b).reports = s.reports := rfl
@[simp] theorem State.setBad_msgs (s : State) (k : Nat) (b : Bool) : (s.setBad k b).msgs = s.msgs := rfl
@[simp] theorem State.setBad_colls (s : State) (k : Nat) (b : Bool) : (s.setBad k b).colls = s.colls := rfl
@[simp] theorem State.setBad_txns (s : State) (k : Nat) (b : Bool) : (s.setBad k b).txns = s.txns := rfl
@[simp] theorem State.setBad_dir (s : State) (k : Nat) (b : Bool) : (s.setBad k b).dir = s.dir := rfl
@[simp] theorem State.setBad_held (s : State) (k : Nat) (b : Bool) : (s.setBad k b).held = s.held := rfl
@[simp] theorem State.setBad_dirUse (s : State) (k : Nat) (b : Bool) : (s.setBad k b).dirUse = s.dirUse := rfl
@[simp] theorem State.setBad_inner (s : State) (k : Nat) (b : Bool) : (s.setBad k b).inner = s.inner := rfl
@[simp] theorem State.setBad_lag (s : State) (k : Nat) (b : Bool) : (s.setBad k b).lag = s.lag := rfl
@[simp] theorem State.setBad_rels (s : State) (k : Nat) (b : Bool) : (s.setBad k b).rels = s.rels := rfl
@[simp] theorem State.setBad_lostRegs (s : State) (k : Nat) (b : Bool) : (s.setBad k b).lostRegs = s.lostRegs := rfl
@[simp] theorem State.setBad_scs (s : State) (k : Nat) (b : Bool) : (s.setBad k b).scs = s.scs := rfl
@[simp] theorem State.setBad_tlb (s : State) (k : Nat) (b : Bool) : (s.setBad k b).tlb = s.tlb := rfl
@[simp] theorem State.setBad_walker (s : State) (k : Nat) (b : Bool) : (s.setBad k b).walker = s.walker := rfl
@[simp] theorem State.setBad_fresh (s : State) (k : Nat) (b : Bool) : (s.setBad k b).fresh = s.fresh := rfl
@[simp] theorem State.setBad_cycle (s : State) (k : Nat) (b : Bool) : (s.setBad k b).cycle = s.cycle := rfl
@[simp] theorem State.setBad_steps (s : State) (k : Nat) (b : Bool) : (s.setBad k b).steps = s.steps := rfl
@[simp] theorem State.setBad_agenda (s : State) (k : Nat) (b : Bool) : (s.setBad k b).agenda = s.agenda := rfl
@[simp] theorem State.setBad_beat (s : State) (k : Nat) (b : Bool) : (s.setBad k b).beat = s.beat := rfl
@[simp] theorem State.setBad_order (s : State) (k : Nat) (b : Bool) : (s.setBad k b).order = s.order := rfl
@[simp] theorem State.setBad_defer (s : State) (k : Nat) (b : Bool) : (s.setBad k b).defer = s.defer := rfl
@[simp] theorem State.setBad_arg (s : State) (k : Nat) (b : Bool) : (s.setBad k b).arg = s.arg := rfl

/-! ### `setHeld` -/

@[simp] theorem State.setHeld_mem (s : State) (l p st : Nat) : (s.setHeld l p st).mem = s.mem := rfl
@[simp] theorem State.setHeld_tags (s : State) (l p st : Nat) : (s.setHeld l p st).tags = s.tags := rfl
@[simp] theorem State.setHeld_full (s : State) (l p st : Nat) : (s.setHeld l p st).full = s.full := rfl
@[simp] theorem State.setHeld_poison (s : State) (l p st : Nat) : (s.setHeld l p st).poison = s.poison := rfl
@[simp] theorem State.setHeld_bad (s : State) (l p st : Nat) : (s.setHeld l p st).bad = s.bad := rfl
@[simp] theorem State.setHeld_fills (s : State) (l p st : Nat) : (s.setHeld l p st).fills = s.fills := rfl
@[simp] theorem State.setHeld_host (s : State) (l p st : Nat) : (s.setHeld l p st).host = s.host := rfl
@[simp] theorem State.setHeld_snoop (s : State) (l p st : Nat) : (s.setHeld l p st).snoop = s.snoop := rfl
@[simp] theorem State.setHeld_g (s : State) (l p st : Nat) : (s.setHeld l p st).g = s.g := rfl
@[simp] theorem State.setHeld_groups (s : State) (l p st : Nat) : (s.setHeld l p st).groups = s.groups := rfl
@[simp] theorem State.setHeld_teams (s : State) (l p st : Nat) : (s.setHeld l p st).teams = s.teams := rfl
@[simp] theorem State.setHeld_cores (s : State) (l p st : Nat) : (s.setHeld l p st).cores = s.cores := rfl
@[simp] theorem State.setHeld_dies (s : State) (l p st : Nat) : (s.setHeld l p st).dies = s.dies := rfl
@[simp] theorem State.setHeld_pkgs (s : State) (l p st : Nat) : (s.setHeld l p st).pkgs = s.pkgs := rfl
@[simp] theorem State.setHeld_launches (s : State) (l p st : Nat) : (s.setHeld l p st).launches = s.launches := rfl
@[simp] theorem State.setHeld_homes (s : State) (l p st : Nat) : (s.setHeld l p st).homes = s.homes := rfl
@[simp] theorem State.setHeld_reports (s : State) (l p st : Nat) : (s.setHeld l p st).reports = s.reports := rfl
@[simp] theorem State.setHeld_msgs (s : State) (l p st : Nat) : (s.setHeld l p st).msgs = s.msgs := rfl
@[simp] theorem State.setHeld_colls (s : State) (l p st : Nat) : (s.setHeld l p st).colls = s.colls := rfl
@[simp] theorem State.setHeld_txns (s : State) (l p st : Nat) : (s.setHeld l p st).txns = s.txns := rfl
@[simp] theorem State.setHeld_dir (s : State) (l p st : Nat) : (s.setHeld l p st).dir = s.dir := rfl
@[simp] theorem State.setHeld_held (s : State) (l p st : Nat) : (s.setHeld l p st).held = Store.put (fun _ => 0) (heldKey l p) st s.held := rfl
@[simp] theorem State.setHeld_dirUse (s : State) (l p st : Nat) : (s.setHeld l p st).dirUse = s.dirUse := rfl
@[simp] theorem State.setHeld_inner (s : State) (l p st : Nat) : (s.setHeld l p st).inner = s.inner := rfl
@[simp] theorem State.setHeld_lag (s : State) (l p st : Nat) : (s.setHeld l p st).lag = s.lag := rfl
@[simp] theorem State.setHeld_rels (s : State) (l p st : Nat) : (s.setHeld l p st).rels = s.rels := rfl
@[simp] theorem State.setHeld_lostRegs (s : State) (l p st : Nat) : (s.setHeld l p st).lostRegs = s.lostRegs := rfl
@[simp] theorem State.setHeld_scs (s : State) (l p st : Nat) : (s.setHeld l p st).scs = s.scs := rfl
@[simp] theorem State.setHeld_tlb (s : State) (l p st : Nat) : (s.setHeld l p st).tlb = s.tlb := rfl
@[simp] theorem State.setHeld_walker (s : State) (l p st : Nat) : (s.setHeld l p st).walker = s.walker := rfl
@[simp] theorem State.setHeld_fresh (s : State) (l p st : Nat) : (s.setHeld l p st).fresh = s.fresh := rfl
@[simp] theorem State.setHeld_cycle (s : State) (l p st : Nat) : (s.setHeld l p st).cycle = s.cycle := rfl
@[simp] theorem State.setHeld_steps (s : State) (l p st : Nat) : (s.setHeld l p st).steps = s.steps := rfl
@[simp] theorem State.setHeld_agenda (s : State) (l p st : Nat) : (s.setHeld l p st).agenda = s.agenda := rfl
@[simp] theorem State.setHeld_beat (s : State) (l p st : Nat) : (s.setHeld l p st).beat = s.beat := rfl
@[simp] theorem State.setHeld_order (s : State) (l p st : Nat) : (s.setHeld l p st).order = s.order := rfl
@[simp] theorem State.setHeld_defer (s : State) (l p st : Nat) : (s.setHeld l p st).defer = s.defer := rfl
@[simp] theorem State.setHeld_arg (s : State) (l p st : Nat) : (s.setHeld l p st).arg = s.arg := rfl

/-! ### `setDir` -/

@[simp] theorem State.setDir_mem (s : State) (l : Nat) (d : Dir) : (s.setDir l d).mem = s.mem := rfl
@[simp] theorem State.setDir_tags (s : State) (l : Nat) (d : Dir) : (s.setDir l d).tags = s.tags := rfl
@[simp] theorem State.setDir_full (s : State) (l : Nat) (d : Dir) : (s.setDir l d).full = s.full := rfl
@[simp] theorem State.setDir_poison (s : State) (l : Nat) (d : Dir) : (s.setDir l d).poison = s.poison := rfl
@[simp] theorem State.setDir_bad (s : State) (l : Nat) (d : Dir) : (s.setDir l d).bad = s.bad := rfl
@[simp] theorem State.setDir_fills (s : State) (l : Nat) (d : Dir) : (s.setDir l d).fills = s.fills := rfl
@[simp] theorem State.setDir_host (s : State) (l : Nat) (d : Dir) : (s.setDir l d).host = s.host := rfl
@[simp] theorem State.setDir_snoop (s : State) (l : Nat) (d : Dir) : (s.setDir l d).snoop = s.snoop := rfl
@[simp] theorem State.setDir_g (s : State) (l : Nat) (d : Dir) : (s.setDir l d).g = s.g := rfl
@[simp] theorem State.setDir_groups (s : State) (l : Nat) (d : Dir) : (s.setDir l d).groups = s.groups := rfl
@[simp] theorem State.setDir_teams (s : State) (l : Nat) (d : Dir) : (s.setDir l d).teams = s.teams := rfl
@[simp] theorem State.setDir_cores (s : State) (l : Nat) (d : Dir) : (s.setDir l d).cores = s.cores := rfl
@[simp] theorem State.setDir_dies (s : State) (l : Nat) (d : Dir) : (s.setDir l d).dies = s.dies := rfl
@[simp] theorem State.setDir_pkgs (s : State) (l : Nat) (d : Dir) : (s.setDir l d).pkgs = s.pkgs := rfl
@[simp] theorem State.setDir_launches (s : State) (l : Nat) (d : Dir) : (s.setDir l d).launches = s.launches := rfl
@[simp] theorem State.setDir_homes (s : State) (l : Nat) (d : Dir) : (s.setDir l d).homes = s.homes := rfl
@[simp] theorem State.setDir_reports (s : State) (l : Nat) (d : Dir) : (s.setDir l d).reports = s.reports := rfl
@[simp] theorem State.setDir_msgs (s : State) (l : Nat) (d : Dir) : (s.setDir l d).msgs = s.msgs := rfl
@[simp] theorem State.setDir_colls (s : State) (l : Nat) (d : Dir) : (s.setDir l d).colls = s.colls := rfl
@[simp] theorem State.setDir_txns (s : State) (l : Nat) (d : Dir) : (s.setDir l d).txns = s.txns := rfl
@[simp] theorem State.setDir_dir (s : State) (l : Nat) (d : Dir) : (s.setDir l d).dir = Store.put (fun _ => Dir.none) l d s.dir := rfl
@[simp] theorem State.setDir_held (s : State) (l : Nat) (d : Dir) : (s.setDir l d).held = s.held := rfl
@[simp] theorem State.setDir_dirUse (s : State) (l : Nat) (d : Dir) : (s.setDir l d).dirUse = s.dirUse := rfl
@[simp] theorem State.setDir_inner (s : State) (l : Nat) (d : Dir) : (s.setDir l d).inner = s.inner := rfl
@[simp] theorem State.setDir_lag (s : State) (l : Nat) (d : Dir) : (s.setDir l d).lag = s.lag := rfl
@[simp] theorem State.setDir_rels (s : State) (l : Nat) (d : Dir) : (s.setDir l d).rels = s.rels := rfl
@[simp] theorem State.setDir_lostRegs (s : State) (l : Nat) (d : Dir) : (s.setDir l d).lostRegs = s.lostRegs := rfl
@[simp] theorem State.setDir_scs (s : State) (l : Nat) (d : Dir) : (s.setDir l d).scs = s.scs := rfl
@[simp] theorem State.setDir_tlb (s : State) (l : Nat) (d : Dir) : (s.setDir l d).tlb = s.tlb := rfl
@[simp] theorem State.setDir_walker (s : State) (l : Nat) (d : Dir) : (s.setDir l d).walker = s.walker := rfl
@[simp] theorem State.setDir_fresh (s : State) (l : Nat) (d : Dir) : (s.setDir l d).fresh = s.fresh := rfl
@[simp] theorem State.setDir_cycle (s : State) (l : Nat) (d : Dir) : (s.setDir l d).cycle = s.cycle := rfl
@[simp] theorem State.setDir_steps (s : State) (l : Nat) (d : Dir) : (s.setDir l d).steps = s.steps := rfl
@[simp] theorem State.setDir_agenda (s : State) (l : Nat) (d : Dir) : (s.setDir l d).agenda = s.agenda := rfl
@[simp] theorem State.setDir_beat (s : State) (l : Nat) (d : Dir) : (s.setDir l d).beat = s.beat := rfl
@[simp] theorem State.setDir_order (s : State) (l : Nat) (d : Dir) : (s.setDir l d).order = s.order := rfl
@[simp] theorem State.setDir_defer (s : State) (l : Nat) (d : Dir) : (s.setDir l d).defer = s.defer := rfl
@[simp] theorem State.setDir_arg (s : State) (l : Nat) (d : Dir) : (s.setDir l d).arg = s.arg := rfl

/-! ### `setTxn` -/

@[simp] theorem State.setTxn_mem (s : State) (k : Nat) (t : Txn) : (s.setTxn k t).mem = s.mem := rfl
@[simp] theorem State.setTxn_tags (s : State) (k : Nat) (t : Txn) : (s.setTxn k t).tags = s.tags := rfl
@[simp] theorem State.setTxn_full (s : State) (k : Nat) (t : Txn) : (s.setTxn k t).full = s.full := rfl
@[simp] theorem State.setTxn_poison (s : State) (k : Nat) (t : Txn) : (s.setTxn k t).poison = s.poison := rfl
@[simp] theorem State.setTxn_bad (s : State) (k : Nat) (t : Txn) : (s.setTxn k t).bad = s.bad := rfl
@[simp] theorem State.setTxn_fills (s : State) (k : Nat) (t : Txn) : (s.setTxn k t).fills = s.fills := rfl
@[simp] theorem State.setTxn_host (s : State) (k : Nat) (t : Txn) : (s.setTxn k t).host = s.host := rfl
@[simp] theorem State.setTxn_snoop (s : State) (k : Nat) (t : Txn) : (s.setTxn k t).snoop = s.snoop := rfl
@[simp] theorem State.setTxn_g (s : State) (k : Nat) (t : Txn) : (s.setTxn k t).g = s.g := rfl
@[simp] theorem State.setTxn_groups (s : State) (k : Nat) (t : Txn) : (s.setTxn k t).groups = s.groups := rfl
@[simp] theorem State.setTxn_teams (s : State) (k : Nat) (t : Txn) : (s.setTxn k t).teams = s.teams := rfl
@[simp] theorem State.setTxn_cores (s : State) (k : Nat) (t : Txn) : (s.setTxn k t).cores = s.cores := rfl
@[simp] theorem State.setTxn_dies (s : State) (k : Nat) (t : Txn) : (s.setTxn k t).dies = s.dies := rfl
@[simp] theorem State.setTxn_pkgs (s : State) (k : Nat) (t : Txn) : (s.setTxn k t).pkgs = s.pkgs := rfl
@[simp] theorem State.setTxn_launches (s : State) (k : Nat) (t : Txn) : (s.setTxn k t).launches = s.launches := rfl
@[simp] theorem State.setTxn_homes (s : State) (k : Nat) (t : Txn) : (s.setTxn k t).homes = s.homes := rfl
@[simp] theorem State.setTxn_reports (s : State) (k : Nat) (t : Txn) : (s.setTxn k t).reports = s.reports := rfl
@[simp] theorem State.setTxn_msgs (s : State) (k : Nat) (t : Txn) : (s.setTxn k t).msgs = s.msgs := rfl
@[simp] theorem State.setTxn_colls (s : State) (k : Nat) (t : Txn) : (s.setTxn k t).colls = s.colls := rfl
@[simp] theorem State.setTxn_txns (s : State) (k : Nat) (t : Txn) : (s.setTxn k t).txns = Store.ins k t s.txns := rfl
@[simp] theorem State.setTxn_dir (s : State) (k : Nat) (t : Txn) : (s.setTxn k t).dir = s.dir := rfl
@[simp] theorem State.setTxn_held (s : State) (k : Nat) (t : Txn) : (s.setTxn k t).held = s.held := rfl
@[simp] theorem State.setTxn_dirUse (s : State) (k : Nat) (t : Txn) : (s.setTxn k t).dirUse = s.dirUse := rfl
@[simp] theorem State.setTxn_inner (s : State) (k : Nat) (t : Txn) : (s.setTxn k t).inner = s.inner := rfl
@[simp] theorem State.setTxn_lag (s : State) (k : Nat) (t : Txn) : (s.setTxn k t).lag = s.lag := rfl
@[simp] theorem State.setTxn_rels (s : State) (k : Nat) (t : Txn) : (s.setTxn k t).rels = s.rels := rfl
@[simp] theorem State.setTxn_lostRegs (s : State) (k : Nat) (t : Txn) : (s.setTxn k t).lostRegs = s.lostRegs := rfl
@[simp] theorem State.setTxn_scs (s : State) (k : Nat) (t : Txn) : (s.setTxn k t).scs = s.scs := rfl
@[simp] theorem State.setTxn_tlb (s : State) (k : Nat) (t : Txn) : (s.setTxn k t).tlb = s.tlb := rfl
@[simp] theorem State.setTxn_walker (s : State) (k : Nat) (t : Txn) : (s.setTxn k t).walker = s.walker := rfl
@[simp] theorem State.setTxn_fresh (s : State) (k : Nat) (t : Txn) : (s.setTxn k t).fresh = s.fresh := rfl
@[simp] theorem State.setTxn_cycle (s : State) (k : Nat) (t : Txn) : (s.setTxn k t).cycle = s.cycle := rfl
@[simp] theorem State.setTxn_steps (s : State) (k : Nat) (t : Txn) : (s.setTxn k t).steps = s.steps := rfl
@[simp] theorem State.setTxn_agenda (s : State) (k : Nat) (t : Txn) : (s.setTxn k t).agenda = s.agenda := rfl
@[simp] theorem State.setTxn_beat (s : State) (k : Nat) (t : Txn) : (s.setTxn k t).beat = s.beat := rfl
@[simp] theorem State.setTxn_order (s : State) (k : Nat) (t : Txn) : (s.setTxn k t).order = s.order := rfl
@[simp] theorem State.setTxn_defer (s : State) (k : Nat) (t : Txn) : (s.setTxn k t).defer = s.defer := rfl
@[simp] theorem State.setTxn_arg (s : State) (k : Nat) (t : Txn) : (s.setTxn k t).arg = s.arg := rfl

/-! ### `setCopy` -/

@[simp] theorem State.setCopy_mem (s : State) (l u st : Nat) : (s.setCopy l u st).mem = s.mem := rfl
@[simp] theorem State.setCopy_tags (s : State) (l u st : Nat) : (s.setCopy l u st).tags = s.tags := rfl
@[simp] theorem State.setCopy_full (s : State) (l u st : Nat) : (s.setCopy l u st).full = s.full := rfl
@[simp] theorem State.setCopy_poison (s : State) (l u st : Nat) : (s.setCopy l u st).poison = s.poison := rfl
@[simp] theorem State.setCopy_bad (s : State) (l u st : Nat) : (s.setCopy l u st).bad = s.bad := rfl
@[simp] theorem State.setCopy_fills (s : State) (l u st : Nat) : (s.setCopy l u st).fills = s.fills := rfl
@[simp] theorem State.setCopy_host (s : State) (l u st : Nat) : (s.setCopy l u st).host = s.host := rfl
@[simp] theorem State.setCopy_snoop (s : State) (l u st : Nat) : (s.setCopy l u st).snoop = s.snoop := rfl
@[simp] theorem State.setCopy_g (s : State) (l u st : Nat) : (s.setCopy l u st).g = s.g := rfl
@[simp] theorem State.setCopy_groups (s : State) (l u st : Nat) : (s.setCopy l u st).groups = s.groups := rfl
@[simp] theorem State.setCopy_teams (s : State) (l u st : Nat) : (s.setCopy l u st).teams = s.teams := rfl
@[simp] theorem State.setCopy_cores (s : State) (l u st : Nat) : (s.setCopy l u st).cores = s.cores := rfl
@[simp] theorem State.setCopy_dies (s : State) (l u st : Nat) : (s.setCopy l u st).dies = s.dies := rfl
@[simp] theorem State.setCopy_pkgs (s : State) (l u st : Nat) : (s.setCopy l u st).pkgs = s.pkgs := rfl
@[simp] theorem State.setCopy_launches (s : State) (l u st : Nat) : (s.setCopy l u st).launches = s.launches := rfl
@[simp] theorem State.setCopy_homes (s : State) (l u st : Nat) : (s.setCopy l u st).homes = s.homes := rfl
@[simp] theorem State.setCopy_reports (s : State) (l u st : Nat) : (s.setCopy l u st).reports = s.reports := rfl
@[simp] theorem State.setCopy_msgs (s : State) (l u st : Nat) : (s.setCopy l u st).msgs = s.msgs := rfl
@[simp] theorem State.setCopy_colls (s : State) (l u st : Nat) : (s.setCopy l u st).colls = s.colls := rfl
@[simp] theorem State.setCopy_txns (s : State) (l u st : Nat) : (s.setCopy l u st).txns = s.txns := rfl
@[simp] theorem State.setCopy_dir (s : State) (l u st : Nat) : (s.setCopy l u st).dir = s.dir := rfl
@[simp] theorem State.setCopy_held (s : State) (l u st : Nat) : (s.setCopy l u st).held = s.held := rfl
@[simp] theorem State.setCopy_dirUse (s : State) (l u st : Nat) : (s.setCopy l u st).dirUse = s.dirUse := rfl
@[simp] theorem State.setCopy_inner (s : State) (l u st : Nat) : (s.setCopy l u st).inner = Store.put (fun _ => 0) (innerKey l u) st s.inner := rfl
@[simp] theorem State.setCopy_lag (s : State) (l u st : Nat) : (s.setCopy l u st).lag = s.lag := rfl
@[simp] theorem State.setCopy_rels (s : State) (l u st : Nat) : (s.setCopy l u st).rels = s.rels := rfl
@[simp] theorem State.setCopy_lostRegs (s : State) (l u st : Nat) : (s.setCopy l u st).lostRegs = s.lostRegs := rfl
@[simp] theorem State.setCopy_scs (s : State) (l u st : Nat) : (s.setCopy l u st).scs = s.scs := rfl
@[simp] theorem State.setCopy_tlb (s : State) (l u st : Nat) : (s.setCopy l u st).tlb = s.tlb := rfl
@[simp] theorem State.setCopy_walker (s : State) (l u st : Nat) : (s.setCopy l u st).walker = s.walker := rfl
@[simp] theorem State.setCopy_fresh (s : State) (l u st : Nat) : (s.setCopy l u st).fresh = s.fresh := rfl
@[simp] theorem State.setCopy_cycle (s : State) (l u st : Nat) : (s.setCopy l u st).cycle = s.cycle := rfl
@[simp] theorem State.setCopy_steps (s : State) (l u st : Nat) : (s.setCopy l u st).steps = s.steps := rfl
@[simp] theorem State.setCopy_agenda (s : State) (l u st : Nat) : (s.setCopy l u st).agenda = s.agenda := rfl
@[simp] theorem State.setCopy_beat (s : State) (l u st : Nat) : (s.setCopy l u st).beat = s.beat := rfl
@[simp] theorem State.setCopy_order (s : State) (l u st : Nat) : (s.setCopy l u st).order = s.order := rfl
@[simp] theorem State.setCopy_defer (s : State) (l u st : Nat) : (s.setCopy l u st).defer = s.defer := rfl
@[simp] theorem State.setCopy_arg (s : State) (l u st : Nat) : (s.setCopy l u st).arg = s.arg := rfl

/-! ### `poolTake` -/

@[simp] theorem State.poolTake_mem (s : State) (dk k n : Nat) : (s.poolTake dk k n).mem = s.mem := rfl
@[simp] theorem State.poolTake_tags (s : State) (dk k n : Nat) : (s.poolTake dk k n).tags = s.tags := rfl
@[simp] theorem State.poolTake_full (s : State) (dk k n : Nat) : (s.poolTake dk k n).full = s.full := rfl
@[simp] theorem State.poolTake_poison (s : State) (dk k n : Nat) : (s.poolTake dk k n).poison = s.poison := rfl
@[simp] theorem State.poolTake_bad (s : State) (dk k n : Nat) : (s.poolTake dk k n).bad = s.bad := rfl
@[simp] theorem State.poolTake_fills (s : State) (dk k n : Nat) : (s.poolTake dk k n).fills = s.fills := rfl
@[simp] theorem State.poolTake_host (s : State) (dk k n : Nat) : (s.poolTake dk k n).host = s.host := rfl
@[simp] theorem State.poolTake_snoop (s : State) (dk k n : Nat) : (s.poolTake dk k n).snoop = s.snoop := rfl
@[simp] theorem State.poolTake_g (s : State) (dk k n : Nat) : (s.poolTake dk k n).g = s.g := rfl
@[simp] theorem State.poolTake_groups (s : State) (dk k n : Nat) : (s.poolTake dk k n).groups = s.groups := rfl
@[simp] theorem State.poolTake_teams (s : State) (dk k n : Nat) : (s.poolTake dk k n).teams = s.teams := rfl
@[simp] theorem State.poolTake_cores (s : State) (dk k n : Nat) : (s.poolTake dk k n).cores = s.cores := rfl
@[simp] theorem State.poolTake_pkgs (s : State) (dk k n : Nat) : (s.poolTake dk k n).pkgs = s.pkgs := rfl
@[simp] theorem State.poolTake_launches (s : State) (dk k n : Nat) : (s.poolTake dk k n).launches = s.launches := rfl
@[simp] theorem State.poolTake_homes (s : State) (dk k n : Nat) : (s.poolTake dk k n).homes = s.homes := rfl
@[simp] theorem State.poolTake_reports (s : State) (dk k n : Nat) : (s.poolTake dk k n).reports = s.reports := rfl
@[simp] theorem State.poolTake_msgs (s : State) (dk k n : Nat) : (s.poolTake dk k n).msgs = s.msgs := rfl
@[simp] theorem State.poolTake_colls (s : State) (dk k n : Nat) : (s.poolTake dk k n).colls = s.colls := rfl
@[simp] theorem State.poolTake_txns (s : State) (dk k n : Nat) : (s.poolTake dk k n).txns = s.txns := rfl
@[simp] theorem State.poolTake_dir (s : State) (dk k n : Nat) : (s.poolTake dk k n).dir = s.dir := rfl
@[simp] theorem State.poolTake_held (s : State) (dk k n : Nat) : (s.poolTake dk k n).held = s.held := rfl
@[simp] theorem State.poolTake_dirUse (s : State) (dk k n : Nat) : (s.poolTake dk k n).dirUse = s.dirUse := rfl
@[simp] theorem State.poolTake_inner (s : State) (dk k n : Nat) : (s.poolTake dk k n).inner = s.inner := rfl
@[simp] theorem State.poolTake_lag (s : State) (dk k n : Nat) : (s.poolTake dk k n).lag = s.lag := rfl
@[simp] theorem State.poolTake_rels (s : State) (dk k n : Nat) : (s.poolTake dk k n).rels = s.rels := rfl
@[simp] theorem State.poolTake_lostRegs (s : State) (dk k n : Nat) : (s.poolTake dk k n).lostRegs = s.lostRegs := rfl
@[simp] theorem State.poolTake_scs (s : State) (dk k n : Nat) : (s.poolTake dk k n).scs = s.scs := rfl
@[simp] theorem State.poolTake_tlb (s : State) (dk k n : Nat) : (s.poolTake dk k n).tlb = s.tlb := rfl
@[simp] theorem State.poolTake_walker (s : State) (dk k n : Nat) : (s.poolTake dk k n).walker = s.walker := rfl
@[simp] theorem State.poolTake_fresh (s : State) (dk k n : Nat) : (s.poolTake dk k n).fresh = s.fresh := rfl
@[simp] theorem State.poolTake_cycle (s : State) (dk k n : Nat) : (s.poolTake dk k n).cycle = s.cycle := rfl
@[simp] theorem State.poolTake_steps (s : State) (dk k n : Nat) : (s.poolTake dk k n).steps = s.steps := rfl
@[simp] theorem State.poolTake_agenda (s : State) (dk k n : Nat) : (s.poolTake dk k n).agenda = s.agenda := rfl
@[simp] theorem State.poolTake_beat (s : State) (dk k n : Nat) : (s.poolTake dk k n).beat = s.beat := rfl
@[simp] theorem State.poolTake_order (s : State) (dk k n : Nat) : (s.poolTake dk k n).order = s.order := rfl
@[simp] theorem State.poolTake_defer (s : State) (dk k n : Nat) : (s.poolTake dk k n).defer = s.defer := rfl
@[simp] theorem State.poolTake_arg (s : State) (dk k n : Nat) : (s.poolTake dk k n).arg = s.arg := rfl

/-! ### `poolGive` -/

@[simp] theorem State.poolGive_mem (s : State) (dk k : Nat) : (s.poolGive dk k).mem = s.mem := rfl
@[simp] theorem State.poolGive_tags (s : State) (dk k : Nat) : (s.poolGive dk k).tags = s.tags := rfl
@[simp] theorem State.poolGive_full (s : State) (dk k : Nat) : (s.poolGive dk k).full = s.full := rfl
@[simp] theorem State.poolGive_poison (s : State) (dk k : Nat) : (s.poolGive dk k).poison = s.poison := rfl
@[simp] theorem State.poolGive_bad (s : State) (dk k : Nat) : (s.poolGive dk k).bad = s.bad := rfl
@[simp] theorem State.poolGive_fills (s : State) (dk k : Nat) : (s.poolGive dk k).fills = s.fills := rfl
@[simp] theorem State.poolGive_host (s : State) (dk k : Nat) : (s.poolGive dk k).host = s.host := rfl
@[simp] theorem State.poolGive_snoop (s : State) (dk k : Nat) : (s.poolGive dk k).snoop = s.snoop := rfl
@[simp] theorem State.poolGive_g (s : State) (dk k : Nat) : (s.poolGive dk k).g = s.g := rfl
@[simp] theorem State.poolGive_groups (s : State) (dk k : Nat) : (s.poolGive dk k).groups = s.groups := rfl
@[simp] theorem State.poolGive_teams (s : State) (dk k : Nat) : (s.poolGive dk k).teams = s.teams := rfl
@[simp] theorem State.poolGive_cores (s : State) (dk k : Nat) : (s.poolGive dk k).cores = s.cores := rfl
@[simp] theorem State.poolGive_pkgs (s : State) (dk k : Nat) : (s.poolGive dk k).pkgs = s.pkgs := rfl
@[simp] theorem State.poolGive_launches (s : State) (dk k : Nat) : (s.poolGive dk k).launches = s.launches := rfl
@[simp] theorem State.poolGive_homes (s : State) (dk k : Nat) : (s.poolGive dk k).homes = s.homes := rfl
@[simp] theorem State.poolGive_reports (s : State) (dk k : Nat) : (s.poolGive dk k).reports = s.reports := rfl
@[simp] theorem State.poolGive_msgs (s : State) (dk k : Nat) : (s.poolGive dk k).msgs = s.msgs := rfl
@[simp] theorem State.poolGive_colls (s : State) (dk k : Nat) : (s.poolGive dk k).colls = s.colls := rfl
@[simp] theorem State.poolGive_txns (s : State) (dk k : Nat) : (s.poolGive dk k).txns = s.txns := rfl
@[simp] theorem State.poolGive_dir (s : State) (dk k : Nat) : (s.poolGive dk k).dir = s.dir := rfl
@[simp] theorem State.poolGive_held (s : State) (dk k : Nat) : (s.poolGive dk k).held = s.held := rfl
@[simp] theorem State.poolGive_dirUse (s : State) (dk k : Nat) : (s.poolGive dk k).dirUse = s.dirUse := rfl
@[simp] theorem State.poolGive_inner (s : State) (dk k : Nat) : (s.poolGive dk k).inner = s.inner := rfl
@[simp] theorem State.poolGive_lag (s : State) (dk k : Nat) : (s.poolGive dk k).lag = s.lag := rfl
@[simp] theorem State.poolGive_rels (s : State) (dk k : Nat) : (s.poolGive dk k).rels = s.rels := rfl
@[simp] theorem State.poolGive_lostRegs (s : State) (dk k : Nat) : (s.poolGive dk k).lostRegs = s.lostRegs := rfl
@[simp] theorem State.poolGive_scs (s : State) (dk k : Nat) : (s.poolGive dk k).scs = s.scs := rfl
@[simp] theorem State.poolGive_tlb (s : State) (dk k : Nat) : (s.poolGive dk k).tlb = s.tlb := rfl
@[simp] theorem State.poolGive_walker (s : State) (dk k : Nat) : (s.poolGive dk k).walker = s.walker := rfl
@[simp] theorem State.poolGive_fresh (s : State) (dk k : Nat) : (s.poolGive dk k).fresh = s.fresh := rfl
@[simp] theorem State.poolGive_cycle (s : State) (dk k : Nat) : (s.poolGive dk k).cycle = s.cycle := rfl
@[simp] theorem State.poolGive_steps (s : State) (dk k : Nat) : (s.poolGive dk k).steps = s.steps := rfl
@[simp] theorem State.poolGive_agenda (s : State) (dk k : Nat) : (s.poolGive dk k).agenda = s.agenda := rfl
@[simp] theorem State.poolGive_beat (s : State) (dk k : Nat) : (s.poolGive dk k).beat = s.beat := rfl
@[simp] theorem State.poolGive_order (s : State) (dk k : Nat) : (s.poolGive dk k).order = s.order := rfl
@[simp] theorem State.poolGive_defer (s : State) (dk k : Nat) : (s.poolGive dk k).defer = s.defer := rfl
@[simp] theorem State.poolGive_arg (s : State) (dk k : Nat) : (s.poolGive dk k).arg = s.arg := rfl

/-! ### `bump` -/

@[simp] theorem State.bump_mem (s : State) : (s.bump).mem = s.mem := rfl
@[simp] theorem State.bump_tags (s : State) : (s.bump).tags = s.tags := rfl
@[simp] theorem State.bump_full (s : State) : (s.bump).full = s.full := rfl
@[simp] theorem State.bump_poison (s : State) : (s.bump).poison = s.poison := rfl
@[simp] theorem State.bump_bad (s : State) : (s.bump).bad = s.bad := rfl
@[simp] theorem State.bump_fills (s : State) : (s.bump).fills = s.fills := rfl
@[simp] theorem State.bump_host (s : State) : (s.bump).host = s.host := rfl
@[simp] theorem State.bump_snoop (s : State) : (s.bump).snoop = s.snoop := rfl
@[simp] theorem State.bump_g (s : State) : (s.bump).g = s.g := rfl
@[simp] theorem State.bump_groups (s : State) : (s.bump).groups = s.groups := rfl
@[simp] theorem State.bump_teams (s : State) : (s.bump).teams = s.teams := rfl
@[simp] theorem State.bump_cores (s : State) : (s.bump).cores = s.cores := rfl
@[simp] theorem State.bump_dies (s : State) : (s.bump).dies = s.dies := rfl
@[simp] theorem State.bump_pkgs (s : State) : (s.bump).pkgs = s.pkgs := rfl
@[simp] theorem State.bump_launches (s : State) : (s.bump).launches = s.launches := rfl
@[simp] theorem State.bump_homes (s : State) : (s.bump).homes = s.homes := rfl
@[simp] theorem State.bump_reports (s : State) : (s.bump).reports = s.reports := rfl
@[simp] theorem State.bump_msgs (s : State) : (s.bump).msgs = s.msgs := rfl
@[simp] theorem State.bump_colls (s : State) : (s.bump).colls = s.colls := rfl
@[simp] theorem State.bump_txns (s : State) : (s.bump).txns = s.txns := rfl
@[simp] theorem State.bump_dir (s : State) : (s.bump).dir = s.dir := rfl
@[simp] theorem State.bump_held (s : State) : (s.bump).held = s.held := rfl
@[simp] theorem State.bump_dirUse (s : State) : (s.bump).dirUse = s.dirUse := rfl
@[simp] theorem State.bump_inner (s : State) : (s.bump).inner = s.inner := rfl
@[simp] theorem State.bump_lag (s : State) : (s.bump).lag = s.lag := rfl
@[simp] theorem State.bump_rels (s : State) : (s.bump).rels = s.rels := rfl
@[simp] theorem State.bump_lostRegs (s : State) : (s.bump).lostRegs = s.lostRegs := rfl
@[simp] theorem State.bump_scs (s : State) : (s.bump).scs = s.scs := rfl
@[simp] theorem State.bump_tlb (s : State) : (s.bump).tlb = s.tlb := rfl
@[simp] theorem State.bump_walker (s : State) : (s.bump).walker = s.walker := rfl
@[simp] theorem State.bump_fresh (s : State) : (s.bump).fresh = s.fresh + 1 := rfl
@[simp] theorem State.bump_cycle (s : State) : (s.bump).cycle = s.cycle := rfl
@[simp] theorem State.bump_steps (s : State) : (s.bump).steps = s.steps := rfl
@[simp] theorem State.bump_agenda (s : State) : (s.bump).agenda = s.agenda := rfl
@[simp] theorem State.bump_beat (s : State) : (s.bump).beat = s.beat := rfl
@[simp] theorem State.bump_order (s : State) : (s.bump).order = s.order := rfl
@[simp] theorem State.bump_defer (s : State) : (s.bump).defer = s.defer := rfl
@[simp] theorem State.bump_arg (s : State) : (s.bump).arg = s.arg := rfl

/-! ### `orderUsed` -/

@[simp] theorem State.orderUsed_mem (s : State) : (s.orderUsed).mem = s.mem := rfl
@[simp] theorem State.orderUsed_tags (s : State) : (s.orderUsed).tags = s.tags := rfl
@[simp] theorem State.orderUsed_full (s : State) : (s.orderUsed).full = s.full := rfl
@[simp] theorem State.orderUsed_poison (s : State) : (s.orderUsed).poison = s.poison := rfl
@[simp] theorem State.orderUsed_bad (s : State) : (s.orderUsed).bad = s.bad := rfl
@[simp] theorem State.orderUsed_fills (s : State) : (s.orderUsed).fills = s.fills := rfl
@[simp] theorem State.orderUsed_host (s : State) : (s.orderUsed).host = s.host := rfl
@[simp] theorem State.orderUsed_snoop (s : State) : (s.orderUsed).snoop = s.snoop := rfl
@[simp] theorem State.orderUsed_g (s : State) : (s.orderUsed).g = s.g := rfl
@[simp] theorem State.orderUsed_groups (s : State) : (s.orderUsed).groups = s.groups := rfl
@[simp] theorem State.orderUsed_teams (s : State) : (s.orderUsed).teams = s.teams := rfl
@[simp] theorem State.orderUsed_cores (s : State) : (s.orderUsed).cores = s.cores := rfl
@[simp] theorem State.orderUsed_dies (s : State) : (s.orderUsed).dies = s.dies := rfl
@[simp] theorem State.orderUsed_pkgs (s : State) : (s.orderUsed).pkgs = s.pkgs := rfl
@[simp] theorem State.orderUsed_launches (s : State) : (s.orderUsed).launches = s.launches := rfl
@[simp] theorem State.orderUsed_homes (s : State) : (s.orderUsed).homes = s.homes := rfl
@[simp] theorem State.orderUsed_reports (s : State) : (s.orderUsed).reports = s.reports := rfl
@[simp] theorem State.orderUsed_msgs (s : State) : (s.orderUsed).msgs = s.msgs := rfl
@[simp] theorem State.orderUsed_colls (s : State) : (s.orderUsed).colls = s.colls := rfl
@[simp] theorem State.orderUsed_txns (s : State) : (s.orderUsed).txns = s.txns := rfl
@[simp] theorem State.orderUsed_dir (s : State) : (s.orderUsed).dir = s.dir := rfl
@[simp] theorem State.orderUsed_held (s : State) : (s.orderUsed).held = s.held := rfl
@[simp] theorem State.orderUsed_dirUse (s : State) : (s.orderUsed).dirUse = s.dirUse := rfl
@[simp] theorem State.orderUsed_inner (s : State) : (s.orderUsed).inner = s.inner := rfl
@[simp] theorem State.orderUsed_lag (s : State) : (s.orderUsed).lag = s.lag := rfl
@[simp] theorem State.orderUsed_rels (s : State) : (s.orderUsed).rels = s.rels := rfl
@[simp] theorem State.orderUsed_lostRegs (s : State) : (s.orderUsed).lostRegs = s.lostRegs := rfl
@[simp] theorem State.orderUsed_scs (s : State) : (s.orderUsed).scs = s.scs := rfl
@[simp] theorem State.orderUsed_tlb (s : State) : (s.orderUsed).tlb = s.tlb := rfl
@[simp] theorem State.orderUsed_walker (s : State) : (s.orderUsed).walker = s.walker := rfl
@[simp] theorem State.orderUsed_fresh (s : State) : (s.orderUsed).fresh = s.fresh := rfl
@[simp] theorem State.orderUsed_cycle (s : State) : (s.orderUsed).cycle = s.cycle := rfl
@[simp] theorem State.orderUsed_steps (s : State) : (s.orderUsed).steps = s.steps := rfl
@[simp] theorem State.orderUsed_agenda (s : State) : (s.orderUsed).agenda = s.agenda := rfl
@[simp] theorem State.orderUsed_beat (s : State) : (s.orderUsed).beat = s.beat := rfl
@[simp] theorem State.orderUsed_order (s : State) : (s.orderUsed).order = s.order.tail := rfl
@[simp] theorem State.orderUsed_defer (s : State) : (s.orderUsed).defer = s.defer := rfl
@[simp] theorem State.orderUsed_arg (s : State) : (s.orderUsed).arg = s.arg := rfl

/-! ### `deferUsed` -/

@[simp] theorem State.deferUsed_mem (s : State) : (s.deferUsed).mem = s.mem := rfl
@[simp] theorem State.deferUsed_tags (s : State) : (s.deferUsed).tags = s.tags := rfl
@[simp] theorem State.deferUsed_full (s : State) : (s.deferUsed).full = s.full := rfl
@[simp] theorem State.deferUsed_poison (s : State) : (s.deferUsed).poison = s.poison := rfl
@[simp] theorem State.deferUsed_bad (s : State) : (s.deferUsed).bad = s.bad := rfl
@[simp] theorem State.deferUsed_fills (s : State) : (s.deferUsed).fills = s.fills := rfl
@[simp] theorem State.deferUsed_host (s : State) : (s.deferUsed).host = s.host := rfl
@[simp] theorem State.deferUsed_snoop (s : State) : (s.deferUsed).snoop = s.snoop := rfl
@[simp] theorem State.deferUsed_g (s : State) : (s.deferUsed).g = s.g := rfl
@[simp] theorem State.deferUsed_groups (s : State) : (s.deferUsed).groups = s.groups := rfl
@[simp] theorem State.deferUsed_teams (s : State) : (s.deferUsed).teams = s.teams := rfl
@[simp] theorem State.deferUsed_cores (s : State) : (s.deferUsed).cores = s.cores := rfl
@[simp] theorem State.deferUsed_dies (s : State) : (s.deferUsed).dies = s.dies := rfl
@[simp] theorem State.deferUsed_pkgs (s : State) : (s.deferUsed).pkgs = s.pkgs := rfl
@[simp] theorem State.deferUsed_launches (s : State) : (s.deferUsed).launches = s.launches := rfl
@[simp] theorem State.deferUsed_homes (s : State) : (s.deferUsed).homes = s.homes := rfl
@[simp] theorem State.deferUsed_reports (s : State) : (s.deferUsed).reports = s.reports := rfl
@[simp] theorem State.deferUsed_msgs (s : State) : (s.deferUsed).msgs = s.msgs := rfl
@[simp] theorem State.deferUsed_colls (s : State) : (s.deferUsed).colls = s.colls := rfl
@[simp] theorem State.deferUsed_txns (s : State) : (s.deferUsed).txns = s.txns := rfl
@[simp] theorem State.deferUsed_dir (s : State) : (s.deferUsed).dir = s.dir := rfl
@[simp] theorem State.deferUsed_held (s : State) : (s.deferUsed).held = s.held := rfl
@[simp] theorem State.deferUsed_dirUse (s : State) : (s.deferUsed).dirUse = s.dirUse := rfl
@[simp] theorem State.deferUsed_inner (s : State) : (s.deferUsed).inner = s.inner := rfl
@[simp] theorem State.deferUsed_lag (s : State) : (s.deferUsed).lag = s.lag := rfl
@[simp] theorem State.deferUsed_rels (s : State) : (s.deferUsed).rels = s.rels := rfl
@[simp] theorem State.deferUsed_lostRegs (s : State) : (s.deferUsed).lostRegs = s.lostRegs := rfl
@[simp] theorem State.deferUsed_scs (s : State) : (s.deferUsed).scs = s.scs := rfl
@[simp] theorem State.deferUsed_tlb (s : State) : (s.deferUsed).tlb = s.tlb := rfl
@[simp] theorem State.deferUsed_walker (s : State) : (s.deferUsed).walker = s.walker := rfl
@[simp] theorem State.deferUsed_fresh (s : State) : (s.deferUsed).fresh = s.fresh := rfl
@[simp] theorem State.deferUsed_cycle (s : State) : (s.deferUsed).cycle = s.cycle := rfl
@[simp] theorem State.deferUsed_steps (s : State) : (s.deferUsed).steps = s.steps := rfl
@[simp] theorem State.deferUsed_agenda (s : State) : (s.deferUsed).agenda = s.agenda := rfl
@[simp] theorem State.deferUsed_beat (s : State) : (s.deferUsed).beat = s.beat := rfl
@[simp] theorem State.deferUsed_order (s : State) : (s.deferUsed).order = s.order := rfl
@[simp] theorem State.deferUsed_defer (s : State) : (s.deferUsed).defer = s.defer.tail := rfl
@[simp] theorem State.deferUsed_arg (s : State) : (s.deferUsed).arg = s.arg := rfl

/-! ### `dropTxns` -/

@[simp] theorem State.dropTxns_mem (s : State) : (s.dropTxns).mem = s.mem := rfl
@[simp] theorem State.dropTxns_tags (s : State) : (s.dropTxns).tags = s.tags := rfl
@[simp] theorem State.dropTxns_full (s : State) : (s.dropTxns).full = s.full := rfl
@[simp] theorem State.dropTxns_poison (s : State) : (s.dropTxns).poison = s.poison := rfl
@[simp] theorem State.dropTxns_bad (s : State) : (s.dropTxns).bad = s.bad := rfl
@[simp] theorem State.dropTxns_fills (s : State) : (s.dropTxns).fills = s.fills := rfl
@[simp] theorem State.dropTxns_host (s : State) : (s.dropTxns).host = s.host := rfl
@[simp] theorem State.dropTxns_snoop (s : State) : (s.dropTxns).snoop = s.snoop := rfl
@[simp] theorem State.dropTxns_g (s : State) : (s.dropTxns).g = s.g := rfl
@[simp] theorem State.dropTxns_groups (s : State) : (s.dropTxns).groups = s.groups := rfl
@[simp] theorem State.dropTxns_teams (s : State) : (s.dropTxns).teams = s.teams := rfl
@[simp] theorem State.dropTxns_cores (s : State) : (s.dropTxns).cores = s.cores := rfl
@[simp] theorem State.dropTxns_dies (s : State) : (s.dropTxns).dies = s.dies := rfl
@[simp] theorem State.dropTxns_pkgs (s : State) : (s.dropTxns).pkgs = s.pkgs := rfl
@[simp] theorem State.dropTxns_launches (s : State) : (s.dropTxns).launches = s.launches := rfl
@[simp] theorem State.dropTxns_homes (s : State) : (s.dropTxns).homes = s.homes := rfl
@[simp] theorem State.dropTxns_reports (s : State) : (s.dropTxns).reports = s.reports := rfl
@[simp] theorem State.dropTxns_msgs (s : State) : (s.dropTxns).msgs = s.msgs := rfl
@[simp] theorem State.dropTxns_colls (s : State) : (s.dropTxns).colls = s.colls := rfl
@[simp] theorem State.dropTxns_dir (s : State) : (s.dropTxns).dir = s.dir := rfl
@[simp] theorem State.dropTxns_held (s : State) : (s.dropTxns).held = s.held := rfl
@[simp] theorem State.dropTxns_dirUse (s : State) : (s.dropTxns).dirUse = s.dirUse := rfl
@[simp] theorem State.dropTxns_inner (s : State) : (s.dropTxns).inner = s.inner := rfl
@[simp] theorem State.dropTxns_lag (s : State) : (s.dropTxns).lag = s.lag := rfl
@[simp] theorem State.dropTxns_rels (s : State) : (s.dropTxns).rels = s.rels := rfl
@[simp] theorem State.dropTxns_lostRegs (s : State) : (s.dropTxns).lostRegs = s.lostRegs := rfl
@[simp] theorem State.dropTxns_scs (s : State) : (s.dropTxns).scs = s.scs := rfl
@[simp] theorem State.dropTxns_tlb (s : State) : (s.dropTxns).tlb = s.tlb := rfl
@[simp] theorem State.dropTxns_walker (s : State) : (s.dropTxns).walker = s.walker := rfl
@[simp] theorem State.dropTxns_fresh (s : State) : (s.dropTxns).fresh = s.fresh := rfl
@[simp] theorem State.dropTxns_cycle (s : State) : (s.dropTxns).cycle = s.cycle := rfl
@[simp] theorem State.dropTxns_steps (s : State) : (s.dropTxns).steps = s.steps := rfl
@[simp] theorem State.dropTxns_agenda (s : State) : (s.dropTxns).agenda = s.agenda := rfl
@[simp] theorem State.dropTxns_beat (s : State) : (s.dropTxns).beat = s.beat := rfl
@[simp] theorem State.dropTxns_order (s : State) : (s.dropTxns).order = s.order := rfl
@[simp] theorem State.dropTxns_defer (s : State) : (s.dropTxns).defer = s.defer := rfl
@[simp] theorem State.dropTxns_arg (s : State) : (s.dropTxns).arg = s.arg := rfl

/-! ### `advance` -/

@[simp] theorem State.advance_mem (s : State) (i : Instr) : (s.advance i).mem = s.mem := rfl
@[simp] theorem State.advance_tags (s : State) (i : Instr) : (s.advance i).tags = s.tags := rfl
@[simp] theorem State.advance_full (s : State) (i : Instr) : (s.advance i).full = s.full := rfl
@[simp] theorem State.advance_poison (s : State) (i : Instr) : (s.advance i).poison = s.poison := rfl
@[simp] theorem State.advance_bad (s : State) (i : Instr) : (s.advance i).bad = s.bad := rfl
@[simp] theorem State.advance_fills (s : State) (i : Instr) : (s.advance i).fills = s.fills := rfl
@[simp] theorem State.advance_host (s : State) (i : Instr) : (s.advance i).host = s.host := rfl
@[simp] theorem State.advance_snoop (s : State) (i : Instr) : (s.advance i).snoop = s.snoop := rfl
@[simp] theorem State.advance_groups (s : State) (i : Instr) : (s.advance i).groups = s.groups := rfl
@[simp] theorem State.advance_teams (s : State) (i : Instr) : (s.advance i).teams = s.teams := rfl
@[simp] theorem State.advance_cores (s : State) (i : Instr) : (s.advance i).cores = s.cores := rfl
@[simp] theorem State.advance_dies (s : State) (i : Instr) : (s.advance i).dies = s.dies := rfl
@[simp] theorem State.advance_pkgs (s : State) (i : Instr) : (s.advance i).pkgs = s.pkgs := rfl
@[simp] theorem State.advance_launches (s : State) (i : Instr) : (s.advance i).launches = s.launches := rfl
@[simp] theorem State.advance_homes (s : State) (i : Instr) : (s.advance i).homes = s.homes := rfl
@[simp] theorem State.advance_reports (s : State) (i : Instr) : (s.advance i).reports = s.reports := rfl
@[simp] theorem State.advance_msgs (s : State) (i : Instr) : (s.advance i).msgs = s.msgs := rfl
@[simp] theorem State.advance_colls (s : State) (i : Instr) : (s.advance i).colls = s.colls := rfl
@[simp] theorem State.advance_txns (s : State) (i : Instr) : (s.advance i).txns = s.txns := rfl
@[simp] theorem State.advance_dir (s : State) (i : Instr) : (s.advance i).dir = s.dir := rfl
@[simp] theorem State.advance_held (s : State) (i : Instr) : (s.advance i).held = s.held := rfl
@[simp] theorem State.advance_dirUse (s : State) (i : Instr) : (s.advance i).dirUse = s.dirUse := rfl
@[simp] theorem State.advance_inner (s : State) (i : Instr) : (s.advance i).inner = s.inner := rfl
@[simp] theorem State.advance_lag (s : State) (i : Instr) : (s.advance i).lag = s.lag := rfl
@[simp] theorem State.advance_rels (s : State) (i : Instr) : (s.advance i).rels = s.rels := rfl
@[simp] theorem State.advance_lostRegs (s : State) (i : Instr) : (s.advance i).lostRegs = s.lostRegs := rfl
@[simp] theorem State.advance_scs (s : State) (i : Instr) : (s.advance i).scs = s.scs := rfl
@[simp] theorem State.advance_tlb (s : State) (i : Instr) : (s.advance i).tlb = s.tlb := rfl
@[simp] theorem State.advance_walker (s : State) (i : Instr) : (s.advance i).walker = s.walker := rfl
@[simp] theorem State.advance_fresh (s : State) (i : Instr) : (s.advance i).fresh = s.fresh := rfl
@[simp] theorem State.advance_cycle (s : State) (i : Instr) : (s.advance i).cycle = s.cycle := rfl
@[simp] theorem State.advance_steps (s : State) (i : Instr) : (s.advance i).steps = s.steps := rfl
@[simp] theorem State.advance_agenda (s : State) (i : Instr) : (s.advance i).agenda = s.agenda := rfl
@[simp] theorem State.advance_beat (s : State) (i : Instr) : (s.advance i).beat = s.beat := rfl
@[simp] theorem State.advance_order (s : State) (i : Instr) : (s.advance i).order = s.order := rfl
@[simp] theorem State.advance_defer (s : State) (i : Instr) : (s.advance i).defer = s.defer := rfl
@[simp] theorem State.advance_arg (s : State) (i : Instr) : (s.advance i).arg = s.arg := rfl

/-! ### `prepare` -/

@[simp] theorem State.prepare_mem (s : State) (n : BitVec 3) (a : BitVec 56) : (s.prepare n a).mem = s.mem := rfl
@[simp] theorem State.prepare_tags (s : State) (n : BitVec 3) (a : BitVec 56) : (s.prepare n a).tags = s.tags := rfl
@[simp] theorem State.prepare_full (s : State) (n : BitVec 3) (a : BitVec 56) : (s.prepare n a).full = s.full := rfl
@[simp] theorem State.prepare_poison (s : State) (n : BitVec 3) (a : BitVec 56) : (s.prepare n a).poison = s.poison := rfl
@[simp] theorem State.prepare_bad (s : State) (n : BitVec 3) (a : BitVec 56) : (s.prepare n a).bad = s.bad := rfl
@[simp] theorem State.prepare_fills (s : State) (n : BitVec 3) (a : BitVec 56) : (s.prepare n a).fills = s.fills := rfl
@[simp] theorem State.prepare_host (s : State) (n : BitVec 3) (a : BitVec 56) : (s.prepare n a).host = s.host := rfl
@[simp] theorem State.prepare_snoop (s : State) (n : BitVec 3) (a : BitVec 56) : (s.prepare n a).snoop = s.snoop := rfl
@[simp] theorem State.prepare_groups (s : State) (n : BitVec 3) (a : BitVec 56) : (s.prepare n a).groups = s.groups := rfl
@[simp] theorem State.prepare_teams (s : State) (n : BitVec 3) (a : BitVec 56) : (s.prepare n a).teams = s.teams := rfl
@[simp] theorem State.prepare_cores (s : State) (n : BitVec 3) (a : BitVec 56) : (s.prepare n a).cores = s.cores := rfl
@[simp] theorem State.prepare_dies (s : State) (n : BitVec 3) (a : BitVec 56) : (s.prepare n a).dies = s.dies := rfl
@[simp] theorem State.prepare_pkgs (s : State) (n : BitVec 3) (a : BitVec 56) : (s.prepare n a).pkgs = s.pkgs := rfl
@[simp] theorem State.prepare_launches (s : State) (n : BitVec 3) (a : BitVec 56) : (s.prepare n a).launches = s.launches := rfl
@[simp] theorem State.prepare_homes (s : State) (n : BitVec 3) (a : BitVec 56) : (s.prepare n a).homes = s.homes := rfl
@[simp] theorem State.prepare_reports (s : State) (n : BitVec 3) (a : BitVec 56) : (s.prepare n a).reports = s.reports := rfl
@[simp] theorem State.prepare_msgs (s : State) (n : BitVec 3) (a : BitVec 56) : (s.prepare n a).msgs = s.msgs := rfl
@[simp] theorem State.prepare_colls (s : State) (n : BitVec 3) (a : BitVec 56) : (s.prepare n a).colls = s.colls := rfl
@[simp] theorem State.prepare_txns (s : State) (n : BitVec 3) (a : BitVec 56) : (s.prepare n a).txns = s.txns := rfl
@[simp] theorem State.prepare_dir (s : State) (n : BitVec 3) (a : BitVec 56) : (s.prepare n a).dir = s.dir := rfl
@[simp] theorem State.prepare_held (s : State) (n : BitVec 3) (a : BitVec 56) : (s.prepare n a).held = s.held := rfl
@[simp] theorem State.prepare_dirUse (s : State) (n : BitVec 3) (a : BitVec 56) : (s.prepare n a).dirUse = s.dirUse := rfl
@[simp] theorem State.prepare_inner (s : State) (n : BitVec 3) (a : BitVec 56) : (s.prepare n a).inner = s.inner := rfl
@[simp] theorem State.prepare_lag (s : State) (n : BitVec 3) (a : BitVec 56) : (s.prepare n a).lag = s.lag := rfl
@[simp] theorem State.prepare_rels (s : State) (n : BitVec 3) (a : BitVec 56) : (s.prepare n a).rels = s.rels := rfl
@[simp] theorem State.prepare_lostRegs (s : State) (n : BitVec 3) (a : BitVec 56) : (s.prepare n a).lostRegs = s.lostRegs := rfl
@[simp] theorem State.prepare_scs (s : State) (n : BitVec 3) (a : BitVec 56) : (s.prepare n a).scs = s.scs := rfl
@[simp] theorem State.prepare_tlb (s : State) (n : BitVec 3) (a : BitVec 56) : (s.prepare n a).tlb = s.tlb := rfl
@[simp] theorem State.prepare_walker (s : State) (n : BitVec 3) (a : BitVec 56) : (s.prepare n a).walker = s.walker := rfl
@[simp] theorem State.prepare_fresh (s : State) (n : BitVec 3) (a : BitVec 56) : (s.prepare n a).fresh = s.fresh := rfl
@[simp] theorem State.prepare_cycle (s : State) (n : BitVec 3) (a : BitVec 56) : (s.prepare n a).cycle = s.cycle := rfl
@[simp] theorem State.prepare_steps (s : State) (n : BitVec 3) (a : BitVec 56) : (s.prepare n a).steps = s.steps := rfl
@[simp] theorem State.prepare_agenda (s : State) (n : BitVec 3) (a : BitVec 56) : (s.prepare n a).agenda = s.agenda := rfl
@[simp] theorem State.prepare_beat (s : State) (n : BitVec 3) (a : BitVec 56) : (s.prepare n a).beat = s.beat := rfl
@[simp] theorem State.prepare_order (s : State) (n : BitVec 3) (a : BitVec 56) : (s.prepare n a).order = s.order := rfl
@[simp] theorem State.prepare_defer (s : State) (n : BitVec 3) (a : BitVec 56) : (s.prepare n a).defer = s.defer := rfl
@[simp] theorem State.prepare_arg (s : State) (n : BitVec 3) (a : BitVec 56) : (s.prepare n a).arg = s.arg := rfl

/-! ### `Group.wr` -/

@[simp] theorem Group.wr_tid (g : Group) (r : Nat) (v : Lanes) : (g.wr r v).tid = g.tid := by unfold Group.wr; split <;> rfl
@[simp] theorem Group.wr_gidx (g : Group) (r : Nat) (v : Lanes) : (g.wr r v).gidx = g.gidx := by unfold Group.wr; split <;> rfl
@[simp] theorem Group.wr_dk (g : Group) (r : Nat) (v : Lanes) : (g.wr r v).dk = g.dk := by unfold Group.wr; split <;> rfl
@[simp] theorem Group.wr_core (g : Group) (r : Nat) (v : Lanes) : (g.wr r v).core = g.core := by unfold Group.wr; split <;> rfl
@[simp] theorem Group.wr_part (g : Group) (r : Nat) (v : Lanes) : (g.wr r v).part = g.part := by unfold Group.wr; split <;> rfl
@[simp] theorem Group.wr_slot (g : Group) (r : Nat) (v : Lanes) : (g.wr r v).slot = g.slot := by unfold Group.wr; split <;> rfl
@[simp] theorem Group.wr_role (g : Group) (r : Nat) (v : Lanes) : (g.wr r v).role = g.role := by unfold Group.wr; split <;> rfl
@[simp] theorem Group.wr_ridx (g : Group) (r : Nat) (v : Lanes) : (g.wr r v).ridx = g.ridx := by unfold Group.wr; split <;> rfl
@[simp] theorem Group.wr_status (g : Group) (r : Nat) (v : Lanes) : (g.wr r v).status = g.status := by unfold Group.wr; split <;> rfl
@[simp] theorem Group.wr_wait (g : Group) (r : Nat) (v : Lanes) : (g.wr r v).wait = g.wait := by unfold Group.wr; split <;> rfl
@[simp] theorem Group.wr_priv (g : Group) (r : Nat) (v : Lanes) : (g.wr r v).priv = g.priv := by unfold Group.wr; split <;> rfl
@[simp] theorem Group.wr_pc (g : Group) (r : Nat) (v : Lanes) : (g.wr r v).pc = g.pc := by unfold Group.wr; split <;> rfl
@[simp] theorem Group.wr_rows (g : Group) (r : Nat) (v : Lanes) : (g.wr r v).rows = g.rows := by unfold Group.wr; split <;> rfl
@[simp] theorem Group.wr_shared (g : Group) (r : Nat) (v : Lanes) : (g.wr r v).shared = g.shared := by unfold Group.wr; split <;> rfl
@[simp] theorem Group.wr_share (g : Group) (r : Nat) (v : Lanes) : (g.wr r v).share = g.share := by unfold Group.wr; split <;> rfl
@[simp] theorem Group.wr_budget (g : Group) (r : Nat) (v : Lanes) : (g.wr r v).budget = g.budget := by unfold Group.wr; split <;> rfl
@[simp] theorem Group.wr_targets (g : Group) (r : Nat) (v : Lanes) : (g.wr r v).targets = g.targets := by unfold Group.wr; split <;> rfl
@[simp] theorem Group.wr_exec (g : Group) (r : Nat) (v : Lanes) : (g.wr r v).exec = g.exec := by unfold Group.wr; split <;> rfl
@[simp] theorem Group.wr_live (g : Group) (r : Nat) (v : Lanes) : (g.wr r v).live = g.live := by unfold Group.wr; split <;> rfl
@[simp] theorem Group.wr_mscl (g : Group) (r : Nat) (v : Lanes) : (g.wr r v).mscl = g.mscl := by unfold Group.wr; split <;> rfl
@[simp] theorem Group.wr_issued (g : Group) (r : Nat) (v : Lanes) : (g.wr r v).issued = g.issued := by unfold Group.wr; split <;> rfl
@[simp] theorem Group.wr_done (g : Group) (r : Nat) (v : Lanes) : (g.wr r v).done = g.done := by unfold Group.wr; split <;> rfl
@[simp] theorem Group.wr_index (g : Group) (r : Nat) (v : Lanes) : (g.wr r v).index = g.index := by unfold Group.wr; split <;> rfl
@[simp] theorem Group.wr_quads (g : Group) (r : Nat) (v : Lanes) : (g.wr r v).quads = g.quads := by unfold Group.wr; split <;> rfl
@[simp] theorem Group.wr_mat (g : Group) (r : Nat) (v : Lanes) : (g.wr r v).mat = g.mat := by unfold Group.wr; split <;> rfl
@[simp] theorem Group.wr_faults (g : Group) (r : Nat) (v : Lanes) : (g.wr r v).faults = g.faults := by unfold Group.wr; split <;> rfl
@[simp] theorem Group.wr_colls (g : Group) (r : Nat) (v : Lanes) : (g.wr r v).colls = g.colls := by unfold Group.wr; split <;> rfl
@[simp] theorem Group.wr_trap (g : Group) (r : Nat) (v : Lanes) : (g.wr r v).trap = g.trap := by unfold Group.wr; split <;> rfl
@[simp] theorem Group.wr_heap (g : Group) (r : Nat) (v : Lanes) : (g.wr r v).heap = g.heap := by unfold Group.wr; split <;> rfl
@[simp] theorem Group.wr_asn (g : Group) (r : Nat) (v : Lanes) : (g.wr r v).asn = g.asn := by unfold Group.wr; split <;> rfl
@[simp] theorem Group.wr_stem (g : Group) (r : Nat) (v : Lanes) : (g.wr r v).stem = g.stem := by unfold Group.wr; split <;> rfl
@[simp] theorem Group.wr_depth (g : Group) (r : Nat) (v : Lanes) : (g.wr r v).depth = g.depth := by unfold Group.wr; split <;> rfl
@[simp] theorem Group.wr_image (g : Group) (r : Nat) (v : Lanes) : (g.wr r v).image = g.image := by unfold Group.wr; split <;> rfl
@[simp] theorem Group.wr_token (g : Group) (r : Nat) (v : Lanes) : (g.wr r v).token = g.token := by unfold Group.wr; split <;> rfl
@[simp] theorem Group.wr_run (g : Group) (r : Nat) (v : Lanes) : (g.wr r v).run = g.run := by unfold Group.wr; split <;> rfl
@[simp] theorem Group.wr_exited (g : Group) (r : Nat) (v : Lanes) : (g.wr r v).exited = g.exited := by unfold Group.wr; split <;> rfl
@[simp] theorem Group.wr_hostFail (g : Group) (r : Nat) (v : Lanes) : (g.wr r v).hostFail = g.hostFail := by unfold Group.wr; split <;> rfl
@[simp] theorem Group.wr_ready (g : Group) (r : Nat) (v : Lanes) : (g.wr r v).ready = g.ready := by unfold Group.wr; split <;> rfl
@[simp] theorem Group.wr_late (g : Group) (r : Nat) (v : Lanes) : (g.wr r v).late = g.late := by unfold Group.wr; split <;> rfl
@[simp] theorem Group.wr_passed (g : Group) (r : Nat) (v : Lanes) : (g.wr r v).passed = g.passed := by unfold Group.wr; split <;> rfl
@[simp] theorem Group.wr_mo (g : Group) (r : Nat) (v : Lanes) : (g.wr r v).mo = g.mo := by unfold Group.wr; split <;> rfl

/-! ### `Group.setExec` -/

@[simp] theorem Group.setExec_tid (g : Group) (m : Mask) : (g.setExec m).tid = g.tid := rfl
@[simp] theorem Group.setExec_gidx (g : Group) (m : Mask) : (g.setExec m).gidx = g.gidx := rfl
@[simp] theorem Group.setExec_dk (g : Group) (m : Mask) : (g.setExec m).dk = g.dk := rfl
@[simp] theorem Group.setExec_core (g : Group) (m : Mask) : (g.setExec m).core = g.core := rfl
@[simp] theorem Group.setExec_part (g : Group) (m : Mask) : (g.setExec m).part = g.part := rfl
@[simp] theorem Group.setExec_slot (g : Group) (m : Mask) : (g.setExec m).slot = g.slot := rfl
@[simp] theorem Group.setExec_role (g : Group) (m : Mask) : (g.setExec m).role = g.role := rfl
@[simp] theorem Group.setExec_ridx (g : Group) (m : Mask) : (g.setExec m).ridx = g.ridx := rfl
@[simp] theorem Group.setExec_status (g : Group) (m : Mask) : (g.setExec m).status = g.status := rfl
@[simp] theorem Group.setExec_wait (g : Group) (m : Mask) : (g.setExec m).wait = g.wait := rfl
@[simp] theorem Group.setExec_priv (g : Group) (m : Mask) : (g.setExec m).priv = g.priv := rfl
@[simp] theorem Group.setExec_pc (g : Group) (m : Mask) : (g.setExec m).pc = g.pc := rfl
@[simp] theorem Group.setExec_regs (g : Group) (m : Mask) : (g.setExec m).regs = g.regs := rfl
@[simp] theorem Group.setExec_rows (g : Group) (m : Mask) : (g.setExec m).rows = g.rows := rfl
@[simp] theorem Group.setExec_shared (g : Group) (m : Mask) : (g.setExec m).shared = g.shared := rfl
@[simp] theorem Group.setExec_share (g : Group) (m : Mask) : (g.setExec m).share = g.share := rfl
@[simp] theorem Group.setExec_budget (g : Group) (m : Mask) : (g.setExec m).budget = g.budget := rfl
@[simp] theorem Group.setExec_targets (g : Group) (m : Mask) : (g.setExec m).targets = g.targets := rfl
@[simp] theorem Group.setExec_live (g : Group) (m : Mask) : (g.setExec m).live = g.live := rfl
@[simp] theorem Group.setExec_mscl (g : Group) (m : Mask) : (g.setExec m).mscl = g.mscl := rfl
@[simp] theorem Group.setExec_issued (g : Group) (m : Mask) : (g.setExec m).issued = g.issued := rfl
@[simp] theorem Group.setExec_done (g : Group) (m : Mask) : (g.setExec m).done = g.done := rfl
@[simp] theorem Group.setExec_index (g : Group) (m : Mask) : (g.setExec m).index = g.index := rfl
@[simp] theorem Group.setExec_quads (g : Group) (m : Mask) : (g.setExec m).quads = g.quads := rfl
@[simp] theorem Group.setExec_mat (g : Group) (m : Mask) : (g.setExec m).mat = g.mat := rfl
@[simp] theorem Group.setExec_faults (g : Group) (m : Mask) : (g.setExec m).faults = g.faults := rfl
@[simp] theorem Group.setExec_colls (g : Group) (m : Mask) : (g.setExec m).colls = g.colls := rfl
@[simp] theorem Group.setExec_trap (g : Group) (m : Mask) : (g.setExec m).trap = g.trap := rfl
@[simp] theorem Group.setExec_heap (g : Group) (m : Mask) : (g.setExec m).heap = g.heap := rfl
@[simp] theorem Group.setExec_asn (g : Group) (m : Mask) : (g.setExec m).asn = g.asn := rfl
@[simp] theorem Group.setExec_stem (g : Group) (m : Mask) : (g.setExec m).stem = g.stem := rfl
@[simp] theorem Group.setExec_depth (g : Group) (m : Mask) : (g.setExec m).depth = g.depth := rfl
@[simp] theorem Group.setExec_image (g : Group) (m : Mask) : (g.setExec m).image = g.image := rfl
@[simp] theorem Group.setExec_token (g : Group) (m : Mask) : (g.setExec m).token = g.token := rfl
@[simp] theorem Group.setExec_run (g : Group) (m : Mask) : (g.setExec m).run = g.run := rfl
@[simp] theorem Group.setExec_exited (g : Group) (m : Mask) : (g.setExec m).exited = g.exited := rfl
@[simp] theorem Group.setExec_hostFail (g : Group) (m : Mask) : (g.setExec m).hostFail = g.hostFail := rfl
@[simp] theorem Group.setExec_ready (g : Group) (m : Mask) : (g.setExec m).ready = g.ready := rfl
@[simp] theorem Group.setExec_late (g : Group) (m : Mask) : (g.setExec m).late = g.late := rfl
@[simp] theorem Group.setExec_passed (g : Group) (m : Mask) : (g.setExec m).passed = g.passed := rfl
@[simp] theorem Group.setExec_mo (g : Group) (m : Mask) : (g.setExec m).mo = g.mo := rfl
@[simp] theorem Group.setExec_exec (g : Group) (m : Mask) : (g.setExec m).exec = m &&& g.live := rfl

/-! ### `Group.setTarget` -/

@[simp] theorem Group.setTarget_tid (g : Group) (n : BitVec 3) (t : Target) : (g.setTarget n t).tid = g.tid := rfl
@[simp] theorem Group.setTarget_gidx (g : Group) (n : BitVec 3) (t : Target) : (g.setTarget n t).gidx = g.gidx := rfl
@[simp] theorem Group.setTarget_dk (g : Group) (n : BitVec 3) (t : Target) : (g.setTarget n t).dk = g.dk := rfl
@[simp] theorem Group.setTarget_core (g : Group) (n : BitVec 3) (t : Target) : (g.setTarget n t).core = g.core := rfl
@[simp] theorem Group.setTarget_part (g : Group) (n : BitVec 3) (t : Target) : (g.setTarget n t).part = g.part := rfl
@[simp] theorem Group.setTarget_slot (g : Group) (n : BitVec 3) (t : Target) : (g.setTarget n t).slot = g.slot := rfl
@[simp] theorem Group.setTarget_role (g : Group) (n : BitVec 3) (t : Target) : (g.setTarget n t).role = g.role := rfl
@[simp] theorem Group.setTarget_ridx (g : Group) (n : BitVec 3) (t : Target) : (g.setTarget n t).ridx = g.ridx := rfl
@[simp] theorem Group.setTarget_status (g : Group) (n : BitVec 3) (t : Target) : (g.setTarget n t).status = g.status := rfl
@[simp] theorem Group.setTarget_wait (g : Group) (n : BitVec 3) (t : Target) : (g.setTarget n t).wait = g.wait := rfl
@[simp] theorem Group.setTarget_priv (g : Group) (n : BitVec 3) (t : Target) : (g.setTarget n t).priv = g.priv := rfl
@[simp] theorem Group.setTarget_pc (g : Group) (n : BitVec 3) (t : Target) : (g.setTarget n t).pc = g.pc := rfl
@[simp] theorem Group.setTarget_regs (g : Group) (n : BitVec 3) (t : Target) : (g.setTarget n t).regs = g.regs := rfl
@[simp] theorem Group.setTarget_rows (g : Group) (n : BitVec 3) (t : Target) : (g.setTarget n t).rows = g.rows := rfl
@[simp] theorem Group.setTarget_shared (g : Group) (n : BitVec 3) (t : Target) : (g.setTarget n t).shared = g.shared := rfl
@[simp] theorem Group.setTarget_share (g : Group) (n : BitVec 3) (t : Target) : (g.setTarget n t).share = g.share := rfl
@[simp] theorem Group.setTarget_budget (g : Group) (n : BitVec 3) (t : Target) : (g.setTarget n t).budget = g.budget := rfl
@[simp] theorem Group.setTarget_exec (g : Group) (n : BitVec 3) (t : Target) : (g.setTarget n t).exec = g.exec := rfl
@[simp] theorem Group.setTarget_live (g : Group) (n : BitVec 3) (t : Target) : (g.setTarget n t).live = g.live := rfl
@[simp] theorem Group.setTarget_mscl (g : Group) (n : BitVec 3) (t : Target) : (g.setTarget n t).mscl = g.mscl := rfl
@[simp] theorem Group.setTarget_issued (g : Group) (n : BitVec 3) (t : Target) : (g.setTarget n t).issued = g.issued := rfl
@[simp] theorem Group.setTarget_done (g : Group) (n : BitVec 3) (t : Target) : (g.setTarget n t).done = g.done := rfl
@[simp] theorem Group.setTarget_index (g : Group) (n : BitVec 3) (t : Target) : (g.setTarget n t).index = g.index := rfl
@[simp] theorem Group.setTarget_quads (g : Group) (n : BitVec 3) (t : Target) : (g.setTarget n t).quads = g.quads := rfl
@[simp] theorem Group.setTarget_mat (g : Group) (n : BitVec 3) (t : Target) : (g.setTarget n t).mat = g.mat := rfl
@[simp] theorem Group.setTarget_faults (g : Group) (n : BitVec 3) (t : Target) : (g.setTarget n t).faults = g.faults := rfl
@[simp] theorem Group.setTarget_colls (g : Group) (n : BitVec 3) (t : Target) : (g.setTarget n t).colls = g.colls := rfl
@[simp] theorem Group.setTarget_trap (g : Group) (n : BitVec 3) (t : Target) : (g.setTarget n t).trap = g.trap := rfl
@[simp] theorem Group.setTarget_heap (g : Group) (n : BitVec 3) (t : Target) : (g.setTarget n t).heap = g.heap := rfl
@[simp] theorem Group.setTarget_asn (g : Group) (n : BitVec 3) (t : Target) : (g.setTarget n t).asn = g.asn := rfl
@[simp] theorem Group.setTarget_stem (g : Group) (n : BitVec 3) (t : Target) : (g.setTarget n t).stem = g.stem := rfl
@[simp] theorem Group.setTarget_depth (g : Group) (n : BitVec 3) (t : Target) : (g.setTarget n t).depth = g.depth := rfl
@[simp] theorem Group.setTarget_image (g : Group) (n : BitVec 3) (t : Target) : (g.setTarget n t).image = g.image := rfl
@[simp] theorem Group.setTarget_token (g : Group) (n : BitVec 3) (t : Target) : (g.setTarget n t).token = g.token := rfl
@[simp] theorem Group.setTarget_run (g : Group) (n : BitVec 3) (t : Target) : (g.setTarget n t).run = g.run := rfl
@[simp] theorem Group.setTarget_exited (g : Group) (n : BitVec 3) (t : Target) : (g.setTarget n t).exited = g.exited := rfl
@[simp] theorem Group.setTarget_hostFail (g : Group) (n : BitVec 3) (t : Target) : (g.setTarget n t).hostFail = g.hostFail := rfl
@[simp] theorem Group.setTarget_ready (g : Group) (n : BitVec 3) (t : Target) : (g.setTarget n t).ready = g.ready := rfl
@[simp] theorem Group.setTarget_late (g : Group) (n : BitVec 3) (t : Target) : (g.setTarget n t).late = g.late := rfl
@[simp] theorem Group.setTarget_passed (g : Group) (n : BitVec 3) (t : Target) : (g.setTarget n t).passed = g.passed := rfl
@[simp] theorem Group.setTarget_mo (g : Group) (n : BitVec 3) (t : Target) : (g.setTarget n t).mo = g.mo := rfl

/-! ### `Group.refetch` -/

@[simp] theorem Group.refetch_tid (g : Group) : (g.refetch).tid = g.tid := rfl
@[simp] theorem Group.refetch_gidx (g : Group) : (g.refetch).gidx = g.gidx := rfl
@[simp] theorem Group.refetch_dk (g : Group) : (g.refetch).dk = g.dk := rfl
@[simp] theorem Group.refetch_core (g : Group) : (g.refetch).core = g.core := rfl
@[simp] theorem Group.refetch_part (g : Group) : (g.refetch).part = g.part := rfl
@[simp] theorem Group.refetch_slot (g : Group) : (g.refetch).slot = g.slot := rfl
@[simp] theorem Group.refetch_role (g : Group) : (g.refetch).role = g.role := rfl
@[simp] theorem Group.refetch_ridx (g : Group) : (g.refetch).ridx = g.ridx := rfl
@[simp] theorem Group.refetch_status (g : Group) : (g.refetch).status = g.status := rfl
@[simp] theorem Group.refetch_wait (g : Group) : (g.refetch).wait = g.wait := rfl
@[simp] theorem Group.refetch_priv (g : Group) : (g.refetch).priv = g.priv := rfl
@[simp] theorem Group.refetch_pc (g : Group) : (g.refetch).pc = g.pc := rfl
@[simp] theorem Group.refetch_regs (g : Group) : (g.refetch).regs = g.regs := rfl
@[simp] theorem Group.refetch_rows (g : Group) : (g.refetch).rows = g.rows := rfl
@[simp] theorem Group.refetch_shared (g : Group) : (g.refetch).shared = g.shared := rfl
@[simp] theorem Group.refetch_share (g : Group) : (g.refetch).share = g.share := rfl
@[simp] theorem Group.refetch_budget (g : Group) : (g.refetch).budget = g.budget := rfl
@[simp] theorem Group.refetch_exec (g : Group) : (g.refetch).exec = g.exec := rfl
@[simp] theorem Group.refetch_live (g : Group) : (g.refetch).live = g.live := rfl
@[simp] theorem Group.refetch_mscl (g : Group) : (g.refetch).mscl = g.mscl := rfl
@[simp] theorem Group.refetch_issued (g : Group) : (g.refetch).issued = g.issued := rfl
@[simp] theorem Group.refetch_done (g : Group) : (g.refetch).done = g.done := rfl
@[simp] theorem Group.refetch_index (g : Group) : (g.refetch).index = g.index := rfl
@[simp] theorem Group.refetch_quads (g : Group) : (g.refetch).quads = g.quads := rfl
@[simp] theorem Group.refetch_mat (g : Group) : (g.refetch).mat = g.mat := rfl
@[simp] theorem Group.refetch_faults (g : Group) : (g.refetch).faults = g.faults := rfl
@[simp] theorem Group.refetch_colls (g : Group) : (g.refetch).colls = g.colls := rfl
@[simp] theorem Group.refetch_trap (g : Group) : (g.refetch).trap = g.trap := rfl
@[simp] theorem Group.refetch_heap (g : Group) : (g.refetch).heap = g.heap := rfl
@[simp] theorem Group.refetch_asn (g : Group) : (g.refetch).asn = g.asn := rfl
@[simp] theorem Group.refetch_stem (g : Group) : (g.refetch).stem = g.stem := rfl
@[simp] theorem Group.refetch_depth (g : Group) : (g.refetch).depth = g.depth := rfl
@[simp] theorem Group.refetch_image (g : Group) : (g.refetch).image = g.image := rfl
@[simp] theorem Group.refetch_token (g : Group) : (g.refetch).token = g.token := rfl
@[simp] theorem Group.refetch_exited (g : Group) : (g.refetch).exited = g.exited := rfl
@[simp] theorem Group.refetch_hostFail (g : Group) : (g.refetch).hostFail = g.hostFail := rfl
@[simp] theorem Group.refetch_ready (g : Group) : (g.refetch).ready = g.ready := rfl
@[simp] theorem Group.refetch_late (g : Group) : (g.refetch).late = g.late := rfl
@[simp] theorem Group.refetch_passed (g : Group) : (g.refetch).passed = g.passed := rfl
@[simp] theorem Group.refetch_mo (g : Group) : (g.refetch).mo = g.mo := rfl

end Sys2Proof.Machine
end

