-- ==== Sys2Proof/Laws/Store.lean ====
section
/-! SUPPORT. Laws of the sparse maps: a read after a write, and the canonical form that every operation keeps. -/

namespace Sys2Proof.Machine

variable {α : Type}

theorem Store.get_cons (d : Nat → α) (j : Nat) (v : α) (t : List (Nat × α)) (k : Nat) :
    Store.get d ((j, v) :: t) k = if k = j then v else Store.get d t k := by
  simp only [Store.get]
  by_cases h : k = j
  · subst h; simp
  · have h' : Nat.beq k j = false := by
      cases hb : Nat.beq k j with
      | false => rfl
      | true => exact absurd (Nat.eq_of_beq_eq_true hb) h
    simp [h, h']

theorem Store.get_erase_same (d : Nat → α) (k : Nat) (m : List (Nat × α)) : Store.get d (Store.erase k m) k = d k := by
  induction m with
  | nil => rfl
  | cons p t ih =>
    obtain ⟨j, v⟩ := p
    by_cases h : Nat.beq k j = true
    · simp [Store.erase, h, ih]
    · simp only [Bool.not_eq_true] at h
      have hne : k ≠ j := fun e => by subst e; simp at h
      simp [Store.erase, h, Store.get_cons, hne, ih]

theorem Store.get_erase_other (d : Nat → α) {k i : Nat} (hi : i ≠ k) (m : List (Nat × α)) :
    Store.get d (Store.erase k m) i = Store.get d m i := by
  induction m with
  | nil => rfl
  | cons p t ih =>
    obtain ⟨j, v⟩ := p
    by_cases h : Nat.beq k j = true
    · have hkj : k = j := Nat.eq_of_beq_eq_true h
      subst hkj
      simp [Store.erase, Store.get_cons, hi, ih]
    · simp only [Bool.not_eq_true] at h
      simp [Store.erase, h, Store.get_cons, ih]

theorem Store.get_place_same (d : Nat → α) (k : Nat) (v : α) (m : List (Nat × α)) :
    Store.get d (Store.place k v (Store.erase k m)) k = v := by
  induction m with
  | nil => simp [Store.erase, Store.place, Store.get_cons]
  | cons p t ih =>
    obtain ⟨j, w⟩ := p
    by_cases h : Nat.beq k j = true
    · simp [Store.erase, h, ih]
    · simp only [Bool.not_eq_true] at h
      have hne : k ≠ j := fun e => by subst e; simp at h
      simp only [Store.erase, h, cond_false, Store.place]
      cases hb : Nat.blt k j with
      | true => simp [Store.get_cons]
      | false => simp [Store.get_cons, hne, ih]

theorem Store.get_place_other (d : Nat → α) {k i : Nat} (hi : i ≠ k) (v : α) (m : List (Nat × α)) :
    Store.get d (Store.place k v m) i = Store.get d m i := by
  induction m with
  | nil => simp [Store.place, Store.get_cons, hi]
  | cons p t ih =>
    obtain ⟨j, w⟩ := p
    simp only [Store.place]
    cases hb : Nat.blt k j with
    | true => simp [Store.get_cons, hi]
    | false => simp [Store.get_cons, ih]

/-- A read after a write to the same key gives the value written. -/
@[simp] theorem Store.get_put_same [DecidableEq α] (d : Nat → α) (k : Nat) (v : α) (m : List (Nat × α)) :
    Store.get d (Store.put d k v m) k = v := by
  unfold Store.put
  split
  · next h => rw [Store.get_erase_same, h]
  · exact Store.get_place_same d k v m

/-- A write leaves every other key alone. -/
theorem Store.get_put_other [DecidableEq α] (d : Nat → α) {k i : Nat} (hi : i ≠ k) (v : α) (m : List (Nat × α)) :
    Store.get d (Store.put d k v m) i = Store.get d m i := by
  unfold Store.put
  split
  · exact Store.get_erase_other d hi m
  · rw [Store.get_place_other d hi, Store.get_erase_other d hi]

@[simp] theorem Store.get_ins_same (d : Nat → α) (k : Nat) (v : α) (m : List (Nat × α)) :
    Store.get d (Store.ins k v m) k = v := Store.get_place_same d k v m

theorem Store.get_ins_other (d : Nat → α) {k i : Nat} (hi : i ≠ k) (v : α) (m : List (Nat × α)) :
    Store.get d (Store.ins k v m) i = Store.get d m i := by
  unfold Store.ins
  rw [Store.get_place_other d hi, Store.get_erase_other d hi]

theorem Store.find_cons (k j : Nat) (v : α) (t : List (Nat × α)) :
    Store.find k ((j, v) :: t) = if k = j then some v else Store.find k t := by
  simp only [Store.find]
  by_cases h : k = j
  · subst h; simp
  · have h' : Nat.beq k j = false := by
      cases hb : Nat.beq k j with
      | false => rfl
      | true => exact absurd (Nat.eq_of_beq_eq_true hb) h
    simp [h, h']

@[simp] theorem Store.find_ins_same (k : Nat) (v : α) (m : List (Nat × α)) : Store.find k (Store.ins k v m) = some v := by
  unfold Store.ins
  induction m with
  | nil => simp [Store.erase, Store.place, Store.find_cons]
  | cons p t ih =>
    obtain ⟨j, w⟩ := p
    by_cases h : Nat.beq k j = true
    · simp [Store.erase, h, ih]
    · simp only [Bool.not_eq_true] at h
      have hne : k ≠ j := fun e => by subst e; simp at h
      simp only [Store.erase, h, cond_false, Store.place]
      cases hb : Nat.blt k j with
      | true => simp [Store.find_cons]
      | false => simp [Store.find_cons, hne, ih]

theorem Store.find_ins_other {k i : Nat} (hi : i ≠ k) (v : α) (m : List (Nat × α)) :
    Store.find i (Store.ins k v m) = Store.find i m := by
  unfold Store.ins
  induction m with
  | nil => simp [Store.erase, Store.place, Store.find_cons, hi]
  | cons p t ih =>
    obtain ⟨j, w⟩ := p
    by_cases h : Nat.beq k j = true
    · have hkj : k = j := Nat.eq_of_beq_eq_true h
      subst hkj
      simp [Store.erase, Store.find_cons, hi, ih]
    · simp only [Bool.not_eq_true] at h
      simp only [Store.erase, h, cond_false, Store.place]
      cases hb : Nat.blt k j with
      | true =>
        rw [cond_true, Store.find_cons, if_neg hi, Store.find_cons]
        have he : ∀ l : List (Nat × α), Store.find i (Store.erase k l) = Store.find i l := by
          intro l
          induction l with
          | nil => rfl
          | cons q u ih' =>
            obtain ⟨a, b⟩ := q
            by_cases h2 : Nat.beq k a = true
            · have hka : k = a := Nat.eq_of_beq_eq_true h2
              subst hka
              simp [Store.erase, Store.find_cons, hi, ih']
            · simp only [Bool.not_eq_true] at h2
              simp [Store.erase, h2, Store.find_cons, ih']
        rw [Store.find_cons, he]
      | false => simp [Store.find_cons, ih]

theorem Store.erase_erase (k : Nat) (m : List (Nat × α)) : Store.erase k (Store.erase k m) = Store.erase k m := by
  induction m with
  | nil => rfl
  | cons p t ih =>
    obtain ⟨j, v⟩ := p
    cases h : Nat.beq k j <;> simp [Store.erase, h, ih]

/-- Erasing what was just placed. -/
theorem Store.erase_place (k : Nat) (v : α) (m : List (Nat × α)) : Store.erase k (Store.place k v m) = Store.erase k m := by
  induction m with
  | nil => simp [Store.place, Store.erase]
  | cons p t ih =>
    obtain ⟨j, w⟩ := p
    cases hb : Nat.blt k j with
    | true => simp [Store.place, hb, Store.erase]
    | false =>
      simp only [Store.place, hb, cond_false]
      cases h : Nat.beq k j <;> simp [Store.erase, h, ih]

theorem Store.ins_ins (k : Nat) (v w : α) (m : List (Nat × α)) : Store.ins k w (Store.ins k v m) = Store.ins k w m := by
  simp only [Store.ins, Store.erase_place, Store.erase_erase]

@[simp] theorem Store.find_erase_same (k : Nat) (m : List (Nat × α)) : Store.find k (Store.erase k m) = none := by
  induction m with
  | nil => rfl
  | cons p t ih =>
    obtain ⟨j, v⟩ := p
    cases h : Nat.beq k j with
    | true => simp [Store.erase, h, ih]
    | false => simp [Store.erase, Store.find, h, ih]

/-! ### The canonical form -/

variable [DecidableEq α]

theorem Store.wfFrom_mono (d : Nat → α) {lo lo' : Nat} (h : lo' ≤ lo) (m : List (Nat × α))
    (hw : Store.wfFrom d lo m = true) : Store.wfFrom d lo' m = true := by
  cases m with
  | nil => rfl
  | cons p t =>
    obtain ⟨j, v⟩ := p
    simp only [Store.wfFrom, Bool.and_eq_true] at hw ⊢
    refine ⟨⟨?_, hw.1.2⟩, hw.2⟩
    have := Nat.le_of_ble_eq_true hw.1.1
    exact Nat.ble_eq_true_of_le (Nat.le_trans h this)

theorem Store.wfFrom_erase (d : Nat → α) (k : Nat) (m : List (Nat × α)) (lo : Nat)
    (hw : Store.wfFrom d lo m = true) : Store.wfFrom d lo (Store.erase k m) = true := by
  induction m generalizing lo with
  | nil => exact hw
  | cons p t ih =>
    obtain ⟨j, v⟩ := p
    simp only [Store.wfFrom, Bool.and_eq_true] at hw
    by_cases h : Nat.beq k j = true
    · simp only [Store.erase, h, cond_true]
      exact ih lo (Store.wfFrom_mono d (Nat.le_succ_of_le (Nat.le_of_ble_eq_true hw.1.1)) t hw.2)
    · simp only [Bool.not_eq_true] at h
      simp only [Store.erase, h, cond_false, Store.wfFrom, Bool.and_eq_true]
      exact ⟨hw.1, ih _ hw.2⟩

/-- Placing a value that is not the default keeps the form, when the key is not listed. -/
theorem Store.wfFrom_place (d : Nat → α) (k : Nat) (v : α) (hv : v ≠ d k) (m : List (Nat × α)) (lo : Nat) (hk : lo ≤ k)
    (hn : Store.erase k m = m) (hw : Store.wfFrom d lo m = true) : Store.wfFrom d lo (Store.place k v m) = true := by
  induction m generalizing lo with
  | nil => simp [Store.place, Store.wfFrom, hv, Nat.ble_eq_true_of_le hk]
  | cons p t ih =>
    obtain ⟨j, w⟩ := p
    have hkj : k ≠ j := by
      intro e
      subst e
      have hl : (Store.erase k t).length ≤ t.length := by
        clear ih hn hw
        induction t with
        | nil => exact Nat.le_refl _
        | cons q u ih =>
          obtain ⟨a, b⟩ := q
          cases h2 : Nat.beq k a <;> simp [Store.erase, h2] <;> omega
      have := congrArg List.length hn
      simp [Store.erase] at this
      omega
    have hb : Nat.beq k j = false := by
      cases hb : Nat.beq k j with
      | false => rfl
      | true => exact absurd (Nat.eq_of_beq_eq_true hb) hkj
    have hn' : Store.erase k t = t := by
      have := hn
      simp only [Store.erase, hb, cond_false, List.cons.injEq, true_and] at this
      exact this
    simp only [Store.wfFrom, Bool.and_eq_true] at hw
    simp only [Store.place]
    cases hlt : Nat.blt k j with
    | true =>
      have : k < j := Nat.le_of_ble_eq_true hlt
      simp only [cond_true, Store.wfFrom, Bool.and_eq_true]
      refine ⟨⟨Nat.ble_eq_true_of_le hk, by simp [hv]⟩, ⟨Nat.ble_eq_true_of_le this, hw.1.2⟩, hw.2⟩
    | false =>
      have : ¬ k < j := fun h => by
        have := Nat.ble_eq_true_of_le (Nat.succ_le_of_lt h)
        simp [Nat.blt, this] at hlt
      simp only [cond_false, Store.wfFrom, Bool.and_eq_true]
      exact ⟨hw.1, ih (j + 1) (by omega) hn' hw.2⟩

/-- A write keeps the canonical form. -/
theorem Store.wf_put (d : Nat → α) (k : Nat) (v : α) (m : List (Nat × α)) (hw : Store.wf d m = true) :
    Store.wf d (Store.put d k v m) = true := by
  unfold Store.put Store.wf
  split
  · exact Store.wfFrom_erase d k m 0 hw
  · next h => exact Store.wfFrom_place d k v h _ 0 (Nat.zero_le _) (Store.erase_erase k m) (Store.wfFrom_erase d k m 0 hw)

/-- Removing an entry keeps the canonical form. -/
theorem Store.wf_erase (d : Nat → α) (k : Nat) (m : List (Nat × α)) (hw : Store.wf d m = true) :
    Store.wf d (Store.erase k m) = true := Store.wfFrom_erase d k m 0 hw

theorem Store.wfFrom_filter (d : Nat → α) (f : Nat × α → Bool) (m : List (Nat × α)) (lo : Nat)
    (hw : Store.wfFrom d lo m = true) : Store.wfFrom d lo (m.filter f) = true := by
  induction m generalizing lo with
  | nil => exact hw
  | cons p t ih =>
    obtain ⟨j, v⟩ := p
    simp only [Store.wfFrom, Bool.and_eq_true] at hw
    cases h : f (j, v) with
    | false =>
      rw [List.filter_cons_of_neg (by simp [h])]
      exact ih lo (Store.wfFrom_mono d (Nat.le_succ_of_le (Nat.le_of_ble_eq_true hw.1.1)) t hw.2)
    | true =>
      rw [List.filter_cons_of_pos h]
      simp only [Store.wfFrom, Bool.and_eq_true]
      exact ⟨hw.1, ih _ hw.2⟩

/-- Removing entries keeps the canonical form. -/
theorem Store.wf_filter (d : Nat → α) (f : Nat × α → Bool) (m : List (Nat × α)) (hw : Store.wf d m = true) :
    Store.wf d (m.filter f) = true := Store.wfFrom_filter d f m 0 hw

end Sys2Proof.Machine
end

