-- ==== Sys2Proof/Laws/Memory.lean ====
section
/-! SUPPORT. Laws of memory: a byte read after a write, and that every memory operation keeps the canonical form. -/

namespace Sys2Proof.Machine

/-- A byte written is read back. -/
@[simp] theorem State.byte_setByte_same (s : State) (ga : Nat) (b : Byte) : (s.setByte ga b).byte ga = b := by
  simp [State.byte]

/-- A byte written leaves every other byte alone. -/
theorem State.byte_setByte_other (s : State) {ga a : Nat} (h : a ≠ ga) (b : Byte) : (s.setByte ga b).byte a = s.byte a := by
  simp only [State.byte, State.setByte_mem]
  exact Store.get_put_other _ h _ _

/-- Bytes outside the stored range are unchanged. -/
theorem State.byte_setBytes_other (s : State) (ga : Nat) (bs : List Byte) (a : Nat) (h : a < ga ∨ ga + bs.length ≤ a) :
    (s.setBytes ga bs).byte a = s.byte a := by
  induction bs generalizing s ga with
  | nil => rfl
  | cons b t ih =>
    simp only [List.length_cons] at h
    simp only [State.setBytes]
    rw [ih _ _ (by omega), State.byte_setByte_other _ (by omega)]

/-- The stored bytes read back. -/
theorem State.byte_setBytes_in (s : State) (ga : Nat) (bs : List Byte) (i : Nat) (h : i < bs.length) :
    (s.setBytes ga bs).byte (ga + i) = bs[i] := by
  induction bs generalizing s ga i with
  | nil => exact absurd h (Nat.not_lt_zero _)
  | cons b t ih =>
    simp only [State.setBytes]
    cases i with
    | zero => rw [State.byte_setBytes_other _ _ _ _ (by omega)]; simp
    | succ n =>
      have := ih (s.setByte ga b) (ga + 1) n (by simpa using h)
      rw [show ga + (n + 1) = ga + 1 + n by omega, this]
      rfl

/-- Bytes stored are read back as they are. -/
theorem State.bytes_setBytes (s : State) (ga : Nat) (bs : List Byte) : (s.setBytes ga bs).bytes ga bs.length = bs := by
  have key : ∀ (n : Nat) (f : State) (a : Nat) (l : List Byte), l.length = n → (∀ i (h : i < l.length), f.byte (a + i) = l[i]) →
      f.bytes a n = l := by
    intro n
    induction n with
    | zero => intro f a l hl _; rw [List.length_eq_zero_iff.mp hl]; rfl
    | succ n ih =>
      intro f a l hl hb
      cases l with
      | nil => simp at hl
      | cons b t =>
        simp only [State.bytes, List.cons.injEq]
        refine ⟨hb 0 (by simp), ih f (a + 1) t (by simpa using hl) ?_⟩
        intro i h
        have := hb (i + 1) (by simpa using h)
        rw [show a + 1 + i = a + (i + 1) by omega, this]
        rfl
  exact key _ _ _ _ rfl fun i h => State.byte_setBytes_in s ga bs i h

/-- Bytes outside the stored range, of a little-endian number. -/
theorem State.byte_wrN_other (s : State) (ga n v a : Nat) (h : a < ga ∨ ga + n ≤ a) : (s.wrN ga n v).byte a = s.byte a := by
  have hl : ∀ n v, (bytesLE v n).length = n := by
    intro n
    induction n with
    | zero => intro v; rfl
    | succ n ih => intro v; simp [bytesLE, ih]
  exact State.byte_setBytes_other _ _ _ _ (by rw [hl]; exact h)

/-! ### The canonical form -/

theorem Memory.wf_setByte (s : State) (ga : Nat) (b : Byte) (h : Memory.wf s.mem = true) :
    Memory.wf (s.setByte ga b).mem = true := Store.wf_put memDefault ga b s.mem h

theorem Memory.wf_setBytes (s : State) (ga : Nat) (bs : List Byte) (h : Memory.wf s.mem = true) :
    Memory.wf (s.setBytes ga bs).mem = true := by
  induction bs generalizing s ga with
  | nil => exact h
  | cons b t ih => exact ih _ _ (Memory.wf_setByte s ga b h)

theorem Memory.wf_wrN (s : State) (ga n v : Nat) (h : Memory.wf s.mem = true) : Memory.wf (s.wrN ga n v).mem = true :=
  Memory.wf_setBytes s ga _ h

theorem Memory.wf_filter (m : List Host.Cell) (f : Host.Cell → Bool) (h : Memory.wf m = true) :
    Memory.wf (m.filter f) = true := Store.wf_filter memDefault f m h

theorem Memory.wf_reset : Memory.wf State.reset.mem = true := rfl

end Sys2Proof.Machine
end

