-- ==== Sys2Proof/Laws/Registers.lean ====
section
/-! SUPPORT. What a register write can do: the registers of the write, the rows that hold them, and nothing else; and when an
instruction issues. -/

namespace Sys2Proof.Machine

/-- A slot found changes the rows of the group only. -/
theorem Group.slotFor_frame {g g' : Group} {free free' r cls : Nat} (h : g.slotFor free r cls = some (g', free')) :
    g' = { g with rows := g'.rows, shared := g'.shared } := by
  unfold Group.slotFor at h
  split at h
  · split at h
    · cases h; rfl
    · split at h
      · cases h
      · split at h
        · cases h; rfl
        · cases h
  · split at h
    · cases h; rfl
    · cases h

/-- A register written changes its value and the rows of the group. -/
theorem Group.put_frame {g g' : Group} {free free' r : Nat} {v : Lanes} (h : g.put free r v = some (g', free')) :
    g' = { g with regs := (g.wr r v).regs, rows := g'.rows, shared := g'.shared } := by
  unfold Group.put at h
  split at h
  · next hr => cases h; simp [Group.wr, hr]
  · next hr =>
    split at h
    · next hs =>
      have hf := Group.slotFor_frame hs
      cases h
      rw [hf]
      simp [Group.wr, hr]
    · cases h

theorem Group.rd_wr_same (g : Group) {r : Nat} (h0 : r ≠ 0) (h : r < 128) (v : Lanes) : (g.wr r v).rd r = v := by
  simp [Group.rd, Group.wr, h0, h]

theorem Group.rd_wr_other (g : Group) {r q : Nat} (h : q ≠ r) (v : Lanes) : (g.wr r v).rd q = g.rd q := by
  unfold Group.rd Group.wr
  by_cases h0 : r = 0
  · simp [h0]
  · by_cases hq : q = 0
    · simp [hq]
    · simp only [if_neg h0, if_neg hq]
      rw [Vector.getElem?_setIfInBounds_ne (by omega)]

/-- Several registers written: only their values and the rows of the group change. -/
theorem Group.putAll_frame {g g' : Group} {free : Nat} {ws : List (Nat × Lanes)} (h : g.putAll free ws = some g') :
    g' = { g with regs := g'.regs, rows := g'.rows, shared := g'.shared } := by
  induction ws generalizing g free with
  | nil => cases h; rfl
  | cons w t ih =>
    obtain ⟨r, v⟩ := w
    simp only [Group.putAll] at h
    split at h
    · next hp =>
      have h1 := Group.put_frame hp
      have h2 := ih h
      rw [h2]
      rw [h1]
    · cases h

/-- The registers read after several were written. -/
theorem Group.putAll_rd {g g' : Group} {free : Nat} {ws : List (Nat × Lanes)} (h : g.putAll free ws = some g')
    (hd : (ws.map (·.1)).Nodup) (r : Nat) (hr : r < 128) : g'.rd r = readAfter g ws r := by
  induction ws generalizing g free with
  | nil =>
    cases h
    unfold readAfter
    split
    · next h0 => simp [Group.rd, h0]
    · rfl
  | cons w t ih =>
    obtain ⟨q, v⟩ := w
    simp only [List.map_cons, List.nodup_cons] at hd
    simp only [Group.putAll] at h
    split at h
    · next g1 f1 hp =>
      have h1 := Group.put_frame hp
      have h2 := ih h hd.2
      have hrd : ∀ x, g1.rd x = (g.wr q v).rd x := by intro x; rw [h1]; rfl
      rw [h2]
      unfold readAfter
      by_cases h0 : r = 0
      · simp [h0]
      · simp only [if_neg h0, List.find?_cons]
        by_cases hq : q = r
        · subst hq
          have hnone : (t.find? fun w => w.1 == q) = none := by
            rw [List.find?_eq_none]
            intro x hx
            have : x.1 ≠ q := fun e => hd.1 (e ▸ List.mem_map_of_mem hx)
            simp [this]
          simp only [hnone, beq_self_eq_true, hrd]
          exact Group.rd_wr_same g h0 hr v
        · have : (q == r) = false := by simp [hq]
          simp only [this, hrd]
          cases t.find? fun w => w.1 == r with
          | some w => rfl
          | none => exact Group.rd_wr_other g (Ne.symm hq) v
    · cases h

/-- A register write answers a state whose registers are as `readAfter` says, with everything else as before (R14, R20). -/
theorem State.putRegs_spec {s t : State} {ws : List (Nat × Lanes)} (h : s.putRegs ws = some t) (hd : (ws.map (·.1)).Nodup) :
    (∀ r, r < 128 → t.g.rd r = readAfter s.g ws r) ∧
    t = { s with g := { s.g with regs := t.g.regs, rows := t.g.rows, shared := t.g.shared } } := by
  unfold State.putRegs at h
  cases hp : s.g.putAll s.freeRows ws with
  | none => simp [hp] at h
  | some g' =>
    simp only [hp, Option.map_some, Option.some.injEq] at h
    subst h
    refine ⟨fun r hr => Group.putAll_rd hp hd r hr, ?_⟩
    have hf := Group.putAll_frame hp
    simp only
    rw [← hf]

/-- The write-back of an instruction that has the rows it needs completes (R21). -/
theorem wb_completes {i : Instr} {s : State} {ws : List (Nat × Lanes)} (hr : Roomy s ws) (hd : (ws.map (·.1)).Nodup) :
    ∃ t, wb i s ws = .next t ∧ Writes i s t ws := by
  unfold Roomy at hr
  cases hp : s.putRegs ws with
  | none => simp [hp] at hr
  | some t =>
    obtain ⟨h1, h2⟩ := State.putRegs_spec hp hd
    refine ⟨t.advance i, by simp [wb, wbOn, hp, done], h1, ?_⟩
    rw [h2]
    rfl

/-- The write-back of an instruction whose other effects are in `s'`. -/
theorem wbOn_completes {i : Instr} {s s' : State} {ws : List (Nat × Lanes)} (hr : Roomy s' ws) (hd : (ws.map (·.1)).Nodup) :
    ∃ t, wbOn i s s' ws = .next t ∧ Writes i s' t ws := by
  obtain ⟨t, h1, h2⟩ := wb_completes (i := i) hr hd
  refine ⟨t, ?_, h2⟩
  rw [← h1]
  unfold wb wbOn
  unfold Roomy at hr
  cases hp : s'.putRegs ws with
  | none => simp [hp] at hr
  | some t => rfl

/-- Without a row the instruction has no effect: the register copy fault (R21). -/
theorem wb_rowFault {i : Instr} {s : State} {ws : List (Nat × Lanes)} (hr : ¬ Roomy s ws) :
    wb i s ws = .next s.rowTrap := by
  unfold Roomy at hr
  cases hp : s.putRegs ws with
  | none => simp [wb, wbOn, hp, rowFault, State.rowTrap, State.trapRegs, plainTrap, Trap.cause]
  | some t => simp [hp] at hr

/-! ### Room -/

theorem moveReg_some {rows : List Row} {free r cls : Nat} (hf : 1 ≤ free) :
    ∃ rows' free', moveReg rows free r cls = some (rows', free') ∧ free ≤ free' + 1 := by
  unfold moveReg
  split
  · exact ⟨_, _, rfl, by omega⟩
  · simp only
    split
    · exact ⟨_, _, rfl, by omega⟩
    · rw [if_neg (by omega)]
      exact ⟨_, _, rfl, by omega⟩

theorem Group.slotFor_some {g : Group} {free r cls : Nat} (hf : 2 ≤ free) :
    ∃ g' free', g.slotFor free r cls = some (g', free') ∧ free ≤ free' + 2 := by
  unfold Group.slotFor
  split
  · next w _ =>
    split
    · exact ⟨_, _, rfl, by omega⟩
    · rw [if_neg (by omega)]
      obtain ⟨rows', f', h, hl⟩ := moveReg_some (rows := w :: g.rows) (r := r) (cls := cls) (show 1 ≤ free - 1 by omega)
      rw [h]
      exact ⟨_, _, rfl, by omega⟩
  · obtain ⟨rows', f', h, hl⟩ := moveReg_some (rows := g.rows) (r := r) (cls := cls) (show 1 ≤ free by omega)
    rw [h]
    exact ⟨_, _, rfl, by omega⟩

theorem Group.put_some {g : Group} {free r : Nat} {v : Lanes} (hf : 2 ≤ free) :
    ∃ g' free', g.put free r v = some (g', free') ∧ free ≤ free' + 2 := by
  unfold Group.put
  split
  · exact ⟨_, _, rfl, by omega⟩
  · obtain ⟨g', f', h, hl⟩ := Group.slotFor_some (g := g) (r := r) (cls := classify v) hf
    rw [h]
    exact ⟨_, _, rfl, hl⟩

/-- Two free rows for each register written always suffice: one for a copy of a shared row, one for a wider slot (R20, R36). -/
theorem Group.putAll_some {g : Group} {free : Nat} {ws : List (Nat × Lanes)} (hf : 2 * ws.length ≤ free) :
    (g.putAll free ws).isSome = true := by
  induction ws generalizing g free with
  | nil => rfl
  | cons w t ih =>
    obtain ⟨r, v⟩ := w
    simp only [List.length_cons] at hf
    obtain ⟨g', f', h, hl⟩ := Group.put_some (g := g) (r := r) (v := v) (show 2 ≤ free by omega)
    simp only [Group.putAll, h]
    exact ih (by omega)

theorem roomy_of_freeRows {s : State} {ws : List (Nat × Lanes)} (h : 2 * ws.length ≤ s.freeRows) : Roomy s ws := by
  unfold Roomy State.putRegs
  rw [Option.isSome_map]
  exact Group.putAll_some h

/-! ### Issue -/

theorem Group.hazard_false {g : Group} {ops : List Opnd}
    (h : ∀ o ∈ ops, ∀ m ∈ g.mat, m.d + m.cols ≤ o.base ∨ o.base + o.count ≤ m.d) : g.hazard ops = false := by
  unfold Group.hazard
  rw [List.any_eq_false]
  intro m hm
  rw [Bool.not_eq_true, List.any_eq_false]
  intro o ho
  have := h o ho m hm
  simp only [Bool.and_eq_true, decide_eq_true_eq]
  omega

theorem Group.loading_false {g : Group} {ops : List Opnd}
    (h : ∀ o ∈ ops, ∀ m ∈ g.mo.loads, m.d + m.cnt ≤ o.base ∨ o.base + o.count ≤ m.d) : g.loading ops = false := by
  unfold Group.loading
  rw [List.any_eq_false]
  intro m hm
  rw [Bool.not_eq_true, List.any_eq_false]
  intro o ho
  have := h o ho m hm
  simp only [Bool.and_eq_true, decide_eq_true_eq]
  omega

/-- An instruction none of whose operands is awaited goes on. -/
theorem ready_ok {i : Instr} {ops : List Opnd} {s : State} (h : Issues i ops s) (k : Out) : ready ops s k = k := by
  simp [ready, Group.hazard_false h.2.2.2.1, Group.loading_false h.2.2.2.2]

theorem illegalCode_none {i : Instr} {ops : List Opnd} {more : List (Nat × Bool)} {s : State} (h : Issues i ops s)
    (hm : ∀ p ∈ more, p.2 = false) : illegalCode s.g (Instr.reserved i) ops more = none := by
  obtain ⟨h1, h2, h3, -⟩ := h
  unfold illegalCode
  have ho : (ops.any fun o => o.over s.g.budget) = false := by
    rw [List.any_eq_false]; intro o ho; have := h2 o ho; simp [Opnd.over]; omega
  have ha : (ops.any fun o => o.misaligned) = false := by
    rw [List.any_eq_false]; intro o ho
    simp only [Opnd.misaligned, Bool.and_eq_true, decide_eq_true_eq, Bool.or_eq_true, not_and, not_or]
    intro hc
    have := h3 o ho hc
    simp [this.1, this.2]
  have hf : more.find? (fun p => p.2) = none := by
    rw [List.find?_eq_none]; intro p hp; simp [hm p hp]
  simp [h1, ho, ha, hf]

/-- An instruction that issues does what `k` says. -/
theorem issue_ok {i : Instr} {ops : List Opnd} {s : State} (h : Issues i ops s) (k : Out) : issue i ops [] s k = k := by
  unfold issue
  rw [illegalCode_none h (by simp)]
  exact ready_ok h k

theorem issue_more_ok {i : Instr} {ops : List Opnd} {more : List (Nat × Bool)} {s : State} (h : Issues i ops s)
    (hm : ∀ p ∈ more, p.2 = false) (k : Out) : issue i ops more s k = k := by
  unfold issue
  rw [illegalCode_none h hm]
  exact ready_ok h k

/-- A shift left by a register count is the shift of the 32-bit value, whatever the count (Table 5-2). -/
theorem aluShl_eq (a b : Word) : aluShl a b = a <<< b.toNat := by
  unfold aluShl
  split
  · rfl
  · rename_i h
    exact (BitVec.shiftLeft_eq_zero (by omega)).symm

end Sys2Proof.Machine
end

