-- ==== Sys2Proof/Laws/Access.lean ====
section
/-! SUPPORT. What a lane memory access comes to when stage 1 passes, and what the walker's marks and the end of the transactions
leave alone. -/

namespace Sys2Proof.Machine

theorem leastTrap_none {l : List Trap} (h : l = []) : leastTrap l = none := by rw [h]; rfl

/-- An access whose pieces a path carries asks for all its lines (R200). -/
theorem LaneAcc.linesFor_eq {s : State} {m : MemOp} {a : LaneAcc} (h : s.pathTraps m a = []) : a.linesFor m = a.lines := by
  have hf : a.ps.filter m.pathBad = [] := List.map_eq_nil_iff.mp h
  have hk : (a.ps.filter fun p => !m.pathBad p) = a.ps :=
    List.filter_eq_self.mpr fun p hp => by simpa using List.filter_eq_nil_iff.mp hf p hp
  unfold LaneAcc.linesFor
  split
  · rw [hk]
  · rfl

/-- When stage 1 passes and every piece has a path, an access performs stage 2 (R178). -/
theorem State.access_ok {s : State} {m : MemOp} {qs : List LaneReq} {accs : List LaneAcc} (h : Reaches s m qs accs)
    (hp : ∀ a ∈ accs, s.pathTraps m a = []) (late : State → List LaneAcc → State) (k : State → List LaneAcc → Out) :
    s.access m qs late k = afterFirewall s (k (s.ready accs) accs) := by
  obtain ⟨h1, h2⟩ := h
  have hln : accs.flatMap (LaneAcc.linesFor m) = accs.flatMap LaneAcc.lines := by
    simp only [List.flatMap, List.map_congr_left fun a ha => LaneAcc.linesFor_eq (hp a ha)]
  have hpt : accs.flatMap (s.pathTraps m) = [] := List.flatMap_eq_nil_iff.mpr hp
  have hls : ((accs.flatMap LaneAcc.lines).map fun u => (u, s.lineState m.kind u)) =
      (accs.flatMap LaneAcc.lines).map fun u => (u, LineState.ok) :=
    List.map_congr_left fun u hu => by rw [(h2 u hu).1]
  have hacc : (accs.map LaneRes.ok).filterMap LaneRes.accOf = accs := by
    rw [List.filterMap_map]; exact List.filterMap_some
  unfold State.access
  simp only [h1]
  rw [leastTrap_none (List.filterMap_eq_nil_iff.mpr (by simp [LaneRes.trapOf]))]
  simp only
  rw [List.findSome?_eq_none_iff.mpr (by simp [LaneRes.askOf])]
  simp only [hacc, hln, hls, hpt, List.append_nil]
  rw [List.filterMap_eq_nil_iff.mpr (by rintro l hl; obtain ⟨u, -, rfl⟩ := List.mem_map.mp hl; rfl), leastTrap_none (List.filterMap_eq_nil_iff.mpr _)]
  · simp [State.ready]
  · intro l hl
    simp only [List.mem_map] at hl
    obtain ⟨u, hu, rfl⟩ := hl
    simp only [State.useTrap]
    split
    · next hd => rw [(h2 u hu).2 hd]; rfl
    · rfl

/-- A mark of the walker reaches the bytes of its entry only (R335). -/
theorem State.mark_byte (s : State) (ps : List Piece) (a : Nat)
    (h : ∀ p ∈ ps, ∀ e v, p.x.mark = some (e, v) → a < e ∨ e + 8 ≤ a) : (s.mark ps).byte a = s.byte a := by
  unfold State.mark
  induction ps generalizing s with
  | nil => rfl
  | cons p t ih =>
    simp only [List.foldl_cons]
    rw [ih _ fun q hq => h q (List.mem_cons_of_mem _ hq)]
    cases hm : p.x.mark with
    | none => rfl
    | some ev => exact State.byte_wrN_other s ev.1 8 _ a (h p List.mem_cons_self ev.1 ev.2 hm)

theorem State.setBytes_frame (s : State) (ga : Nat) (bs : List Byte) :
    s.setBytes ga bs = { s with mem := (s.setBytes ga bs).mem } := by
  induction bs generalizing s ga with
  | nil => rfl
  | cons b t ih =>
    simp only [State.setBytes]
    rw [ih]
    rfl

/-- The walker's marks change memory only. -/
theorem State.mark_frame (s : State) (ps : List Piece) : s.mark ps = { s with mem := (s.mark ps).mem } := by
  unfold State.mark
  induction ps generalizing s with
  | nil => rfl
  | cons p t ih =>
    simp only [List.foldl_cons]
    rw [ih]
    cases p.x.mark with
    | none => rfl
    | some ev => simp only [State.wrN]; rw [State.setBytes_frame]

/-- What precedes stage 2 changes memory, the transactions and the host's answer only. -/
theorem State.ready_frame (s : State) (accs : List LaneAcc) :
    s.ready accs = { s with mem := (s.ready accs).mem, txns := (s.ready accs).txns, g := { s.g with hostFail := none, late := false } } := by
  unfold State.ready
  rw [State.mark_frame]
  rfl

theorem State.ready_byte (s : State) (accs : List LaneAcc) (a : Nat) (h : ∀ p ∈ accs.flatMap (·.ps),
    ∀ e v, p.x.mark = some (e, v) → a < e ∨ e + 8 ≤ a) : (s.ready accs).byte a = s.byte a :=
  State.mark_byte s _ a h

end Sys2Proof.Machine
end

