-- ==== Sys2Proof/Laws/Lookup.lean ====
section
/-! SUPPORT. Each lookup after each named update: what was put is found, every other key is as it was, and updates that keep one
field of the state stay out of the way. -/

namespace Sys2Proof.Machine

/-! ### Teams, cores, dies, packages -/

@[simp] theorem State.team_setTeam_same (s : State) (k : Nat) (t : Team) : (s.setTeam k t).team k = t := by simp [State.team]
theorem State.team_setTeam_other (s : State) {k i : Nat} (h : i ≠ k) (t : Team) : (s.setTeam k t).team i = s.team i :=
  Store.get_ins_other _ h _ _
@[simp] theorem State.core_setCore_same (s : State) (k : Nat) (c : Core) : (s.setCore k c).core k = c := by simp [State.core]
theorem State.core_setCore_other (s : State) {k i : Nat} (h : i ≠ k) (c : Core) : (s.setCore k c).core i = s.core i :=
  Store.get_ins_other _ h _ _
@[simp] theorem State.die_setDie_same (s : State) (k : Nat) (d : Die) : (s.setDie k d).die k = d := by simp [State.die]
theorem State.die_setDie_other (s : State) {k i : Nat} (h : i ≠ k) (d : Die) : (s.setDie k d).die i = s.die i :=
  Store.get_ins_other _ h _ _
@[simp] theorem State.pkg_setPkg_same (s : State) (k : Nat) (p : Package) : (s.setPkg k p).pkg k = p := by simp [State.pkg]
theorem State.pkg_setPkg_other (s : State) {k i : Nat} (h : i ≠ k) (p : Package) : (s.setPkg k p).pkg i = s.pkg i :=
  Store.get_ins_other _ h _ _

@[simp] theorem State.team_setDie (s : State) (k : Nat) (d : Die) (i : Nat) : (s.setDie k d).team i = s.team i := rfl
@[simp] theorem State.team_setCore (s : State) (k : Nat) (c : Core) (i : Nat) : (s.setCore k c).team i = s.team i := rfl
@[simp] theorem State.team_setPkg (s : State) (k : Nat) (p : Package) (i : Nat) : (s.setPkg k p).team i = s.team i := rfl
@[simp] theorem State.team_setDev (s : State) (k o : Nat) (v : DWord) (i : Nat) : (s.setDev k o v).team i = s.team i := rfl
@[simp] theorem State.core_setDie (s : State) (k : Nat) (d : Die) (i : Nat) : (s.setDie k d).core i = s.core i := rfl
@[simp] theorem State.core_setTeam (s : State) (k : Nat) (t : Team) (i : Nat) : (s.setTeam k t).core i = s.core i := rfl
@[simp] theorem State.core_setPkg (s : State) (k : Nat) (p : Package) (i : Nat) : (s.setPkg k p).core i = s.core i := rfl
@[simp] theorem State.core_setDev (s : State) (k o : Nat) (v : DWord) (i : Nat) : (s.setDev k o v).core i = s.core i := rfl
@[simp] theorem State.die_setTeam (s : State) (k : Nat) (t : Team) (i : Nat) : (s.setTeam k t).die i = s.die i := rfl
@[simp] theorem State.die_setCore (s : State) (k : Nat) (c : Core) (i : Nat) : (s.setCore k c).die i = s.die i := rfl
@[simp] theorem State.die_setPkg (s : State) (k : Nat) (p : Package) (i : Nat) : (s.setPkg k p).die i = s.die i := rfl
@[simp] theorem State.pkg_setTeam (s : State) (k : Nat) (t : Team) (i : Nat) : (s.setTeam k t).pkg i = s.pkg i := rfl
@[simp] theorem State.pkg_setCore (s : State) (k : Nat) (c : Core) (i : Nat) : (s.setCore k c).pkg i = s.pkg i := rfl
@[simp] theorem State.pkg_setDie (s : State) (k : Nat) (d : Die) (i : Nat) : (s.setDie k d).pkg i = s.pkg i := rfl
@[simp] theorem State.pkg_setDev (s : State) (k o : Nat) (v : DWord) (i : Nat) : (s.setDev k o v).pkg i = s.pkg i := rfl

/-! ### Registers of a die -/

theorem State.setDev_eq (s : State) (k o : Nat) (v : DWord) :
    s.setDev k o v = s.setDie k { s.die k with regs := Store.put devReset o v (s.die k).regs } := rfl
theorem State.setSysReg_eq (s : State) (k n : Nat) (v : DWord) :
    s.setSysReg k n v = s.setDie k { s.die k with sys := Store.put (sysReset k) n v (s.die k).sys } := rfl
@[simp] theorem State.dev_setDev_same (s : State) (k o : Nat) (v : DWord) : (s.setDev k o v).dev k o = v := by
  simp [State.dev, State.setDev_eq]
theorem State.dev_setDev_other (s : State) (k : Nat) {o i : Nat} (h : i ≠ o) (v : DWord) : (s.setDev k o v).dev k i = s.dev k i := by
  simp [State.dev, State.setDev_eq, Store.get_put_other _ h]
@[simp] theorem State.sysReg_setSysReg_same (s : State) (k n : Nat) (v : DWord) : (s.setSysReg k n v).sysReg k n = v := by
  simp [State.sysReg, State.setSysReg_eq]
theorem State.sysReg_setSysReg_other (s : State) (k : Nat) {n i : Nat} (h : i ≠ n) (v : DWord) :
    (s.setSysReg k n v).sysReg k i = s.sysReg k i := by
  simp [State.sysReg, State.setSysReg_eq, Store.get_put_other _ h]
@[simp] theorem State.dev_setDie_regs (s : State) (k : Nat) (d : Die) (h : d.regs = (s.die k).regs) (o : Nat) :
    (s.setDie k d).dev k o = s.dev k o := by simp [State.dev, h]
@[simp] theorem State.dev_setTeam (s : State) (k : Nat) (t : Team) (i o : Nat) : (s.setTeam k t).dev i o = s.dev i o := rfl
@[simp] theorem State.dev_setCore (s : State) (k : Nat) (c : Core) (i o : Nat) : (s.setCore k c).dev i o = s.dev i o := rfl
@[simp] theorem State.dev_setPkg (s : State) (k : Nat) (p : Package) (i o : Nat) : (s.setPkg k p).dev i o = s.dev i o := rfl
@[simp] theorem State.dev_setSysReg (s : State) (k n : Nat) (v : DWord) (o : Nat) : (s.setSysReg k n v).dev k o = s.dev k o := by
  simp [State.dev, State.setSysReg_eq]
@[simp] theorem State.sysReg_setDev (s : State) (k o : Nat) (v : DWord) (n : Nat) : (s.setDev k o v).sysReg k n = s.sysReg k n := by
  simp [State.sysReg, State.setDev_eq]
@[simp] theorem State.setDie_setDie (s : State) (k : Nat) (d e : Die) : (s.setDie k d).setDie k e = s.setDie k e := by
  simp only [State.setDie, Store.ins_ins]
@[simp] theorem State.setPkg_setPkg (s : State) (k : Nat) (p q : Package) : (s.setPkg k p).setPkg k q = s.setPkg k q := by
  simp only [State.setPkg, Store.ins_ins]
@[simp] theorem State.setTeam_setTeam (s : State) (k : Nat) (t u : Team) : (s.setTeam k t).setTeam k u = s.setTeam k u := by
  simp only [State.setTeam, Store.ins_ins]
@[simp] theorem State.setCore_setCore (s : State) (k : Nat) (c e : Core) : (s.setCore k c).setCore k e = s.setCore k e := by
  simp only [State.setCore, Store.ins_ins]

/-! ### Lines -/

@[simp] theorem State.dirAt_setDir_same (s : State) (l : Nat) (d : Dir) : (s.setDir l d).dirAt l = d := by simp [State.dirAt]
theorem State.dirAt_setDir_other (s : State) {l k : Nat} (h : k ≠ l) (d : Dir) : (s.setDir l d).dirAt k = s.dirAt k :=
  Store.get_put_other _ h _ _
@[simp] theorem State.dirAt_setHeld (s : State) (l p x k : Nat) : (s.setHeld l p x).dirAt k = s.dirAt k := rfl
@[simp] theorem State.heldBy_setHeld_same (s : State) (l p x : Nat) : (s.setHeld l p x).heldBy l p = x := by
  simp [State.heldBy, State.setHeld]
@[simp] theorem State.heldBy_setDir (s : State) (l : Nat) (d : Dir) (k p : Nat) : (s.setDir l d).heldBy k p = s.heldBy k p := rfl
@[simp] theorem State.isPoison_setPoison_same (s : State) (l : Nat) (b : Bool) : (s.setPoison l b).isPoison l = b := by
  simp [State.isPoison]
@[simp] theorem State.isFull_setFull_same (s : State) (q : Nat) (b : Bool) : (s.setFull q b).isFull q = b := by
  simp [State.isFull]
theorem State.isFull_setFull_other (s : State) {q k : Nat} (h : k ≠ q) (b : Bool) : (s.setFull q b).isFull k = s.isFull k :=
  Store.get_put_other _ h _ _

/-! ### Groups -/

theorem State.group_setGroup_same (s : State) (k : Nat) (g : Group) (h : g.key = k ∨ k ≠ s.g.key) : (s.setGroup k g).group k = g := by
  unfold State.setGroup State.group
  by_cases e : k = s.g.key
  · rcases h with h | h
    · simp [e, h]
    · exact absurd e h
  · simp [e]
theorem State.group_setGroup_other (s : State) {k i : Nat} (h : i ≠ k) (g : Group) (hg : g.key = k ∨ k ≠ s.g.key) :
    (s.setGroup k g).group i = s.group i := by
  unfold State.setGroup State.group
  by_cases e : k = s.g.key
  · rcases hg with hg | hg
    · subst e; simp [h, hg]
    · exact absurd e hg
  · by_cases e2 : i = s.g.key
    · simp [e, e2]
    · simp [e, e2, Store.get_ins_other _ h]

end Sys2Proof.Machine
end

