-- ==== Sys2Proof/Laws/Order.lean ====
section
/-! SUPPORT. What the operations of the memory model and of the caches do to the bytes of memory: a write within a granule is the
write of its bytes, whatever it does to tables, blocks, tags and second values; copies in caches hold no bytes; and each of them
keeps the canonical form. -/

namespace Sys2Proof.Machine

/-- A fold of steps that keep a property keeps it. -/
theorem foldl_keeps {α β : Type} (P : β → Prop) (f : β → α → β) (h : ∀ b a, P b → P (f b a)) (l : List α) (b : β) (hb : P b) :
    P (l.foldl f b) := by
  induction l generalizing b with
  | nil => exact hb
  | cons a t ih => exact ih _ (h b a hb)

/-! ### Writes within a granule -/

/-- The same bytes written over equal memories leave equal memories. -/
theorem State.setBytes_mem_congr (s t : State) (h : s.mem = t.mem) (ga : Nat) (bs : List Byte) :
    (s.setBytes ga bs).mem = (t.setBytes ga bs).mem := by
  induction bs generalizing s t ga with
  | nil => exact h
  | cons b l ih => exact ih _ _ (by simp [h]) _

/-- A count of collective issues that restarts leaves memory as it was. -/
theorem State.tabWrite_mem (s : State) (ga : Nat) (bs : List Byte) : (s.tabWrite ga bs).mem = s.mem := by
  refine foldl_keeps (fun t : State => t.mem = s.mem) _ (fun b a h => ?_) s.dies s rfl
  dsimp only
  split
  · split <;> exact h
  · exact h

/-- A block that becomes a team's own leaves memory as it was. -/
theorem State.ownBlock_mem (s : State) (ga : Nat) : (s.ownBlock ga).mem = s.mem := by
  unfold State.ownBlock
  split
  · rfl
  · split
    · dsimp only
      split <;> rfl
    · rfl

/-- The tables and blocks that a write changes stand beside the second values of granules. -/
theorem State.tabWrite_snoop (s : State) (ga : Nat) (bs : List Byte) : (s.tabWrite ga bs).snoop = s.snoop := by
  refine foldl_keeps (fun t : State => t.snoop = s.snoop) _ (fun b a h => ?_) s.dies s rfl
  dsimp only
  split
  · split <;> exact h
  · exact h

theorem State.ownBlock_snoop (s : State) (ga : Nat) : (s.ownBlock ga).snoop = s.snoop := by
  unfold State.ownBlock
  split
  · rfl
  · split
    · dsimp only
      split <;> rfl
    · rfl

/-- A granule that no write with No Snoop has left with two values stays as it is. -/
theorem State.snoopStore_none (s : State) (ga : Nat) (h : Store.find (ga / 16) s.snoop = none) : s.snoopStore ga = s := by
  simp [State.snoopStore, h]

theorem Memory.wf_snoopStore (s : State) (ga : Nat) (h : Memory.wf s.mem = true) : Memory.wf (s.snoopStore ga).mem = true := by
  unfold State.snoopStore
  split
  · exact Memory.wf_setBytes _ _ _ h
  · exact h

/-- Release tags stand beside memory. -/
theorem State.tagWrite_mem (s : State) (ga n : Nat) (tags : List Rel) : (s.tagWrite ga n tags).mem = s.mem := by
  unfold State.tagWrite
  split <;> rfl

/-- A write of the memory model is, for memory, the write of its bytes, in a granule that has one value. -/
theorem State.memWrite_mem (s : State) (ga : Nat) (bs : List Byte) (tags : List Rel) (h : Store.find (ga / 16) s.snoop = none) :
    (s.memWrite ga bs tags).mem = (s.setBytes ga bs).mem := by
  unfold State.memWrite
  rw [State.tagWrite_mem, State.snoopStore_none _ _ (by rw [State.ownBlock_snoop, State.tabWrite_snoop]; exact h)]
  exact State.setBytes_mem_congr _ _ (by rw [State.ownBlock_mem, State.tabWrite_mem]) _ _

/-- Bytes outside the written range are unchanged. -/
theorem State.byte_memWrite_other (s : State) (ga : Nat) (bs : List Byte) (tags : List Rel) (h : Store.find (ga / 16) s.snoop = none)
    (a : Nat) (ha : a < ga ∨ ga + bs.length ≤ a) : (s.memWrite ga bs tags).byte a = s.byte a := by
  rw [← State.byte_setBytes_other s ga bs a ha]
  simp only [State.byte, State.memWrite_mem s ga bs tags h]

/-- The written bytes read back. -/
theorem State.byte_memWrite_in (s : State) (ga : Nat) (bs : List Byte) (tags : List Rel) (h : Store.find (ga / 16) s.snoop = none)
    (i : Nat) (hi : i < bs.length) : (s.memWrite ga bs tags).byte (ga + i) = bs[i] := by
  rw [← State.byte_setBytes_in s ga bs i hi]
  simp only [State.byte, State.memWrite_mem s ga bs tags h]

theorem Memory.wf_memWrite (s : State) (ga : Nat) (bs : List Byte) (tags : List Rel) (h : Memory.wf s.mem = true) :
    Memory.wf (s.memWrite ga bs tags).mem = true := by
  unfold State.memWrite
  rw [State.tagWrite_mem]
  exact Memory.wf_setBytes _ _ _ (Memory.wf_snoopStore _ _ (by rw [State.ownBlock_mem, State.tabWrite_mem]; exact h))

/-! ### Copies in caches -/

/-- A store that makes a line dirty in a cache leaves memory as it was; the store itself writes the bytes. -/
theorem State.dirtied_mem (s : State) (dk core ga : Nat) : (s.dirtied dk core ga).mem = s.mem := by
  unfold State.dirtied
  dsimp only
  split
  · rfl
  · split <;> rfl

/-- A copy that passes on carries a state only. -/
theorem State.spill_mem (s : State) (line u : Nat) : (s.spill line u).mem = s.mem := by
  unfold State.spill
  dsimp only
  split <;> rfl

/-- Of two values of a granule one stays: memory keeps its form. -/
theorem Memory.wf_settleWith (s : State) (line : Nat) (dram : Bool) (h : Memory.wf s.mem = true) :
    Memory.wf (s.settleWith line dram).mem = true := by
  refine foldl_keeps (fun t : State => Memory.wf t.mem = true) _ (fun b a hb => ?_) _ s h
  dsimp only
  split
  · split
    · exact hb
    · exact Memory.wf_setBytes _ _ _ hb
  · exact hb

theorem State.writtenHome_mem (s : State) (line : Nat) : (s.writtenHome line).mem = (s.settleWith line false).mem := by
  unfold State.writtenHome
  dsimp only

theorem Memory.wf_writtenHome (s : State) (line : Nat) (h : Memory.wf s.mem = true) :
    Memory.wf (s.writtenHome line).mem = true := by
  rw [State.writtenHome_mem]
  exact Memory.wf_settleWith s line false h

theorem Memory.wf_writeBack (s : State) (line : Nat) (p : Nat → Bool) (h : Memory.wf s.mem = true) :
    Memory.wf (s.writeBack line p).mem = true := by
  unfold State.writeBack
  split
  · dsimp only
    exact Memory.wf_writtenHome s line h
  · exact h

theorem Memory.wf_uncached (s : State) (line : Nat) (h : Memory.wf s.mem = true) :
    Memory.wf (s.uncached line).mem = true := by
  unfold State.uncached State.dropInner
  dsimp only
  split
  · exact Memory.wf_writtenHome s line h
  · exact Memory.wf_settleWith s line true h

/-! ### Stores performed -/

/-- A group written back into the machine leaves memory as it was. -/
theorem State.setGroup_mem (s : State) (k : Nat) (g : Group) : (s.setGroup k g).mem = s.mem := by
  unfold State.setGroup
  split <;> rfl

/-- A store that makes a line dirty in a cache leaves the second values of granules as they were. -/
theorem State.dirtied_snoop (s : State) (dk core ga : Nat) : (s.dirtied dk core ga).snoop = s.snoop := by
  unfold State.dirtied
  dsimp only
  split
  · rfl
  · split <;> rfl

/-- A held-back store performed is a write of its bytes that may set its granule full. -/
theorem State.performPend_eq (s : State) (g : Group) (p : Pend) :
    (s.performPend g p).mem = ((s.dirtied g.dk g.core p.ga).memWrite p.ga p.bytes p.tags).mem := by
  unfold State.performPend
  dsimp only
  split <;> rfl

/-- A held-back store performed writes its bytes. -/
theorem State.performPend_mem (s : State) (g : Group) (p : Pend) (h : Store.find (p.ga / 16) s.snoop = none) :
    (s.performPend g p).mem = (s.setBytes p.ga p.bytes).mem := by
  rw [State.performPend_eq, State.memWrite_mem _ _ _ _ (by rw [State.dirtied_snoop]; exact h)]
  exact State.setBytes_mem_congr _ _ (State.dirtied_mem s _ _ _) _ _

theorem Memory.wf_performPend (s : State) (g : Group) (p : Pend) (h : Memory.wf s.mem = true) :
    Memory.wf (s.performPend g p).mem = true := by
  rw [State.performPend_eq]
  exact Memory.wf_memWrite _ _ _ _ (by rw [State.dirtied_mem]; exact h)

theorem Memory.wf_performAll (s : State) (k : Nat) (ps rest : List Pend) (h : Memory.wf s.mem = true) :
    Memory.wf (s.performAll k ps rest).mem = true := by
  unfold State.performAll
  dsimp only
  rw [State.setGroup_mem]
  exact foldl_keeps (fun t : State => Memory.wf t.mem = true) _ (fun b a hb => Memory.wf_performPend b _ a hb) ps s h

theorem Memory.wf_drainTo (s : State) (k n : Nat) (h : Memory.wf s.mem = true) : Memory.wf (s.drainTo k n).mem = true := by
  unfold State.drainTo
  dsimp only
  split
  · exact h
  · exact Memory.wf_performAll s k _ _ h

theorem Memory.wf_drain (s : State) (k : Nat) (h : Memory.wf s.mem = true) : Memory.wf (s.drain k).mem = true :=
  Memory.wf_drainTo s k _ h

theorem Memory.wf_drainWhere (s : State) (p : Pend → Bool) (h : Memory.wf s.mem = true) :
    Memory.wf (s.drainWhere p).mem = true :=
  foldl_keeps (fun t : State => Memory.wf t.mem = true) _ (fun b _ hb => Memory.wf_drainTo b _ _ hb) _ s h

/-- A group that holds nothing back has nothing to be performed. -/
theorem State.drain_none (s : State) (k : Nat) (h : (s.group k).mo.pend = []) : s.drain k = s := by
  simp [State.drain, State.drainTo, h]

/-- A group without held loads has none to land. -/
theorem State.landAll_none (s : State) (k : Nat) (h : (s.group k).mo.loads = []) : s.landAll k = s := by
  simp [State.landAll, State.landWhere, h]

/-! ### Places in the pool and in core memory -/

/-- Bytes copied from one place to another keep the form. -/
theorem Memory.wf_copyBytes (s : State) (src dst n : Nat) (h : Memory.wf s.mem = true) :
    Memory.wf (s.copyBytes src dst n).mem = true := by
  unfold State.copyBytes
  dsimp only
  exact foldl_keeps (fun t : State => Memory.wf t.mem = true) _ (fun b a hb => Memory.wf_setByte b _ _ hb) _ _
    (Memory.wf_filter _ _ h)

/-- An allocation cleared keeps the form. -/
theorem Memory.wf_clearCore (s : State) (dk core base n : Nat) (h : Memory.wf s.mem = true) :
    Memory.wf (s.clearCore dk core base n).mem = true := Memory.wf_filter _ _ h

end Sys2Proof.Machine
end

