-- ==== Sys2Proof/Laws/PerInstr.lean ====
section
/-! SUPPORT. The family of lemmas over the constructors of `Instr` that the round trip of the encoding rests on: the word the
encoder writes for an instruction lies in the row of the opcode table that names it, and reading it back gives the
instruction with every operand. -/

namespace Sys2Proof

/-- The word of an instruction, after its prefix, reads as that instruction, and without a prefix it is no `ext` word. -/
def Laws.Encoding.Statement (i : Instr) : Prop :=
  i.encodable = true → i.wf = true →
    decodeOne i.word i.extOf = i ∧ (i.extOf = none → major i.word ≠ 0xFF)

namespace Laws.Encoding

set_option Elab.async false

/-- A field that lies wholly in the low part of a word. -/
theorem ext_lo {n m : Nat} (x : BitVec n) (y : BitVec m) (s l : Nat) (h : s + l ≤ m) :
    (x ++ y).extractLsb' s l = y.extractLsb' s l := by
  apply BitVec.eq_of_getLsbD_eq
  intro i hi
  simp only [BitVec.getLsbD_extractLsb', BitVec.getLsbD_append, hi, decide_true, Bool.true_and]
  rw [if_pos (show s + i < m by omega)]

/-- A field that lies wholly in the high part of a word. -/
theorem ext_hi {n m : Nat} (x : BitVec n) (y : BitVec m) (s l : Nat) (h : m ≤ s) :
    (x ++ y).extractLsb' s l = x.extractLsb' (s - m) l := by
  apply BitVec.eq_of_getLsbD_eq
  intro i hi
  simp only [BitVec.getLsbD_extractLsb', BitVec.getLsbD_append, hi, decide_true, Bool.true_and]
  rw [if_neg (show ¬ s + i < m by omega), show s + i - m = s - m + i by omega]

/-- A field that is the whole of its part. -/
theorem ext_self {n : Nat} (x : BitVec n) : x.extractLsb' 0 n = x := by simp

/-- Masking works part by part. -/
theorem append_mask {n m : Nat} (x p : BitVec n) (y q : BitVec m) : (x ++ y) &&& (p ++ q) = (x &&& p) ++ (y &&& q) := by
  apply BitVec.eq_of_getLsbD_eq
  intro i hi
  simp only [BitVec.getLsbD_and, BitVec.getLsbD_append]
  split <;> rfl

/-- A mask of nothing leaves nothing. -/
theorem mask_none {n : Nat} (x : BitVec n) : x &&& 0#n = 0#n := by simp

/-- A word in the row of its major, after a prefix that the major takes, is read field by field. -/
theorem decodeOne_of_row {w : BitVec 32} {x : Option (BitVec 24)} {k : Nat} (M V : BitVec 32) (hk : major w = k)
    (hr : (M.extractLsb' 0 24, V.extractLsb' 0 24) ∈ rowsAt k) (hb : w &&& M = V) (hx : prefixOk k x = true) :
    decodeOne w x = decodeFields w x := by
  have h : accepted w x = true := by
    simp only [accepted, rowWord, hk, hx, Bool.and_true, List.any_eq_true, beq_iff_eq]
    refine ⟨_, hr, ?_⟩
    rw [← hb, BitVec.extractLsb'_and]
  simp only [decodeOne, h, if_true]

/-- A prefix whose pair is not accepted reads as `ext` (R64). -/
theorem ext (p : BitVec 24) (w : BitVec 32) : Statement (.ext p w) := by
  intro _ hw
  have h : accepted w (some p) = false := by simpa [Instr.wf] using hw
  refine ⟨?_, fun h => nomatch h⟩
  show decodeOne w (some p) = _
  simp [decodeOne, h]

/-- A word of no row reads as such (R76). -/
theorem wordNotAnInstruction (w : BitVec 32) : Statement (.wordNotAnInstruction w) := by
  intro _ hw
  have h : rowWord w = false ∧ major w ≠ 0xFF := by simpa [Instr.wf] using hw
  refine ⟨?_, fun _ => h.2⟩
  show decodeOne w none = _
  simp [decodeOne, accepted, h.1]


theorem add (m : BitVec 3) (d : BitVec 7) (a : BitVec 7) (b : BitVec 7) : Statement (.add m d a b) := by
  intro _ _
  have hk : major (0#8 ++ m ++ d ++ a ++ b) = 0 := by
    simp (disch := decide) only [major, ext_hi, ext_self, Nat.reduceSub]
    rfl
  have hb : (0#8 ++ m ++ d ++ a ++ b) &&& (0#8 ++ 0#3 ++ 0#7 ++ 0#7 ++ 0#7) = 0#8 ++ 0#3 ++ 0#7 ++ 0#7 ++ 0#7 := by
    simp only [append_mask, mask_none]
  refine ⟨?_, fun _ h => absurd (hk.symm.trans h) (by decide)⟩
  refine (decodeOne_of_row _ _ hk (by decide) hb rfl).trans ?_
  unfold decodeFields
  rw [hk]
  show decodeMajor0 0 (0#8 ++ m ++ d ++ a ++ b) = _
  simp (disch := decide) only [decodeMajor0, ext_lo, ext_hi, ext_self, Nat.reduceSub]

theorem sub (m : BitVec 3) (d : BitVec 7) (a : BitVec 7) (b : BitVec 7) : Statement (.sub m d a b) := by
  intro _ _
  have hk : major (1#8 ++ m ++ d ++ a ++ b) = 1 := by
    simp (disch := decide) only [major, ext_hi, ext_self, Nat.reduceSub]
    rfl
  have hb : (1#8 ++ m ++ d ++ a ++ b) &&& (0#8 ++ 0#3 ++ 0#7 ++ 0#7 ++ 0#7) = 0#8 ++ 0#3 ++ 0#7 ++ 0#7 ++ 0#7 := by
    simp only [append_mask, mask_none]
  refine ⟨?_, fun _ h => absurd (hk.symm.trans h) (by decide)⟩
  refine (decodeOne_of_row _ _ hk (by decide) hb rfl).trans ?_
  unfold decodeFields
  rw [hk]
  show decodeMajor0 1 (1#8 ++ m ++ d ++ a ++ b) = _
  simp (disch := decide) only [decodeMajor0, ext_lo, ext_hi, ext_self, Nat.reduceSub]

theorem mul (m : BitVec 3) (d : BitVec 7) (a : BitVec 7) (b : BitVec 7) : Statement (.mul m d a b) := by
  intro _ _
  have hk : major (2#8 ++ m ++ d ++ a ++ b) = 2 := by
    simp (disch := decide) only [major, ext_hi, ext_self, Nat.reduceSub]
    rfl
  have hb : (2#8 ++ m ++ d ++ a ++ b) &&& (0#8 ++ 0#3 ++ 0#7 ++ 0#7 ++ 0#7) = 0#8 ++ 0#3 ++ 0#7 ++ 0#7 ++ 0#7 := by
    simp only [append_mask, mask_none]
  refine ⟨?_, fun _ h => absurd (hk.symm.trans h) (by decide)⟩
  refine (decodeOne_of_row _ _ hk (by decide) hb rfl).trans ?_
  unfold decodeFields
  rw [hk]
  show decodeMajor0 2 (2#8 ++ m ++ d ++ a ++ b) = _
  simp (disch := decide) only [decodeMajor0, ext_lo, ext_hi, ext_self, Nat.reduceSub]

theorem mulh (m : BitVec 3) (d : BitVec 7) (a : BitVec 7) (b : BitVec 7) : Statement (.mulh m d a b) := by
  intro _ _
  have hk : major (3#8 ++ m ++ d ++ a ++ b) = 3 := by
    simp (disch := decide) only [major, ext_hi, ext_self, Nat.reduceSub]
    rfl
  have hb : (3#8 ++ m ++ d ++ a ++ b) &&& (0#8 ++ 0#3 ++ 0#7 ++ 0#7 ++ 0#7) = 0#8 ++ 0#3 ++ 0#7 ++ 0#7 ++ 0#7 := by
    simp only [append_mask, mask_none]
  refine ⟨?_, fun _ h => absurd (hk.symm.trans h) (by decide)⟩
  refine (decodeOne_of_row _ _ hk (by decide) hb rfl).trans ?_
  unfold decodeFields
  rw [hk]
  show decodeMajor0 3 (3#8 ++ m ++ d ++ a ++ b) = _
  simp (disch := decide) only [decodeMajor0, ext_lo, ext_hi, ext_self, Nat.reduceSub]

theorem mad (m : BitVec 3) (d : BitVec 7) (a : BitVec 7) (b : BitVec 7) : Statement (.mad m d a b) := by
  intro _ _
  have hk : major (4#8 ++ m ++ d ++ a ++ b) = 4 := by
    simp (disch := decide) only [major, ext_hi, ext_self, Nat.reduceSub]
    rfl
  have hb : (4#8 ++ m ++ d ++ a ++ b) &&& (0#8 ++ 0#3 ++ 0#7 ++ 0#7 ++ 0#7) = 0#8 ++ 0#3 ++ 0#7 ++ 0#7 ++ 0#7 := by
    simp only [append_mask, mask_none]
  refine ⟨?_, fun _ h => absurd (hk.symm.trans h) (by decide)⟩
  refine (decodeOne_of_row _ _ hk (by decide) hb rfl).trans ?_
  unfold decodeFields
  rw [hk]
  show decodeMajor0 4 (4#8 ++ m ++ d ++ a ++ b) = _
  simp (disch := decide) only [decodeMajor0, ext_lo, ext_hi, ext_self, Nat.reduceSub]

theorem div (m : BitVec 3) (d : BitVec 7) (a : BitVec 7) (b : BitVec 7) : Statement (.div m d a b) := by
  intro _ _
  have hk : major (5#8 ++ m ++ d ++ a ++ b) = 5 := by
    simp (disch := decide) only [major, ext_hi, ext_self, Nat.reduceSub]
    rfl
  have hb : (5#8 ++ m ++ d ++ a ++ b) &&& (0#8 ++ 0#3 ++ 0#7 ++ 0#7 ++ 0#7) = 0#8 ++ 0#3 ++ 0#7 ++ 0#7 ++ 0#7 := by
    simp only [append_mask, mask_none]
  refine ⟨?_, fun _ h => absurd (hk.symm.trans h) (by decide)⟩
  refine (decodeOne_of_row _ _ hk (by decide) hb rfl).trans ?_
  unfold decodeFields
  rw [hk]
  show decodeMajor0 5 (5#8 ++ m ++ d ++ a ++ b) = _
  simp (disch := decide) only [decodeMajor0, ext_lo, ext_hi, ext_self, Nat.reduceSub]

theorem rem (m : BitVec 3) (d : BitVec 7) (a : BitVec 7) (b : BitVec 7) : Statement (.rem m d a b) := by
  intro _ _
  have hk : major (6#8 ++ m ++ d ++ a ++ b) = 6 := by
    simp (disch := decide) only [major, ext_hi, ext_self, Nat.reduceSub]
    rfl
  have hb : (6#8 ++ m ++ d ++ a ++ b) &&& (0#8 ++ 0#3 ++ 0#7 ++ 0#7 ++ 0#7) = 0#8 ++ 0#3 ++ 0#7 ++ 0#7 ++ 0#7 := by
    simp only [append_mask, mask_none]
  refine ⟨?_, fun _ h => absurd (hk.symm.trans h) (by decide)⟩
  refine (decodeOne_of_row _ _ hk (by decide) hb rfl).trans ?_
  unfold decodeFields
  rw [hk]
  show decodeMajor0 6 (6#8 ++ m ++ d ++ a ++ b) = _
  simp (disch := decide) only [decodeMajor0, ext_lo, ext_hi, ext_self, Nat.reduceSub]

theorem min (m : BitVec 3) (d : BitVec 7) (a : BitVec 7) (b : BitVec 7) : Statement (.min m d a b) := by
  intro _ _
  have hk : major (7#8 ++ m ++ d ++ a ++ b) = 7 := by
    simp (disch := decide) only [major, ext_hi, ext_self, Nat.reduceSub]
    rfl
  have hb : (7#8 ++ m ++ d ++ a ++ b) &&& (0#8 ++ 0#3 ++ 0#7 ++ 0#7 ++ 0#7) = 0#8 ++ 0#3 ++ 0#7 ++ 0#7 ++ 0#7 := by
    simp only [append_mask, mask_none]
  refine ⟨?_, fun _ h => absurd (hk.symm.trans h) (by decide)⟩
  refine (decodeOne_of_row _ _ hk (by decide) hb rfl).trans ?_
  unfold decodeFields
  rw [hk]
  show decodeMajor0 7 (7#8 ++ m ++ d ++ a ++ b) = _
  simp (disch := decide) only [decodeMajor0, ext_lo, ext_hi, ext_self, Nat.reduceSub]

theorem max (m : BitVec 3) (d : BitVec 7) (a : BitVec 7) (b : BitVec 7) : Statement (.max m d a b) := by
  intro _ _
  have hk : major (8#8 ++ m ++ d ++ a ++ b) = 8 := by
    simp (disch := decide) only [major, ext_hi, ext_self, Nat.reduceSub]
    rfl
  have hb : (8#8 ++ m ++ d ++ a ++ b) &&& (0#8 ++ 0#3 ++ 0#7 ++ 0#7 ++ 0#7) = 0#8 ++ 0#3 ++ 0#7 ++ 0#7 ++ 0#7 := by
    simp only [append_mask, mask_none]
  refine ⟨?_, fun _ h => absurd (hk.symm.trans h) (by decide)⟩
  refine (decodeOne_of_row _ _ hk (by decide) hb rfl).trans ?_
  unfold decodeFields
  rw [hk]
  show decodeMajor0 8 (8#8 ++ m ++ d ++ a ++ b) = _
  simp (disch := decide) only [decodeMajor0, ext_lo, ext_hi, ext_self, Nat.reduceSub]

theorem abs (m : BitVec 3) (d : BitVec 7) (a : BitVec 7) : Statement (.abs m d a) := by
  intro _ _
  have hk : major (9#8 ++ m ++ d ++ a ++ 0#7) = 9 := by
    simp (disch := decide) only [major, ext_hi, ext_self, Nat.reduceSub]
    rfl
  have hb : (9#8 ++ m ++ d ++ a ++ 0#7) &&& (0#8 ++ 0#3 ++ 0#7 ++ 0#7 ++ 127#7) = 0#8 ++ 0#3 ++ 0#7 ++ 0#7 ++ 0#7 := by
    simp only [append_mask, mask_none]
    rfl
  refine ⟨?_, fun _ h => absurd (hk.symm.trans h) (by decide)⟩
  refine (decodeOne_of_row _ _ hk (by decide) hb rfl).trans ?_
  unfold decodeFields
  rw [hk]
  show decodeMajor0 9 (9#8 ++ m ++ d ++ a ++ 0#7) = _
  simp (disch := decide) only [decodeMajor0, ext_lo, ext_hi, ext_self, Nat.reduceSub]

theorem neg (m : BitVec 3) (d : BitVec 7) (a : BitVec 7) : Statement (.neg m d a) := by
  intro _ _
  have hk : major (10#8 ++ m ++ d ++ a ++ 0#7) = 10 := by
    simp (disch := decide) only [major, ext_hi, ext_self, Nat.reduceSub]
    rfl
  have hb : (10#8 ++ m ++ d ++ a ++ 0#7) &&& (0#8 ++ 0#3 ++ 0#7 ++ 0#7 ++ 127#7) = 0#8 ++ 0#3 ++ 0#7 ++ 0#7 ++ 0#7 := by
    simp only [append_mask, mask_none]
    rfl
  refine ⟨?_, fun _ h => absurd (hk.symm.trans h) (by decide)⟩
  refine (decodeOne_of_row _ _ hk (by decide) hb rfl).trans ?_
  unfold decodeFields
  rw [hk]
  show decodeMajor0 10 (10#8 ++ m ++ d ++ a ++ 0#7) = _
  simp (disch := decide) only [decodeMajor0, ext_lo, ext_hi, ext_self, Nat.reduceSub]

theorem cmp (m : BitVec 3) (d : BitVec 7) (a : BitVec 7) (b : BitVec 7) : Statement (.cmp m d a b) := by
  intro _ _
  have hk : major (11#8 ++ m ++ d ++ a ++ b) = 11 := by
    simp (disch := decide) only [major, ext_hi, ext_self, Nat.reduceSub]
    rfl
  have hb : (11#8 ++ m ++ d ++ a ++ b) &&& (0#8 ++ 0#3 ++ 0#7 ++ 0#7 ++ 0#7) = 0#8 ++ 0#3 ++ 0#7 ++ 0#7 ++ 0#7 := by
    simp only [append_mask, mask_none]
  refine ⟨?_, fun _ h => absurd (hk.symm.trans h) (by decide)⟩
  refine (decodeOne_of_row _ _ hk (by decide) hb rfl).trans ?_
  unfold decodeFields
  rw [hk]
  show decodeMajor0 11 (11#8 ++ m ++ d ++ a ++ b) = _
  simp (disch := decide) only [decodeMajor0, ext_lo, ext_hi, ext_self, Nat.reduceSub]

theorem add64 (m : BitVec 3) (d : BitVec 7) (a : BitVec 7) (b : BitVec 7) : Statement (.add64 m d a b) := by
  intro _ _
  have hk : major (12#8 ++ m ++ d ++ a ++ b) = 12 := by
    simp (disch := decide) only [major, ext_hi, ext_self, Nat.reduceSub]
    rfl
  have hb : (12#8 ++ m ++ d ++ a ++ b) &&& (0#8 ++ 0#3 ++ 0#7 ++ 0#7 ++ 0#7) = 0#8 ++ 0#3 ++ 0#7 ++ 0#7 ++ 0#7 := by
    simp only [append_mask, mask_none]
  refine ⟨?_, fun _ h => absurd (hk.symm.trans h) (by decide)⟩
  refine (decodeOne_of_row _ _ hk (by decide) hb rfl).trans ?_
  unfold decodeFields
  rw [hk]
  show decodeMajor0 12 (12#8 ++ m ++ d ++ a ++ b) = _
  simp (disch := decide) only [decodeMajor0, ext_lo, ext_hi, ext_self, Nat.reduceSub]

theorem sub64 (m : BitVec 3) (d : BitVec 7) (a : BitVec 7) (b : BitVec 7) : Statement (.sub64 m d a b) := by
  intro _ _
  have hk : major (13#8 ++ m ++ d ++ a ++ b) = 13 := by
    simp (disch := decide) only [major, ext_hi, ext_self, Nat.reduceSub]
    rfl
  have hb : (13#8 ++ m ++ d ++ a ++ b) &&& (0#8 ++ 0#3 ++ 0#7 ++ 0#7 ++ 0#7) = 0#8 ++ 0#3 ++ 0#7 ++ 0#7 ++ 0#7 := by
    simp only [append_mask, mask_none]
  refine ⟨?_, fun _ h => absurd (hk.symm.trans h) (by decide)⟩
  refine (decodeOne_of_row _ _ hk (by decide) hb rfl).trans ?_
  unfold decodeFields
  rw [hk]
  show decodeMajor0 13 (13#8 ++ m ++ d ++ a ++ b) = _
  simp (disch := decide) only [decodeMajor0, ext_lo, ext_hi, ext_self, Nat.reduceSub]

theorem cmp64 (m : BitVec 3) (d : BitVec 7) (a : BitVec 7) (b : BitVec 7) : Statement (.cmp64 m d a b) := by
  intro _ _
  have hk : major (14#8 ++ m ++ d ++ a ++ b) = 14 := by
    simp (disch := decide) only [major, ext_hi, ext_self, Nat.reduceSub]
    rfl
  have hb : (14#8 ++ m ++ d ++ a ++ b) &&& (0#8 ++ 0#3 ++ 0#7 ++ 0#7 ++ 0#7) = 0#8 ++ 0#3 ++ 0#7 ++ 0#7 ++ 0#7 := by
    simp only [append_mask, mask_none]
  refine ⟨?_, fun _ h => absurd (hk.symm.trans h) (by decide)⟩
  refine (decodeOne_of_row _ _ hk (by decide) hb rfl).trans ?_
  unfold decodeFields
  rw [hk]
  show decodeMajor0 14 (14#8 ++ m ++ d ++ a ++ b) = _
  simp (disch := decide) only [decodeMajor0, ext_lo, ext_hi, ext_self, Nat.reduceSub]

theorem lea (h : BitVec 3) (d : BitVec 7) (a : BitVec 7) (b : BitVec 7) : Statement (.lea h d a b) := by
  intro _ _
  have hk : major (15#8 ++ h ++ d ++ a ++ b) = 15 := by
    simp (disch := decide) only [major, ext_hi, ext_self, Nat.reduceSub]
    rfl
  have hb : (15#8 ++ h ++ d ++ a ++ b) &&& (0#8 ++ 0#3 ++ 0#7 ++ 0#7 ++ 0#7) = 0#8 ++ 0#3 ++ 0#7 ++ 0#7 ++ 0#7 := by
    simp only [append_mask, mask_none]
  refine ⟨?_, fun _ h => absurd (hk.symm.trans h) (by decide)⟩
  refine (decodeOne_of_row _ _ hk (by decide) hb rfl).trans ?_
  unfold decodeFields
  rw [hk]
  show decodeMajor0 15 (15#8 ++ h ++ d ++ a ++ b) = _
  simp (disch := decide) only [decodeMajor0, ext_lo, ext_hi, ext_self, Nat.reduceSub]

theorem and (d : BitVec 7) (a : BitVec 7) (b : BitVec 7) : Statement (.and d a b) := by
  intro _ _
  have hk : major (128#11 ++ d ++ a ++ b) = 16 := by
    simp (disch := decide) only [major, ext_hi, Nat.reduceSub]
    rfl
  have hb : (128#11 ++ d ++ a ++ b) &&& (7#11 ++ 0#7 ++ 0#7 ++ 0#7) = 0#11 ++ 0#7 ++ 0#7 ++ 0#7 := by
    simp only [append_mask, mask_none]
    rfl
  refine ⟨?_, fun _ h => absurd (hk.symm.trans h) (by decide)⟩
  refine (decodeOne_of_row _ _ hk (by decide) hb rfl).trans ?_
  unfold decodeFields
  rw [hk]
  show decodeMajor1 0 (128#11 ++ d ++ a ++ b) none = _
  simp (disch := decide) only [decodeMajor1, ext_lo, ext_hi, ext_self, Nat.reduceSub]

theorem or (d : BitVec 7) (a : BitVec 7) (b : BitVec 7) : Statement (.or d a b) := by
  intro _ _
  have hk : major (136#11 ++ d ++ a ++ b) = 17 := by
    simp (disch := decide) only [major, ext_hi, Nat.reduceSub]
    rfl
  have hb : (136#11 ++ d ++ a ++ b) &&& (7#11 ++ 0#7 ++ 0#7 ++ 0#7) = 0#11 ++ 0#7 ++ 0#7 ++ 0#7 := by
    simp only [append_mask, mask_none]
    rfl
  refine ⟨?_, fun _ h => absurd (hk.symm.trans h) (by decide)⟩
  refine (decodeOne_of_row _ _ hk (by decide) hb rfl).trans ?_
  unfold decodeFields
  rw [hk]
  show decodeMajor1 1 (136#11 ++ d ++ a ++ b) none = _
  simp (disch := decide) only [decodeMajor1, ext_lo, ext_hi, ext_self, Nat.reduceSub]

theorem xor (d : BitVec 7) (a : BitVec 7) (b : BitVec 7) : Statement (.xor d a b) := by
  intro _ _
  have hk : major (144#11 ++ d ++ a ++ b) = 18 := by
    simp (disch := decide) only [major, ext_hi, Nat.reduceSub]
    rfl
  have hb : (144#11 ++ d ++ a ++ b) &&& (7#11 ++ 0#7 ++ 0#7 ++ 0#7) = 0#11 ++ 0#7 ++ 0#7 ++ 0#7 := by
    simp only [append_mask, mask_none]
    rfl
  refine ⟨?_, fun _ h => absurd (hk.symm.trans h) (by decide)⟩
  refine (decodeOne_of_row _ _ hk (by decide) hb rfl).trans ?_
  unfold decodeFields
  rw [hk]
  show decodeMajor1 2 (144#11 ++ d ++ a ++ b) none = _
  simp (disch := decide) only [decodeMajor1, ext_lo, ext_hi, ext_self, Nat.reduceSub]

theorem andn (d : BitVec 7) (a : BitVec 7) (b : BitVec 7) : Statement (.andn d a b) := by
  intro _ _
  have hk : major (152#11 ++ d ++ a ++ b) = 19 := by
    simp (disch := decide) only [major, ext_hi, Nat.reduceSub]
    rfl
  have hb : (152#11 ++ d ++ a ++ b) &&& (7#11 ++ 0#7 ++ 0#7 ++ 0#7) = 0#11 ++ 0#7 ++ 0#7 ++ 0#7 := by
    simp only [append_mask, mask_none]
    rfl
  refine ⟨?_, fun _ h => absurd (hk.symm.trans h) (by decide)⟩
  refine (decodeOne_of_row _ _ hk (by decide) hb rfl).trans ?_
  unfold decodeFields
  rw [hk]
  show decodeMajor1 3 (152#11 ++ d ++ a ++ b) none = _
  simp (disch := decide) only [decodeMajor1, ext_lo, ext_hi, ext_self, Nat.reduceSub]

theorem shl (d : BitVec 7) (a : BitVec 7) (b : BitVec 7) : Statement (.shl d a b) := by
  intro _ _
  have hk : major (160#11 ++ d ++ a ++ b) = 20 := by
    simp (disch := decide) only [major, ext_hi, Nat.reduceSub]
    rfl
  have hb : (160#11 ++ d ++ a ++ b) &&& (7#11 ++ 0#7 ++ 0#7 ++ 0#7) = 0#11 ++ 0#7 ++ 0#7 ++ 0#7 := by
    simp only [append_mask, mask_none]
    rfl
  refine ⟨?_, fun _ h => absurd (hk.symm.trans h) (by decide)⟩
  refine (decodeOne_of_row _ _ hk (by decide) hb rfl).trans ?_
  unfold decodeFields
  rw [hk]
  show decodeMajor1 4 (160#11 ++ d ++ a ++ b) none = _
  simp (disch := decide) only [decodeMajor1, ext_lo, ext_hi, ext_self, Nat.reduceSub]

theorem shr (d : BitVec 7) (a : BitVec 7) (b : BitVec 7) : Statement (.shr d a b) := by
  intro _ _
  have hk : major (168#11 ++ d ++ a ++ b) = 21 := by
    simp (disch := decide) only [major, ext_hi, Nat.reduceSub]
    rfl
  have hb : (168#11 ++ d ++ a ++ b) &&& (7#11 ++ 0#7 ++ 0#7 ++ 0#7) = 0#11 ++ 0#7 ++ 0#7 ++ 0#7 := by
    simp only [append_mask, mask_none]
    rfl
  refine ⟨?_, fun _ h => absurd (hk.symm.trans h) (by decide)⟩
  refine (decodeOne_of_row _ _ hk (by decide) hb rfl).trans ?_
  unfold decodeFields
  rw [hk]
  show decodeMajor1 5 (168#11 ++ d ++ a ++ b) none = _
  simp (disch := decide) only [decodeMajor1, ext_lo, ext_hi, ext_self, Nat.reduceSub]

theorem sar (d : BitVec 7) (a : BitVec 7) (b : BitVec 7) : Statement (.sar d a b) := by
  intro _ _
  have hk : major (176#11 ++ d ++ a ++ b) = 22 := by
    simp (disch := decide) only [major, ext_hi, Nat.reduceSub]
    rfl
  have hb : (176#11 ++ d ++ a ++ b) &&& (7#11 ++ 0#7 ++ 0#7 ++ 0#7) = 0#11 ++ 0#7 ++ 0#7 ++ 0#7 := by
    simp only [append_mask, mask_none]
    rfl
  refine ⟨?_, fun _ h => absurd (hk.symm.trans h) (by decide)⟩
  refine (decodeOne_of_row _ _ hk (by decide) hb rfl).trans ?_
  unfold decodeFields
  rw [hk]
  show decodeMajor1 6 (176#11 ++ d ++ a ++ b) none = _
  simp (disch := decide) only [decodeMajor1, ext_lo, ext_hi, ext_self, Nat.reduceSub]

theorem rol (d : BitVec 7) (a : BitVec 7) (b : BitVec 7) : Statement (.rol d a b) := by
  intro _ _
  have hk : major (184#11 ++ d ++ a ++ b) = 23 := by
    simp (disch := decide) only [major, ext_hi, Nat.reduceSub]
    rfl
  have hb : (184#11 ++ d ++ a ++ b) &&& (7#11 ++ 0#7 ++ 0#7 ++ 0#7) = 0#11 ++ 0#7 ++ 0#7 ++ 0#7 := by
    simp only [append_mask, mask_none]
    rfl
  refine ⟨?_, fun _ h => absurd (hk.symm.trans h) (by decide)⟩
  refine (decodeOne_of_row _ _ hk (by decide) hb rfl).trans ?_
  unfold decodeFields
  rw [hk]
  show decodeMajor1 7 (184#11 ++ d ++ a ++ b) none = _
  simp (disch := decide) only [decodeMajor1, ext_lo, ext_hi, ext_self, Nat.reduceSub]

theorem ror (d : BitVec 7) (a : BitVec 7) (b : BitVec 7) : Statement (.ror d a b) := by
  intro _ _
  have hk : major (192#11 ++ d ++ a ++ b) = 24 := by
    simp (disch := decide) only [major, ext_hi, Nat.reduceSub]
    rfl
  have hb : (192#11 ++ d ++ a ++ b) &&& (7#11 ++ 0#7 ++ 0#7 ++ 0#7) = 0#11 ++ 0#7 ++ 0#7 ++ 0#7 := by
    simp only [append_mask, mask_none]
    rfl
  refine ⟨?_, fun _ h => absurd (hk.symm.trans h) (by decide)⟩
  refine (decodeOne_of_row _ _ hk (by decide) hb rfl).trans ?_
  unfold decodeFields
  rw [hk]
  show decodeMajor1 8 (192#11 ++ d ++ a ++ b) none = _
  simp (disch := decide) only [decodeMajor1, ext_lo, ext_hi, ext_self, Nat.reduceSub]

theorem popc (d : BitVec 7) (a : BitVec 7) : Statement (.popc d a) := by
  intro _ _
  have hk : major (200#11 ++ d ++ a ++ 0#7) = 25 := by
    simp (disch := decide) only [major, ext_hi, Nat.reduceSub]
    rfl
  have hb : (200#11 ++ d ++ a ++ 0#7) &&& (7#11 ++ 0#7 ++ 0#7 ++ 127#7) = 0#11 ++ 0#7 ++ 0#7 ++ 0#7 := by
    simp only [append_mask, mask_none]
    rfl
  refine ⟨?_, fun _ h => absurd (hk.symm.trans h) (by decide)⟩
  refine (decodeOne_of_row _ _ hk (by decide) hb rfl).trans ?_
  unfold decodeFields
  rw [hk]
  show decodeMajor1 9 (200#11 ++ d ++ a ++ 0#7) none = _
  simp (disch := decide) only [decodeMajor1, ext_lo, ext_hi, ext_self, Nat.reduceSub]

theorem clz (d : BitVec 7) (a : BitVec 7) : Statement (.clz d a) := by
  intro _ _
  have hk : major (208#11 ++ d ++ a ++ 0#7) = 26 := by
    simp (disch := decide) only [major, ext_hi, Nat.reduceSub]
    rfl
  have hb : (208#11 ++ d ++ a ++ 0#7) &&& (7#11 ++ 0#7 ++ 0#7 ++ 127#7) = 0#11 ++ 0#7 ++ 0#7 ++ 0#7 := by
    simp only [append_mask, mask_none]
    rfl
  refine ⟨?_, fun _ h => absurd (hk.symm.trans h) (by decide)⟩
  refine (decodeOne_of_row _ _ hk (by decide) hb rfl).trans ?_
  unfold decodeFields
  rw [hk]
  show decodeMajor1 10 (208#11 ++ d ++ a ++ 0#7) none = _
  simp (disch := decide) only [decodeMajor1, ext_lo, ext_hi, ext_self, Nat.reduceSub]

theorem ctz (d : BitVec 7) (a : BitVec 7) : Statement (.ctz d a) := by
  intro _ _
  have hk : major (216#11 ++ d ++ a ++ 0#7) = 27 := by
    simp (disch := decide) only [major, ext_hi, Nat.reduceSub]
    rfl
  have hb : (216#11 ++ d ++ a ++ 0#7) &&& (7#11 ++ 0#7 ++ 0#7 ++ 127#7) = 0#11 ++ 0#7 ++ 0#7 ++ 0#7 := by
    simp only [append_mask, mask_none]
    rfl
  refine ⟨?_, fun _ h => absurd (hk.symm.trans h) (by decide)⟩
  refine (decodeOne_of_row _ _ hk (by decide) hb rfl).trans ?_
  unfold decodeFields
  rw [hk]
  show decodeMajor1 11 (216#11 ++ d ++ a ++ 0#7) none = _
  simp (disch := decide) only [decodeMajor1, ext_lo, ext_hi, ext_self, Nat.reduceSub]

theorem brev (d : BitVec 7) (a : BitVec 7) : Statement (.brev d a) := by
  intro _ _
  have hk : major (224#11 ++ d ++ a ++ 0#7) = 28 := by
    simp (disch := decide) only [major, ext_hi, Nat.reduceSub]
    rfl
  have hb : (224#11 ++ d ++ a ++ 0#7) &&& (7#11 ++ 0#7 ++ 0#7 ++ 127#7) = 0#11 ++ 0#7 ++ 0#7 ++ 0#7 := by
    simp only [append_mask, mask_none]
    rfl
  refine ⟨?_, fun _ h => absurd (hk.symm.trans h) (by decide)⟩
  refine (decodeOne_of_row _ _ hk (by decide) hb rfl).trans ?_
  unfold decodeFields
  rw [hk]
  show decodeMajor1 12 (224#11 ++ d ++ a ++ 0#7) none = _
  simp (disch := decide) only [decodeMajor1, ext_lo, ext_hi, ext_self, Nat.reduceSub]

theorem bfx (s : BitVec 1) (d : BitVec 7) (a : BitVec 7) (b : BitVec 7) : Statement (.bfx s d a b) := by
  intro _ _
  have hk : major (116#10 ++ s ++ d ++ a ++ b) = 29 := by
    simp (disch := decide) only [major, ext_hi, Nat.reduceSub]
    rfl
  have hb : (116#10 ++ s ++ d ++ a ++ b) &&& (3#10 ++ 0#1 ++ 0#7 ++ 0#7 ++ 0#7) = 0#10 ++ 0#1 ++ 0#7 ++ 0#7 ++ 0#7 := by
    simp only [append_mask, mask_none]
    rfl
  refine ⟨?_, fun _ h => absurd (hk.symm.trans h) (by decide)⟩
  refine (decodeOne_of_row _ _ hk (by decide) hb rfl).trans ?_
  unfold decodeFields
  rw [hk]
  show decodeMajor1 13 (116#10 ++ s ++ d ++ a ++ b) none = _
  simp (disch := decide) only [decodeMajor1, ext_lo, ext_hi, ext_self, Nat.reduceSub]

theorem bfi (d : BitVec 7) (a : BitVec 7) (b : BitVec 7) : Statement (.bfi d a b) := by
  intro _ _
  have hk : major (240#11 ++ d ++ a ++ b) = 30 := by
    simp (disch := decide) only [major, ext_hi, Nat.reduceSub]
    rfl
  have hb : (240#11 ++ d ++ a ++ b) &&& (7#11 ++ 0#7 ++ 0#7 ++ 0#7) = 0#11 ++ 0#7 ++ 0#7 ++ 0#7 := by
    simp only [append_mask, mask_none]
    rfl
  refine ⟨?_, fun _ h => absurd (hk.symm.trans h) (by decide)⟩
  refine (decodeOne_of_row _ _ hk (by decide) hb rfl).trans ?_
  unfold decodeFields
  rw [hk]
  show decodeMajor1 14 (240#11 ++ d ++ a ++ b) none = _
  simp (disch := decide) only [decodeMajor1, ext_lo, ext_hi, ext_self, Nat.reduceSub]

theorem sel (d : BitVec 7) (a : BitVec 7) (b : BitVec 7) (x : Option (BitVec 24)) : Statement (.sel d a b x) := by
  intro _ hw
  have hk : major (248#11 ++ d ++ a ++ b) = 31 := by
    simp (disch := decide) only [major, ext_hi, Nat.reduceSub]
    rfl
  have hb : (248#11 ++ d ++ a ++ b) &&& (7#11 ++ 0#7 ++ 0#7 ++ 0#7) = 0#11 ++ 0#7 ++ 0#7 ++ 0#7 := by
    simp only [append_mask, mask_none]
    rfl
  refine ⟨?_, fun _ h => absurd (hk.symm.trans h) (by decide)⟩
  refine (decodeOne_of_row _ _ hk (by decide) hb hw).trans ?_
  unfold decodeFields
  rw [hk]
  show decodeMajor1 15 (248#11 ++ d ++ a ++ b) x = _
  simp (disch := decide) only [decodeMajor1, ext_lo, ext_hi, ext_self, Nat.reduceSub]

theorem addi (d : BitVec 7) (a : BitVec 7) (i : BitVec 10) (x : Option (BitVec 24)) : Statement (.addi d a i x) := by
  intro _ hw
  have hk : major (32#8 ++ d ++ a ++ i) = 32 := by
    simp (disch := decide) only [major, ext_hi, ext_self, Nat.reduceSub]
    rfl
  have hb : (32#8 ++ d ++ a ++ i) &&& (0#8 ++ 0#7 ++ 0#7 ++ 0#10) = 0#8 ++ 0#7 ++ 0#7 ++ 0#10 := by
    simp only [append_mask, mask_none]
  refine ⟨?_, fun _ h => absurd (hk.symm.trans h) (by decide)⟩
  refine (decodeOne_of_row _ _ hk (by decide) hb hw).trans ?_
  unfold decodeFields
  rw [hk]
  show decodeMajor2 0 (32#8 ++ d ++ a ++ i) x = _
  simp (disch := decide) only [decodeMajor2, ext_lo, ext_hi, ext_self, Nat.reduceSub]

theorem andi (d : BitVec 7) (a : BitVec 7) (i : BitVec 10) (x : Option (BitVec 24)) : Statement (.andi d a i x) := by
  intro _ hw
  have hk : major (33#8 ++ d ++ a ++ i) = 33 := by
    simp (disch := decide) only [major, ext_hi, ext_self, Nat.reduceSub]
    rfl
  have hb : (33#8 ++ d ++ a ++ i) &&& (0#8 ++ 0#7 ++ 0#7 ++ 0#10) = 0#8 ++ 0#7 ++ 0#7 ++ 0#10 := by
    simp only [append_mask, mask_none]
  refine ⟨?_, fun _ h => absurd (hk.symm.trans h) (by decide)⟩
  refine (decodeOne_of_row _ _ hk (by decide) hb hw).trans ?_
  unfold decodeFields
  rw [hk]
  show decodeMajor2 1 (33#8 ++ d ++ a ++ i) x = _
  simp (disch := decide) only [decodeMajor2, ext_lo, ext_hi, ext_self, Nat.reduceSub]

theorem ori (d : BitVec 7) (a : BitVec 7) (i : BitVec 10) (x : Option (BitVec 24)) : Statement (.ori d a i x) := by
  intro _ hw
  have hk : major (34#8 ++ d ++ a ++ i) = 34 := by
    simp (disch := decide) only [major, ext_hi, ext_self, Nat.reduceSub]
    rfl
  have hb : (34#8 ++ d ++ a ++ i) &&& (0#8 ++ 0#7 ++ 0#7 ++ 0#10) = 0#8 ++ 0#7 ++ 0#7 ++ 0#10 := by
    simp only [append_mask, mask_none]
  refine ⟨?_, fun _ h => absurd (hk.symm.trans h) (by decide)⟩
  refine (decodeOne_of_row _ _ hk (by decide) hb hw).trans ?_
  unfold decodeFields
  rw [hk]
  show decodeMajor2 2 (34#8 ++ d ++ a ++ i) x = _
  simp (disch := decide) only [decodeMajor2, ext_lo, ext_hi, ext_self, Nat.reduceSub]

theorem xori (d : BitVec 7) (a : BitVec 7) (i : BitVec 10) (x : Option (BitVec 24)) : Statement (.xori d a i x) := by
  intro _ hw
  have hk : major (35#8 ++ d ++ a ++ i) = 35 := by
    simp (disch := decide) only [major, ext_hi, ext_self, Nat.reduceSub]
    rfl
  have hb : (35#8 ++ d ++ a ++ i) &&& (0#8 ++ 0#7 ++ 0#7 ++ 0#10) = 0#8 ++ 0#7 ++ 0#7 ++ 0#10 := by
    simp only [append_mask, mask_none]
  refine ⟨?_, fun _ h => absurd (hk.symm.trans h) (by decide)⟩
  refine (decodeOne_of_row _ _ hk (by decide) hb hw).trans ?_
  unfold decodeFields
  rw [hk]
  show decodeMajor2 3 (35#8 ++ d ++ a ++ i) x = _
  simp (disch := decide) only [decodeMajor2, ext_lo, ext_hi, ext_self, Nat.reduceSub]

theorem shli (d : BitVec 7) (a : BitVec 7) (i : BitVec 5) : Statement (.shli d a i) := by
  intro _ _
  have hk : major (36#8 ++ d ++ a ++ 0#5 ++ i) = 36 := by
    simp (disch := decide) only [major, ext_hi, ext_self, Nat.reduceSub]
    rfl
  have hb : (36#8 ++ d ++ a ++ 0#5 ++ i) &&& (0#8 ++ 0#7 ++ 0#7 ++ 31#5 ++ 0#5) = 0#8 ++ 0#7 ++ 0#7 ++ 0#5 ++ 0#5 := by
    simp only [append_mask, mask_none]
    rfl
  refine ⟨?_, fun _ h => absurd (hk.symm.trans h) (by decide)⟩
  refine (decodeOne_of_row _ _ hk (by decide) hb rfl).trans ?_
  unfold decodeFields
  rw [hk]
  show decodeMajor2 4 (36#8 ++ d ++ a ++ 0#5 ++ i) none = _
  simp (disch := decide) only [decodeMajor2, ext_lo, ext_hi, ext_self, Nat.reduceSub]

theorem shri (d : BitVec 7) (a : BitVec 7) (i : BitVec 5) : Statement (.shri d a i) := by
  intro _ _
  have hk : major (37#8 ++ d ++ a ++ 0#5 ++ i) = 37 := by
    simp (disch := decide) only [major, ext_hi, ext_self, Nat.reduceSub]
    rfl
  have hb : (37#8 ++ d ++ a ++ 0#5 ++ i) &&& (0#8 ++ 0#7 ++ 0#7 ++ 31#5 ++ 0#5) = 0#8 ++ 0#7 ++ 0#7 ++ 0#5 ++ 0#5 := by
    simp only [append_mask, mask_none]
    rfl
  refine ⟨?_, fun _ h => absurd (hk.symm.trans h) (by decide)⟩
  refine (decodeOne_of_row _ _ hk (by decide) hb rfl).trans ?_
  unfold decodeFields
  rw [hk]
  show decodeMajor2 5 (37#8 ++ d ++ a ++ 0#5 ++ i) none = _
  simp (disch := decide) only [decodeMajor2, ext_lo, ext_hi, ext_self, Nat.reduceSub]

theorem sari (d : BitVec 7) (a : BitVec 7) (i : BitVec 5) : Statement (.sari d a i) := by
  intro _ _
  have hk : major (38#8 ++ d ++ a ++ 0#5 ++ i) = 38 := by
    simp (disch := decide) only [major, ext_hi, ext_self, Nat.reduceSub]
    rfl
  have hb : (38#8 ++ d ++ a ++ 0#5 ++ i) &&& (0#8 ++ 0#7 ++ 0#7 ++ 31#5 ++ 0#5) = 0#8 ++ 0#7 ++ 0#7 ++ 0#5 ++ 0#5 := by
    simp only [append_mask, mask_none]
    rfl
  refine ⟨?_, fun _ h => absurd (hk.symm.trans h) (by decide)⟩
  refine (decodeOne_of_row _ _ hk (by decide) hb rfl).trans ?_
  unfold decodeFields
  rw [hk]
  show decodeMajor2 6 (38#8 ++ d ++ a ++ 0#5 ++ i) none = _
  simp (disch := decide) only [decodeMajor2, ext_lo, ext_hi, ext_self, Nat.reduceSub]

theorem muli (d : BitVec 7) (a : BitVec 7) (i : BitVec 10) (x : Option (BitVec 24)) : Statement (.muli d a i x) := by
  intro _ hw
  have hk : major (39#8 ++ d ++ a ++ i) = 39 := by
    simp (disch := decide) only [major, ext_hi, ext_self, Nat.reduceSub]
    rfl
  have hb : (39#8 ++ d ++ a ++ i) &&& (0#8 ++ 0#7 ++ 0#7 ++ 0#10) = 0#8 ++ 0#7 ++ 0#7 ++ 0#10 := by
    simp only [append_mask, mask_none]
  refine ⟨?_, fun _ h => absurd (hk.symm.trans h) (by decide)⟩
  refine (decodeOne_of_row _ _ hk (by decide) hb hw).trans ?_
  unfold decodeFields
  rw [hk]
  show decodeMajor2 7 (39#8 ++ d ++ a ++ i) x = _
  simp (disch := decide) only [decodeMajor2, ext_lo, ext_hi, ext_self, Nat.reduceSub]

theorem shfl (m : BitVec 3) (d : BitVec 7) (a : BitVec 7) (b : BitVec 7) (x : Option (BitVec 24)) : Statement (.shfl m d a b x) := by
  intro _ hw
  have hk : major (40#8 ++ m ++ d ++ a ++ b) = 40 := by
    simp (disch := decide) only [major, ext_hi, ext_self, Nat.reduceSub]
    rfl
  have hb : (40#8 ++ m ++ d ++ a ++ b) &&& (0#8 ++ 0#3 ++ 0#7 ++ 0#7 ++ 0#7) = 0#8 ++ 0#3 ++ 0#7 ++ 0#7 ++ 0#7 := by
    simp only [append_mask, mask_none]
  refine ⟨?_, fun _ h => absurd (hk.symm.trans h) (by decide)⟩
  refine (decodeOne_of_row _ _ hk (by decide) hb hw).trans ?_
  unfold decodeFields
  rw [hk]
  show decodeMajor2 8 (40#8 ++ m ++ d ++ a ++ b) x = _
  simp (disch := decide) only [decodeMajor2, ext_lo, ext_hi, ext_self, Nat.reduceSub]

theorem vote (m : BitVec 3) (d : BitVec 7) (a : BitVec 7) (b : BitVec 7) : Statement (.vote m d a b) := by
  intro _ _
  have hk : major (41#8 ++ m ++ d ++ a ++ b) = 41 := by
    simp (disch := decide) only [major, ext_hi, ext_self, Nat.reduceSub]
    rfl
  have hb : (41#8 ++ m ++ d ++ a ++ b) &&& (0#8 ++ 0#3 ++ 0#7 ++ 0#7 ++ 0#7) = 0#8 ++ 0#3 ++ 0#7 ++ 0#7 ++ 0#7 := by
    simp only [append_mask, mask_none]
  refine ⟨?_, fun _ h => absurd (hk.symm.trans h) (by decide)⟩
  refine (decodeOne_of_row _ _ hk (by decide) hb rfl).trans ?_
  unfold decodeFields
  rw [hk]
  show decodeMajor2 9 (41#8 ++ m ++ d ++ a ++ b) none = _
  simp (disch := decide) only [decodeMajor2, ext_lo, ext_hi, ext_self, Nat.reduceSub]

theorem red (m : BitVec 3) (d : BitVec 7) (a : BitVec 7) (b : BitVec 7) : Statement (.red m d a b) := by
  intro _ _
  have hk : major (42#8 ++ m ++ d ++ a ++ b) = 42 := by
    simp (disch := decide) only [major, ext_hi, ext_self, Nat.reduceSub]
    rfl
  have hb : (42#8 ++ m ++ d ++ a ++ b) &&& (0#8 ++ 0#3 ++ 0#7 ++ 0#7 ++ 0#7) = 0#8 ++ 0#3 ++ 0#7 ++ 0#7 ++ 0#7 := by
    simp only [append_mask, mask_none]
  refine ⟨?_, fun _ h => absurd (hk.symm.trans h) (by decide)⟩
  refine (decodeOne_of_row _ _ hk (by decide) hb rfl).trans ?_
  unfold decodeFields
  rw [hk]
  show decodeMajor2 10 (42#8 ++ m ++ d ++ a ++ b) none = _
  simp (disch := decide) only [decodeMajor2, ext_lo, ext_hi, ext_self, Nat.reduceSub]

theorem scan (m : BitVec 3) (d : BitVec 7) (a : BitVec 7) (b : BitVec 7) : Statement (.scan m d a b) := by
  intro _ _
  have hk : major (43#8 ++ m ++ d ++ a ++ b) = 43 := by
    simp (disch := decide) only [major, ext_hi, ext_self, Nat.reduceSub]
    rfl
  have hb : (43#8 ++ m ++ d ++ a ++ b) &&& (0#8 ++ 0#3 ++ 0#7 ++ 0#7 ++ 0#7) = 0#8 ++ 0#3 ++ 0#7 ++ 0#7 ++ 0#7 := by
    simp only [append_mask, mask_none]
  refine ⟨?_, fun _ h => absurd (hk.symm.trans h) (by decide)⟩
  refine (decodeOne_of_row _ _ hk (by decide) hb rfl).trans ?_
  unfold decodeFields
  rw [hk]
  show decodeMajor2 11 (43#8 ++ m ++ d ++ a ++ b) none = _
  simp (disch := decide) only [decodeMajor2, ext_lo, ext_hi, ext_self, Nat.reduceSub]

theorem perm (d : BitVec 7) (a : BitVec 7) (b : BitVec 7) (x : Option (BitVec 24)) : Statement (.perm d a b x) := by
  intro _ hw
  have hk : major (352#11 ++ d ++ a ++ b) = 44 := by
    simp (disch := decide) only [major, ext_hi, Nat.reduceSub]
    rfl
  have hb : (352#11 ++ d ++ a ++ b) &&& (7#11 ++ 0#7 ++ 0#7 ++ 0#7) = 0#11 ++ 0#7 ++ 0#7 ++ 0#7 := by
    simp only [append_mask, mask_none]
    rfl
  refine ⟨?_, fun _ h => absurd (hk.symm.trans h) (by decide)⟩
  refine (decodeOne_of_row _ _ hk (by decide) hb hw).trans ?_
  unfold decodeFields
  rw [hk]
  show decodeMajor2 12 (352#11 ++ d ++ a ++ b) x = _
  simp (disch := decide) only [decodeMajor2, ext_lo, ext_hi, ext_self, Nat.reduceSub]

theorem faddF32 (m : BitVec 3) (d : BitVec 7) (a : BitVec 7) (b : BitVec 7) : Statement (.faddF32 m d a b) := by
  intro _ _
  have hk : major (48#8 ++ m ++ d ++ a ++ b) = 48 := by
    simp (disch := decide) only [major, ext_hi, ext_self, Nat.reduceSub]
    rfl
  have hb : (48#8 ++ m ++ d ++ a ++ b) &&& (0#8 ++ 0#3 ++ 0#7 ++ 0#7 ++ 0#7) = 0#8 ++ 0#3 ++ 0#7 ++ 0#7 ++ 0#7 := by
    simp only [append_mask, mask_none]
  refine ⟨?_, fun _ h => absurd (hk.symm.trans h) (by decide)⟩
  refine (decodeOne_of_row _ _ hk (by decide) hb rfl).trans ?_
  unfold decodeFields
  rw [hk]
  show decodeMajor3 0 (48#8 ++ m ++ d ++ a ++ b) = _
  simp (disch := decide) only [decodeMajor3, ext_lo, ext_hi, ext_self, Nat.reduceSub]

theorem fsubF32 (m : BitVec 3) (d : BitVec 7) (a : BitVec 7) (b : BitVec 7) : Statement (.fsubF32 m d a b) := by
  intro _ _
  have hk : major (49#8 ++ m ++ d ++ a ++ b) = 49 := by
    simp (disch := decide) only [major, ext_hi, ext_self, Nat.reduceSub]
    rfl
  have hb : (49#8 ++ m ++ d ++ a ++ b) &&& (0#8 ++ 0#3 ++ 0#7 ++ 0#7 ++ 0#7) = 0#8 ++ 0#3 ++ 0#7 ++ 0#7 ++ 0#7 := by
    simp only [append_mask, mask_none]
  refine ⟨?_, fun _ h => absurd (hk.symm.trans h) (by decide)⟩
  refine (decodeOne_of_row _ _ hk (by decide) hb rfl).trans ?_
  unfold decodeFields
  rw [hk]
  show decodeMajor3 1 (49#8 ++ m ++ d ++ a ++ b) = _
  simp (disch := decide) only [decodeMajor3, ext_lo, ext_hi, ext_self, Nat.reduceSub]

theorem fmulF32 (m : BitVec 3) (d : BitVec 7) (a : BitVec 7) (b : BitVec 7) : Statement (.fmulF32 m d a b) := by
  intro _ _
  have hk : major (50#8 ++ m ++ d ++ a ++ b) = 50 := by
    simp (disch := decide) only [major, ext_hi, ext_self, Nat.reduceSub]
    rfl
  have hb : (50#8 ++ m ++ d ++ a ++ b) &&& (0#8 ++ 0#3 ++ 0#7 ++ 0#7 ++ 0#7) = 0#8 ++ 0#3 ++ 0#7 ++ 0#7 ++ 0#7 := by
    simp only [append_mask, mask_none]
  refine ⟨?_, fun _ h => absurd (hk.symm.trans h) (by decide)⟩
  refine (decodeOne_of_row _ _ hk (by decide) hb rfl).trans ?_
  unfold decodeFields
  rw [hk]
  show decodeMajor3 2 (50#8 ++ m ++ d ++ a ++ b) = _
  simp (disch := decide) only [decodeMajor3, ext_lo, ext_hi, ext_self, Nat.reduceSub]

theorem fmacF32 (m : BitVec 3) (d : BitVec 7) (a : BitVec 7) (b : BitVec 7) : Statement (.fmacF32 m d a b) := by
  intro _ _
  have hk : major (51#8 ++ m ++ d ++ a ++ b) = 51 := by
    simp (disch := decide) only [major, ext_hi, ext_self, Nat.reduceSub]
    rfl
  have hb : (51#8 ++ m ++ d ++ a ++ b) &&& (0#8 ++ 0#3 ++ 0#7 ++ 0#7 ++ 0#7) = 0#8 ++ 0#3 ++ 0#7 ++ 0#7 ++ 0#7 := by
    simp only [append_mask, mask_none]
  refine ⟨?_, fun _ h => absurd (hk.symm.trans h) (by decide)⟩
  refine (decodeOne_of_row _ _ hk (by decide) hb rfl).trans ?_
  unfold decodeFields
  rw [hk]
  show decodeMajor3 3 (51#8 ++ m ++ d ++ a ++ b) = _
  simp (disch := decide) only [decodeMajor3, ext_lo, ext_hi, ext_self, Nat.reduceSub]

theorem fminF32 (d : BitVec 7) (a : BitVec 7) (b : BitVec 7) : Statement (.fminF32 d a b) := by
  intro _ _
  have hk : major (416#11 ++ d ++ a ++ b) = 52 := by
    simp (disch := decide) only [major, ext_hi, Nat.reduceSub]
    rfl
  have hb : (416#11 ++ d ++ a ++ b) &&& (7#11 ++ 0#7 ++ 0#7 ++ 0#7) = 0#11 ++ 0#7 ++ 0#7 ++ 0#7 := by
    simp only [append_mask, mask_none]
    rfl
  refine ⟨?_, fun _ h => absurd (hk.symm.trans h) (by decide)⟩
  refine (decodeOne_of_row _ _ hk (by decide) hb rfl).trans ?_
  unfold decodeFields
  rw [hk]
  show decodeMajor3 4 (416#11 ++ d ++ a ++ b) = _
  simp (disch := decide) only [decodeMajor3, ext_lo, ext_hi, ext_self, Nat.reduceSub]

theorem fmaxF32 (d : BitVec 7) (a : BitVec 7) (b : BitVec 7) : Statement (.fmaxF32 d a b) := by
  intro _ _
  have hk : major (424#11 ++ d ++ a ++ b) = 53 := by
    simp (disch := decide) only [major, ext_hi, Nat.reduceSub]
    rfl
  have hb : (424#11 ++ d ++ a ++ b) &&& (7#11 ++ 0#7 ++ 0#7 ++ 0#7) = 0#11 ++ 0#7 ++ 0#7 ++ 0#7 := by
    simp only [append_mask, mask_none]
    rfl
  refine ⟨?_, fun _ h => absurd (hk.symm.trans h) (by decide)⟩
  refine (decodeOne_of_row _ _ hk (by decide) hb rfl).trans ?_
  unfold decodeFields
  rw [hk]
  show decodeMajor3 5 (424#11 ++ d ++ a ++ b) = _
  simp (disch := decide) only [decodeMajor3, ext_lo, ext_hi, ext_self, Nat.reduceSub]

theorem cmpF32 (m : BitVec 3) (d : BitVec 7) (a : BitVec 7) (b : BitVec 7) : Statement (.cmpF32 m d a b) := by
  intro _ _
  have hk : major (54#8 ++ m ++ d ++ a ++ b) = 54 := by
    simp (disch := decide) only [major, ext_hi, ext_self, Nat.reduceSub]
    rfl
  have hb : (54#8 ++ m ++ d ++ a ++ b) &&& (0#8 ++ 0#3 ++ 0#7 ++ 0#7 ++ 0#7) = 0#8 ++ 0#3 ++ 0#7 ++ 0#7 ++ 0#7 := by
    simp only [append_mask, mask_none]
  refine ⟨?_, fun _ h => absurd (hk.symm.trans h) (by decide)⟩
  refine (decodeOne_of_row _ _ hk (by decide) hb rfl).trans ?_
  unfold decodeFields
  rw [hk]
  show decodeMajor3 6 (54#8 ++ m ++ d ++ a ++ b) = _
  simp (disch := decide) only [decodeMajor3, ext_lo, ext_hi, ext_self, Nat.reduceSub]

theorem rcpF32 (d : BitVec 7) (a : BitVec 7) : Statement (.rcpF32 d a) := by
  intro _ _
  have hk : major (440#11 ++ d ++ a ++ 0#7) = 55 := by
    simp (disch := decide) only [major, ext_hi, Nat.reduceSub]
    rfl
  have hb : (440#11 ++ d ++ a ++ 0#7) &&& (7#11 ++ 0#7 ++ 0#7 ++ 127#7) = 0#11 ++ 0#7 ++ 0#7 ++ 0#7 := by
    simp only [append_mask, mask_none]
    rfl
  refine ⟨?_, fun _ h => absurd (hk.symm.trans h) (by decide)⟩
  refine (decodeOne_of_row _ _ hk (by decide) hb rfl).trans ?_
  unfold decodeFields
  rw [hk]
  show decodeMajor3 7 (440#11 ++ d ++ a ++ 0#7) = _
  simp (disch := decide) only [decodeMajor3, ext_lo, ext_hi, ext_self, Nat.reduceSub]
  rfl

theorem rsqF32 (d : BitVec 7) (a : BitVec 7) : Statement (.rsqF32 d a) := by
  intro _ _
  have hk : major (441#11 ++ d ++ a ++ 0#7) = 55 := by
    simp (disch := decide) only [major, ext_hi, Nat.reduceSub]
    rfl
  have hb : (441#11 ++ d ++ a ++ 0#7) &&& (7#11 ++ 0#7 ++ 0#7 ++ 127#7) = 1#11 ++ 0#7 ++ 0#7 ++ 0#7 := by
    simp only [append_mask, mask_none]
    rfl
  refine ⟨?_, fun _ h => absurd (hk.symm.trans h) (by decide)⟩
  refine (decodeOne_of_row _ _ hk (by decide) hb rfl).trans ?_
  unfold decodeFields
  rw [hk]
  show decodeMajor3 7 (441#11 ++ d ++ a ++ 0#7) = _
  simp (disch := decide) only [decodeMajor3, ext_lo, ext_hi, ext_self, Nat.reduceSub]
  rfl

theorem sqrtF32 (d : BitVec 7) (a : BitVec 7) : Statement (.sqrtF32 d a) := by
  intro _ _
  have hk : major (442#11 ++ d ++ a ++ 0#7) = 55 := by
    simp (disch := decide) only [major, ext_hi, Nat.reduceSub]
    rfl
  have hb : (442#11 ++ d ++ a ++ 0#7) &&& (7#11 ++ 0#7 ++ 0#7 ++ 127#7) = 2#11 ++ 0#7 ++ 0#7 ++ 0#7 := by
    simp only [append_mask, mask_none]
    rfl
  refine ⟨?_, fun _ h => absurd (hk.symm.trans h) (by decide)⟩
  refine (decodeOne_of_row _ _ hk (by decide) hb rfl).trans ?_
  unfold decodeFields
  rw [hk]
  show decodeMajor3 7 (442#11 ++ d ++ a ++ 0#7) = _
  simp (disch := decide) only [decodeMajor3, ext_lo, ext_hi, ext_self, Nat.reduceSub]
  rfl

theorem exp2F32 (d : BitVec 7) (a : BitVec 7) : Statement (.exp2F32 d a) := by
  intro _ _
  have hk : major (443#11 ++ d ++ a ++ 0#7) = 55 := by
    simp (disch := decide) only [major, ext_hi, Nat.reduceSub]
    rfl
  have hb : (443#11 ++ d ++ a ++ 0#7) &&& (7#11 ++ 0#7 ++ 0#7 ++ 127#7) = 3#11 ++ 0#7 ++ 0#7 ++ 0#7 := by
    simp only [append_mask, mask_none]
    rfl
  refine ⟨?_, fun _ h => absurd (hk.symm.trans h) (by decide)⟩
  refine (decodeOne_of_row _ _ hk (by decide) hb rfl).trans ?_
  unfold decodeFields
  rw [hk]
  show decodeMajor3 7 (443#11 ++ d ++ a ++ 0#7) = _
  simp (disch := decide) only [decodeMajor3, ext_lo, ext_hi, ext_self, Nat.reduceSub]
  rfl

theorem log2F32 (d : BitVec 7) (a : BitVec 7) : Statement (.log2F32 d a) := by
  intro _ _
  have hk : major (444#11 ++ d ++ a ++ 0#7) = 55 := by
    simp (disch := decide) only [major, ext_hi, Nat.reduceSub]
    rfl
  have hb : (444#11 ++ d ++ a ++ 0#7) &&& (7#11 ++ 0#7 ++ 0#7 ++ 127#7) = 4#11 ++ 0#7 ++ 0#7 ++ 0#7 := by
    simp only [append_mask, mask_none]
    rfl
  refine ⟨?_, fun _ h => absurd (hk.symm.trans h) (by decide)⟩
  refine (decodeOne_of_row _ _ hk (by decide) hb rfl).trans ?_
  unfold decodeFields
  rw [hk]
  show decodeMajor3 7 (444#11 ++ d ++ a ++ 0#7) = _
  simp (disch := decide) only [decodeMajor3, ext_lo, ext_hi, ext_self, Nat.reduceSub]
  rfl

theorem tanhF32 (d : BitVec 7) (a : BitVec 7) : Statement (.tanhF32 d a) := by
  intro _ _
  have hk : major (445#11 ++ d ++ a ++ 0#7) = 55 := by
    simp (disch := decide) only [major, ext_hi, Nat.reduceSub]
    rfl
  have hb : (445#11 ++ d ++ a ++ 0#7) &&& (7#11 ++ 0#7 ++ 0#7 ++ 127#7) = 5#11 ++ 0#7 ++ 0#7 ++ 0#7 := by
    simp only [append_mask, mask_none]
    rfl
  refine ⟨?_, fun _ h => absurd (hk.symm.trans h) (by decide)⟩
  refine (decodeOne_of_row _ _ hk (by decide) hb rfl).trans ?_
  unfold decodeFields
  rw [hk]
  show decodeMajor3 7 (445#11 ++ d ++ a ++ 0#7) = _
  simp (disch := decide) only [decodeMajor3, ext_lo, ext_hi, ext_self, Nat.reduceSub]

theorem faddF64 (m : BitVec 3) (d : BitVec 7) (a : BitVec 7) (b : BitVec 7) : Statement (.faddF64 m d a b) := by
  intro _ _
  have hk : major (56#8 ++ m ++ d ++ a ++ b) = 56 := by
    simp (disch := decide) only [major, ext_hi, ext_self, Nat.reduceSub]
    rfl
  have hb : (56#8 ++ m ++ d ++ a ++ b) &&& (0#8 ++ 0#3 ++ 0#7 ++ 0#7 ++ 0#7) = 0#8 ++ 0#3 ++ 0#7 ++ 0#7 ++ 0#7 := by
    simp only [append_mask, mask_none]
  refine ⟨?_, fun _ h => absurd (hk.symm.trans h) (by decide)⟩
  refine (decodeOne_of_row _ _ hk (by decide) hb rfl).trans ?_
  unfold decodeFields
  rw [hk]
  show decodeMajor3 8 (56#8 ++ m ++ d ++ a ++ b) = _
  simp (disch := decide) only [decodeMajor3, ext_lo, ext_hi, ext_self, Nat.reduceSub]

theorem fsubF64 (m : BitVec 3) (d : BitVec 7) (a : BitVec 7) (b : BitVec 7) : Statement (.fsubF64 m d a b) := by
  intro _ _
  have hk : major (57#8 ++ m ++ d ++ a ++ b) = 57 := by
    simp (disch := decide) only [major, ext_hi, ext_self, Nat.reduceSub]
    rfl
  have hb : (57#8 ++ m ++ d ++ a ++ b) &&& (0#8 ++ 0#3 ++ 0#7 ++ 0#7 ++ 0#7) = 0#8 ++ 0#3 ++ 0#7 ++ 0#7 ++ 0#7 := by
    simp only [append_mask, mask_none]
  refine ⟨?_, fun _ h => absurd (hk.symm.trans h) (by decide)⟩
  refine (decodeOne_of_row _ _ hk (by decide) hb rfl).trans ?_
  unfold decodeFields
  rw [hk]
  show decodeMajor3 9 (57#8 ++ m ++ d ++ a ++ b) = _
  simp (disch := decide) only [decodeMajor3, ext_lo, ext_hi, ext_self, Nat.reduceSub]

theorem fmulF64 (m : BitVec 3) (d : BitVec 7) (a : BitVec 7) (b : BitVec 7) : Statement (.fmulF64 m d a b) := by
  intro _ _
  have hk : major (58#8 ++ m ++ d ++ a ++ b) = 58 := by
    simp (disch := decide) only [major, ext_hi, ext_self, Nat.reduceSub]
    rfl
  have hb : (58#8 ++ m ++ d ++ a ++ b) &&& (0#8 ++ 0#3 ++ 0#7 ++ 0#7 ++ 0#7) = 0#8 ++ 0#3 ++ 0#7 ++ 0#7 ++ 0#7 := by
    simp only [append_mask, mask_none]
  refine ⟨?_, fun _ h => absurd (hk.symm.trans h) (by decide)⟩
  refine (decodeOne_of_row _ _ hk (by decide) hb rfl).trans ?_
  unfold decodeFields
  rw [hk]
  show decodeMajor3 10 (58#8 ++ m ++ d ++ a ++ b) = _
  simp (disch := decide) only [decodeMajor3, ext_lo, ext_hi, ext_self, Nat.reduceSub]

theorem fmacF64 (m : BitVec 3) (d : BitVec 7) (a : BitVec 7) (b : BitVec 7) : Statement (.fmacF64 m d a b) := by
  intro _ _
  have hk : major (59#8 ++ m ++ d ++ a ++ b) = 59 := by
    simp (disch := decide) only [major, ext_hi, ext_self, Nat.reduceSub]
    rfl
  have hb : (59#8 ++ m ++ d ++ a ++ b) &&& (0#8 ++ 0#3 ++ 0#7 ++ 0#7 ++ 0#7) = 0#8 ++ 0#3 ++ 0#7 ++ 0#7 ++ 0#7 := by
    simp only [append_mask, mask_none]
  refine ⟨?_, fun _ h => absurd (hk.symm.trans h) (by decide)⟩
  refine (decodeOne_of_row _ _ hk (by decide) hb rfl).trans ?_
  unfold decodeFields
  rw [hk]
  show decodeMajor3 11 (59#8 ++ m ++ d ++ a ++ b) = _
  simp (disch := decide) only [decodeMajor3, ext_lo, ext_hi, ext_self, Nat.reduceSub]

theorem fminF64 (d : BitVec 7) (a : BitVec 7) (b : BitVec 7) : Statement (.fminF64 d a b) := by
  intro _ _
  have hk : major (480#11 ++ d ++ a ++ b) = 60 := by
    simp (disch := decide) only [major, ext_hi, Nat.reduceSub]
    rfl
  have hb : (480#11 ++ d ++ a ++ b) &&& (7#11 ++ 0#7 ++ 0#7 ++ 0#7) = 0#11 ++ 0#7 ++ 0#7 ++ 0#7 := by
    simp only [append_mask, mask_none]
    rfl
  refine ⟨?_, fun _ h => absurd (hk.symm.trans h) (by decide)⟩
  refine (decodeOne_of_row _ _ hk (by decide) hb rfl).trans ?_
  unfold decodeFields
  rw [hk]
  show decodeMajor3 12 (480#11 ++ d ++ a ++ b) = _
  simp (disch := decide) only [decodeMajor3, ext_lo, ext_hi, ext_self, Nat.reduceSub]

theorem fmaxF64 (d : BitVec 7) (a : BitVec 7) (b : BitVec 7) : Statement (.fmaxF64 d a b) := by
  intro _ _
  have hk : major (488#11 ++ d ++ a ++ b) = 61 := by
    simp (disch := decide) only [major, ext_hi, Nat.reduceSub]
    rfl
  have hb : (488#11 ++ d ++ a ++ b) &&& (7#11 ++ 0#7 ++ 0#7 ++ 0#7) = 0#11 ++ 0#7 ++ 0#7 ++ 0#7 := by
    simp only [append_mask, mask_none]
    rfl
  refine ⟨?_, fun _ h => absurd (hk.symm.trans h) (by decide)⟩
  refine (decodeOne_of_row _ _ hk (by decide) hb rfl).trans ?_
  unfold decodeFields
  rw [hk]
  show decodeMajor3 13 (488#11 ++ d ++ a ++ b) = _
  simp (disch := decide) only [decodeMajor3, ext_lo, ext_hi, ext_self, Nat.reduceSub]

theorem cmpF64 (m : BitVec 3) (d : BitVec 7) (a : BitVec 7) (b : BitVec 7) : Statement (.cmpF64 m d a b) := by
  intro _ _
  have hk : major (62#8 ++ m ++ d ++ a ++ b) = 62 := by
    simp (disch := decide) only [major, ext_hi, ext_self, Nat.reduceSub]
    rfl
  have hb : (62#8 ++ m ++ d ++ a ++ b) &&& (0#8 ++ 0#3 ++ 0#7 ++ 0#7 ++ 0#7) = 0#8 ++ 0#3 ++ 0#7 ++ 0#7 ++ 0#7 := by
    simp only [append_mask, mask_none]
  refine ⟨?_, fun _ h => absurd (hk.symm.trans h) (by decide)⟩
  refine (decodeOne_of_row _ _ hk (by decide) hb rfl).trans ?_
  unfold decodeFields
  rw [hk]
  show decodeMajor3 14 (62#8 ++ m ++ d ++ a ++ b) = _
  simp (disch := decide) only [decodeMajor3, ext_lo, ext_hi, ext_self, Nat.reduceSub]

theorem faddF16 (m : BitVec 3) (d : BitVec 7) (a : BitVec 7) (b : BitVec 7) : Statement (.faddF16 m d a b) := by
  intro _ _
  have hk : major (64#8 ++ m ++ d ++ a ++ b) = 64 := by
    simp (disch := decide) only [major, ext_hi, ext_self, Nat.reduceSub]
    rfl
  have hb : (64#8 ++ m ++ d ++ a ++ b) &&& (0#8 ++ 0#3 ++ 0#7 ++ 0#7 ++ 0#7) = 0#8 ++ 0#3 ++ 0#7 ++ 0#7 ++ 0#7 := by
    simp only [append_mask, mask_none]
  refine ⟨?_, fun _ h => absurd (hk.symm.trans h) (by decide)⟩
  refine (decodeOne_of_row _ _ hk (by decide) hb rfl).trans ?_
  unfold decodeFields
  rw [hk]
  show decodeMajor4 0 (64#8 ++ m ++ d ++ a ++ b) = _
  simp (disch := decide) only [decodeMajor4, ext_lo, ext_hi, ext_self, Nat.reduceSub]

theorem fmulF16 (m : BitVec 3) (d : BitVec 7) (a : BitVec 7) (b : BitVec 7) : Statement (.fmulF16 m d a b) := by
  intro _ _
  have hk : major (65#8 ++ m ++ d ++ a ++ b) = 65 := by
    simp (disch := decide) only [major, ext_hi, ext_self, Nat.reduceSub]
    rfl
  have hb : (65#8 ++ m ++ d ++ a ++ b) &&& (0#8 ++ 0#3 ++ 0#7 ++ 0#7 ++ 0#7) = 0#8 ++ 0#3 ++ 0#7 ++ 0#7 ++ 0#7 := by
    simp only [append_mask, mask_none]
  refine ⟨?_, fun _ h => absurd (hk.symm.trans h) (by decide)⟩
  refine (decodeOne_of_row _ _ hk (by decide) hb rfl).trans ?_
  unfold decodeFields
  rw [hk]
  show decodeMajor4 1 (65#8 ++ m ++ d ++ a ++ b) = _
  simp (disch := decide) only [decodeMajor4, ext_lo, ext_hi, ext_self, Nat.reduceSub]

theorem fmacF16 (m : BitVec 3) (d : BitVec 7) (a : BitVec 7) (b : BitVec 7) : Statement (.fmacF16 m d a b) := by
  intro _ _
  have hk : major (66#8 ++ m ++ d ++ a ++ b) = 66 := by
    simp (disch := decide) only [major, ext_hi, ext_self, Nat.reduceSub]
    rfl
  have hb : (66#8 ++ m ++ d ++ a ++ b) &&& (0#8 ++ 0#3 ++ 0#7 ++ 0#7 ++ 0#7) = 0#8 ++ 0#3 ++ 0#7 ++ 0#7 ++ 0#7 := by
    simp only [append_mask, mask_none]
  refine ⟨?_, fun _ h => absurd (hk.symm.trans h) (by decide)⟩
  refine (decodeOne_of_row _ _ hk (by decide) hb rfl).trans ?_
  unfold decodeFields
  rw [hk]
  show decodeMajor4 2 (66#8 ++ m ++ d ++ a ++ b) = _
  simp (disch := decide) only [decodeMajor4, ext_lo, ext_hi, ext_self, Nat.reduceSub]

theorem faddBf16 (m : BitVec 3) (d : BitVec 7) (a : BitVec 7) (b : BitVec 7) : Statement (.faddBf16 m d a b) := by
  intro _ _
  have hk : major (67#8 ++ m ++ d ++ a ++ b) = 67 := by
    simp (disch := decide) only [major, ext_hi, ext_self, Nat.reduceSub]
    rfl
  have hb : (67#8 ++ m ++ d ++ a ++ b) &&& (0#8 ++ 0#3 ++ 0#7 ++ 0#7 ++ 0#7) = 0#8 ++ 0#3 ++ 0#7 ++ 0#7 ++ 0#7 := by
    simp only [append_mask, mask_none]
  refine ⟨?_, fun _ h => absurd (hk.symm.trans h) (by decide)⟩
  refine (decodeOne_of_row _ _ hk (by decide) hb rfl).trans ?_
  unfold decodeFields
  rw [hk]
  show decodeMajor4 3 (67#8 ++ m ++ d ++ a ++ b) = _
  simp (disch := decide) only [decodeMajor4, ext_lo, ext_hi, ext_self, Nat.reduceSub]

theorem fmulBf16 (m : BitVec 3) (d : BitVec 7) (a : BitVec 7) (b : BitVec 7) : Statement (.fmulBf16 m d a b) := by
  intro _ _
  have hk : major (68#8 ++ m ++ d ++ a ++ b) = 68 := by
    simp (disch := decide) only [major, ext_hi, ext_self, Nat.reduceSub]
    rfl
  have hb : (68#8 ++ m ++ d ++ a ++ b) &&& (0#8 ++ 0#3 ++ 0#7 ++ 0#7 ++ 0#7) = 0#8 ++ 0#3 ++ 0#7 ++ 0#7 ++ 0#7 := by
    simp only [append_mask, mask_none]
  refine ⟨?_, fun _ h => absurd (hk.symm.trans h) (by decide)⟩
  refine (decodeOne_of_row _ _ hk (by decide) hb rfl).trans ?_
  unfold decodeFields
  rw [hk]
  show decodeMajor4 4 (68#8 ++ m ++ d ++ a ++ b) = _
  simp (disch := decide) only [decodeMajor4, ext_lo, ext_hi, ext_self, Nat.reduceSub]

theorem fmacBf16 (m : BitVec 3) (d : BitVec 7) (a : BitVec 7) (b : BitVec 7) : Statement (.fmacBf16 m d a b) := by
  intro _ _
  have hk : major (69#8 ++ m ++ d ++ a ++ b) = 69 := by
    simp (disch := decide) only [major, ext_hi, ext_self, Nat.reduceSub]
    rfl
  have hb : (69#8 ++ m ++ d ++ a ++ b) &&& (0#8 ++ 0#3 ++ 0#7 ++ 0#7 ++ 0#7) = 0#8 ++ 0#3 ++ 0#7 ++ 0#7 ++ 0#7 := by
    simp only [append_mask, mask_none]
  refine ⟨?_, fun _ h => absurd (hk.symm.trans h) (by decide)⟩
  refine (decodeOne_of_row _ _ hk (by decide) hb rfl).trans ?_
  unfold decodeFields
  rw [hk]
  show decodeMajor4 5 (69#8 ++ m ++ d ++ a ++ b) = _
  simp (disch := decide) only [decodeMajor4, ext_lo, ext_hi, ext_self, Nat.reduceSub]

theorem faddF16x2 (m : BitVec 3) (d : BitVec 7) (a : BitVec 7) (b : BitVec 7) : Statement (.faddF16x2 m d a b) := by
  intro _ _
  have hk : major (70#8 ++ m ++ d ++ a ++ b) = 70 := by
    simp (disch := decide) only [major, ext_hi, ext_self, Nat.reduceSub]
    rfl
  have hb : (70#8 ++ m ++ d ++ a ++ b) &&& (0#8 ++ 0#3 ++ 0#7 ++ 0#7 ++ 0#7) = 0#8 ++ 0#3 ++ 0#7 ++ 0#7 ++ 0#7 := by
    simp only [append_mask, mask_none]
  refine ⟨?_, fun _ h => absurd (hk.symm.trans h) (by decide)⟩
  refine (decodeOne_of_row _ _ hk (by decide) hb rfl).trans ?_
  unfold decodeFields
  rw [hk]
  show decodeMajor4 6 (70#8 ++ m ++ d ++ a ++ b) = _
  simp (disch := decide) only [decodeMajor4, ext_lo, ext_hi, ext_self, Nat.reduceSub]

theorem fmulF16x2 (m : BitVec 3) (d : BitVec 7) (a : BitVec 7) (b : BitVec 7) : Statement (.fmulF16x2 m d a b) := by
  intro _ _
  have hk : major (71#8 ++ m ++ d ++ a ++ b) = 71 := by
    simp (disch := decide) only [major, ext_hi, ext_self, Nat.reduceSub]
    rfl
  have hb : (71#8 ++ m ++ d ++ a ++ b) &&& (0#8 ++ 0#3 ++ 0#7 ++ 0#7 ++ 0#7) = 0#8 ++ 0#3 ++ 0#7 ++ 0#7 ++ 0#7 := by
    simp only [append_mask, mask_none]
  refine ⟨?_, fun _ h => absurd (hk.symm.trans h) (by decide)⟩
  refine (decodeOne_of_row _ _ hk (by decide) hb rfl).trans ?_
  unfold decodeFields
  rw [hk]
  show decodeMajor4 7 (71#8 ++ m ++ d ++ a ++ b) = _
  simp (disch := decide) only [decodeMajor4, ext_lo, ext_hi, ext_self, Nat.reduceSub]

theorem fmacF16x2 (m : BitVec 3) (d : BitVec 7) (a : BitVec 7) (b : BitVec 7) : Statement (.fmacF16x2 m d a b) := by
  intro _ _
  have hk : major (72#8 ++ m ++ d ++ a ++ b) = 72 := by
    simp (disch := decide) only [major, ext_hi, ext_self, Nat.reduceSub]
    rfl
  have hb : (72#8 ++ m ++ d ++ a ++ b) &&& (0#8 ++ 0#3 ++ 0#7 ++ 0#7 ++ 0#7) = 0#8 ++ 0#3 ++ 0#7 ++ 0#7 ++ 0#7 := by
    simp only [append_mask, mask_none]
  refine ⟨?_, fun _ h => absurd (hk.symm.trans h) (by decide)⟩
  refine (decodeOne_of_row _ _ hk (by decide) hb rfl).trans ?_
  unfold decodeFields
  rw [hk]
  show decodeMajor4 8 (72#8 ++ m ++ d ++ a ++ b) = _
  simp (disch := decide) only [decodeMajor4, ext_lo, ext_hi, ext_self, Nat.reduceSub]

theorem faddBf16x2 (m : BitVec 3) (d : BitVec 7) (a : BitVec 7) (b : BitVec 7) : Statement (.faddBf16x2 m d a b) := by
  intro _ _
  have hk : major (73#8 ++ m ++ d ++ a ++ b) = 73 := by
    simp (disch := decide) only [major, ext_hi, ext_self, Nat.reduceSub]
    rfl
  have hb : (73#8 ++ m ++ d ++ a ++ b) &&& (0#8 ++ 0#3 ++ 0#7 ++ 0#7 ++ 0#7) = 0#8 ++ 0#3 ++ 0#7 ++ 0#7 ++ 0#7 := by
    simp only [append_mask, mask_none]
  refine ⟨?_, fun _ h => absurd (hk.symm.trans h) (by decide)⟩
  refine (decodeOne_of_row _ _ hk (by decide) hb rfl).trans ?_
  unfold decodeFields
  rw [hk]
  show decodeMajor4 9 (73#8 ++ m ++ d ++ a ++ b) = _
  simp (disch := decide) only [decodeMajor4, ext_lo, ext_hi, ext_self, Nat.reduceSub]

theorem fmulBf16x2 (m : BitVec 3) (d : BitVec 7) (a : BitVec 7) (b : BitVec 7) : Statement (.fmulBf16x2 m d a b) := by
  intro _ _
  have hk : major (74#8 ++ m ++ d ++ a ++ b) = 74 := by
    simp (disch := decide) only [major, ext_hi, ext_self, Nat.reduceSub]
    rfl
  have hb : (74#8 ++ m ++ d ++ a ++ b) &&& (0#8 ++ 0#3 ++ 0#7 ++ 0#7 ++ 0#7) = 0#8 ++ 0#3 ++ 0#7 ++ 0#7 ++ 0#7 := by
    simp only [append_mask, mask_none]
  refine ⟨?_, fun _ h => absurd (hk.symm.trans h) (by decide)⟩
  refine (decodeOne_of_row _ _ hk (by decide) hb rfl).trans ?_
  unfold decodeFields
  rw [hk]
  show decodeMajor4 10 (74#8 ++ m ++ d ++ a ++ b) = _
  simp (disch := decide) only [decodeMajor4, ext_lo, ext_hi, ext_self, Nat.reduceSub]

theorem fmacBf16x2 (m : BitVec 3) (d : BitVec 7) (a : BitVec 7) (b : BitVec 7) : Statement (.fmacBf16x2 m d a b) := by
  intro _ _
  have hk : major (75#8 ++ m ++ d ++ a ++ b) = 75 := by
    simp (disch := decide) only [major, ext_hi, ext_self, Nat.reduceSub]
    rfl
  have hb : (75#8 ++ m ++ d ++ a ++ b) &&& (0#8 ++ 0#3 ++ 0#7 ++ 0#7 ++ 0#7) = 0#8 ++ 0#3 ++ 0#7 ++ 0#7 ++ 0#7 := by
    simp only [append_mask, mask_none]
  refine ⟨?_, fun _ h => absurd (hk.symm.trans h) (by decide)⟩
  refine (decodeOne_of_row _ _ hk (by decide) hb rfl).trans ?_
  unfold decodeFields
  rw [hk]
  show decodeMajor4 11 (75#8 ++ m ++ d ++ a ++ b) = _
  simp (disch := decide) only [decodeMajor4, ext_lo, ext_hi, ext_self, Nat.reduceSub]

theorem fminFmaxHalf (t : BitVec 2) (x : BitVec 1) (d : BitVec 7) (a : BitVec 7) (b : BitVec 7) : Statement (.fminFmaxHalf t x d a b) := by
  intro _ _
  have hk : major (76#8 ++ t ++ x ++ d ++ a ++ b) = 76 := by
    simp (disch := decide) only [major, ext_hi, ext_self, Nat.reduceSub]
    rfl
  have hb : (76#8 ++ t ++ x ++ d ++ a ++ b) &&& (0#8 ++ 0#2 ++ 0#1 ++ 0#7 ++ 0#7 ++ 0#7) = 0#8 ++ 0#2 ++ 0#1 ++ 0#7 ++ 0#7 ++ 0#7 := by
    simp only [append_mask, mask_none]
  refine ⟨?_, fun _ h => absurd (hk.symm.trans h) (by decide)⟩
  refine (decodeOne_of_row _ _ hk (by decide) hb rfl).trans ?_
  unfold decodeFields
  rw [hk]
  show decodeMajor4 12 (76#8 ++ t ++ x ++ d ++ a ++ b) = _
  simp (disch := decide) only [decodeMajor4, ext_lo, ext_hi, ext_self, Nat.reduceSub]

theorem cmpF16 (m : BitVec 3) (d : BitVec 7) (a : BitVec 7) (b : BitVec 7) : Statement (.cmpF16 m d a b) := by
  intro _ _
  have hk : major (77#8 ++ m ++ d ++ a ++ b) = 77 := by
    simp (disch := decide) only [major, ext_hi, ext_self, Nat.reduceSub]
    rfl
  have hb : (77#8 ++ m ++ d ++ a ++ b) &&& (0#8 ++ 0#3 ++ 0#7 ++ 0#7 ++ 0#7) = 0#8 ++ 0#3 ++ 0#7 ++ 0#7 ++ 0#7 := by
    simp only [append_mask, mask_none]
  refine ⟨?_, fun _ h => absurd (hk.symm.trans h) (by decide)⟩
  refine (decodeOne_of_row _ _ hk (by decide) hb rfl).trans ?_
  unfold decodeFields
  rw [hk]
  show decodeMajor4 13 (77#8 ++ m ++ d ++ a ++ b) = _
  simp (disch := decide) only [decodeMajor4, ext_lo, ext_hi, ext_self, Nat.reduceSub]

theorem cmpBf16 (m : BitVec 3) (d : BitVec 7) (a : BitVec 7) (b : BitVec 7) : Statement (.cmpBf16 m d a b) := by
  intro _ _
  have hk : major (78#8 ++ m ++ d ++ a ++ b) = 78 := by
    simp (disch := decide) only [major, ext_hi, ext_self, Nat.reduceSub]
    rfl
  have hb : (78#8 ++ m ++ d ++ a ++ b) &&& (0#8 ++ 0#3 ++ 0#7 ++ 0#7 ++ 0#7) = 0#8 ++ 0#3 ++ 0#7 ++ 0#7 ++ 0#7 := by
    simp only [append_mask, mask_none]
  refine ⟨?_, fun _ h => absurd (hk.symm.trans h) (by decide)⟩
  refine (decodeOne_of_row _ _ hk (by decide) hb rfl).trans ?_
  unfold decodeFields
  rw [hk]
  show decodeMajor4 14 (78#8 ++ m ++ d ++ a ++ b) = _
  simp (disch := decide) only [decodeMajor4, ext_lo, ext_hi, ext_self, Nat.reduceSub]

theorem cvtToFloat (m : BitVec 3) (d : BitVec 7) (a : BitVec 7) (s : BitVec 4) (t : BitVec 2) : Statement (.cvtToFloat m d a s t) := by
  intro _ _
  have hk : major (80#8 ++ m ++ d ++ a ++ s ++ 0#1 ++ t) = 80 := by
    simp (disch := decide) only [major, ext_hi, ext_self, Nat.reduceSub]
    rfl
  have hb : (80#8 ++ m ++ d ++ a ++ s ++ 0#1 ++ t) &&& (0#8 ++ 0#3 ++ 0#7 ++ 0#7 ++ 0#4 ++ 1#1 ++ 0#2) = 0#8 ++ 0#3 ++ 0#7 ++ 0#7 ++ 0#4 ++ 0#1 ++ 0#2 := by
    simp only [append_mask, mask_none]
    rfl
  refine ⟨?_, fun _ h => absurd (hk.symm.trans h) (by decide)⟩
  refine (decodeOne_of_row _ _ hk (by decide) hb rfl).trans ?_
  unfold decodeFields
  rw [hk]
  show decodeMajor5 0 (80#8 ++ m ++ d ++ a ++ s ++ 0#1 ++ t) none = _
  simp (disch := decide) only [decodeMajor5, ext_lo, ext_hi, ext_self, Nat.reduceSub]

theorem cvtToInteger (m : BitVec 3) (d : BitVec 7) (a : BitVec 7) (s : BitVec 4) (t : BitVec 3) : Statement (.cvtToInteger m d a s t) := by
  intro _ _
  have hk : major (81#8 ++ m ++ d ++ a ++ s ++ t) = 81 := by
    simp (disch := decide) only [major, ext_hi, ext_self, Nat.reduceSub]
    rfl
  have hb : (81#8 ++ m ++ d ++ a ++ s ++ t) &&& (0#8 ++ 0#3 ++ 0#7 ++ 0#7 ++ 0#4 ++ 0#3) = 0#8 ++ 0#3 ++ 0#7 ++ 0#7 ++ 0#4 ++ 0#3 := by
    simp only [append_mask, mask_none]
  refine ⟨?_, fun _ h => absurd (hk.symm.trans h) (by decide)⟩
  refine (decodeOne_of_row _ _ hk (by decide) hb rfl).trans ?_
  unfold decodeFields
  rw [hk]
  show decodeMajor5 1 (81#8 ++ m ++ d ++ a ++ s ++ t) none = _
  simp (disch := decide) only [decodeMajor5, ext_lo, ext_hi, ext_self, Nat.reduceSub]

theorem cvtToNarrow (m : BitVec 3) (d : BitVec 7) (a : BitVec 7) (s : BitVec 4) (t : BitVec 2) : Statement (.cvtToNarrow m d a s t) := by
  intro _ _
  have hk : major (82#8 ++ m ++ d ++ a ++ s ++ 0#1 ++ t) = 82 := by
    simp (disch := decide) only [major, ext_hi, ext_self, Nat.reduceSub]
    rfl
  have hb : (82#8 ++ m ++ d ++ a ++ s ++ 0#1 ++ t) &&& (0#8 ++ 0#3 ++ 0#7 ++ 0#7 ++ 0#4 ++ 1#1 ++ 0#2) = 0#8 ++ 0#3 ++ 0#7 ++ 0#7 ++ 0#4 ++ 0#1 ++ 0#2 := by
    simp only [append_mask, mask_none]
    rfl
  refine ⟨?_, fun _ h => absurd (hk.symm.trans h) (by decide)⟩
  refine (decodeOne_of_row _ _ hk (by decide) hb rfl).trans ?_
  unfold decodeFields
  rw [hk]
  show decodeMajor5 2 (82#8 ++ m ++ d ++ a ++ s ++ 0#1 ++ t) none = _
  simp (disch := decide) only [decodeMajor5, ext_lo, ext_hi, ext_self, Nat.reduceSub]

theorem cvtBf16x2F32 (m : BitVec 3) (d : BitVec 7) (a : BitVec 7) (b : BitVec 7) : Statement (.cvtBf16x2F32 m d a b) := by
  intro _ _
  have hk : major (83#8 ++ m ++ d ++ a ++ b) = 83 := by
    simp (disch := decide) only [major, ext_hi, ext_self, Nat.reduceSub]
    rfl
  have hb : (83#8 ++ m ++ d ++ a ++ b) &&& (0#8 ++ 0#3 ++ 0#7 ++ 0#7 ++ 0#7) = 0#8 ++ 0#3 ++ 0#7 ++ 0#7 ++ 0#7 := by
    simp only [append_mask, mask_none]
  refine ⟨?_, fun _ h => absurd (hk.symm.trans h) (by decide)⟩
  refine (decodeOne_of_row _ _ hk (by decide) hb rfl).trans ?_
  unfold decodeFields
  rw [hk]
  show decodeMajor5 3 (83#8 ++ m ++ d ++ a ++ b) none = _
  simp (disch := decide) only [decodeMajor5, ext_lo, ext_hi, ext_self, Nat.reduceSub]

theorem cvtF16x2F32 (m : BitVec 3) (d : BitVec 7) (a : BitVec 7) (b : BitVec 7) : Statement (.cvtF16x2F32 m d a b) := by
  intro _ _
  have hk : major (84#8 ++ m ++ d ++ a ++ b) = 84 := by
    simp (disch := decide) only [major, ext_hi, ext_self, Nat.reduceSub]
    rfl
  have hb : (84#8 ++ m ++ d ++ a ++ b) &&& (0#8 ++ 0#3 ++ 0#7 ++ 0#7 ++ 0#7) = 0#8 ++ 0#3 ++ 0#7 ++ 0#7 ++ 0#7 := by
    simp only [append_mask, mask_none]
  refine ⟨?_, fun _ h => absurd (hk.symm.trans h) (by decide)⟩
  refine (decodeOne_of_row _ _ hk (by decide) hb rfl).trans ?_
  unfold decodeFields
  rw [hk]
  show decodeMajor5 4 (84#8 ++ m ++ d ++ a ++ b) none = _
  simp (disch := decide) only [decodeMajor5, ext_lo, ext_hi, ext_self, Nat.reduceSub]

theorem atomc (m : BitVec 3) (d : BitVec 7) (a : BitVec 7) (b : BitVec 7) : Statement (.atomc m d a b) := by
  intro _ _
  have hk : major (85#8 ++ m ++ d ++ a ++ b) = 85 := by
    simp (disch := decide) only [major, ext_hi, ext_self, Nat.reduceSub]
    rfl
  have hb : (85#8 ++ m ++ d ++ a ++ b) &&& (0#8 ++ 0#3 ++ 0#7 ++ 0#7 ++ 0#7) = 0#8 ++ 0#3 ++ 0#7 ++ 0#7 ++ 0#7 := by
    simp only [append_mask, mask_none]
  refine ⟨?_, fun _ h => absurd (hk.symm.trans h) (by decide)⟩
  refine (decodeOne_of_row _ _ hk (by decide) hb rfl).trans ?_
  unfold decodeFields
  rw [hk]
  show decodeMajor5 5 (85#8 ++ m ++ d ++ a ++ b) none = _
  simp (disch := decide) only [decodeMajor5, ext_lo, ext_hi, ext_self, Nat.reduceSub]

theorem clre (a : BitVec 7) (k : BitVec 5) (x : Option (BitVec 24)) : Statement (.clre a k x) := by
  intro _ hw
  have hk : major (352256#20 ++ a ++ k) = 86 := by
    simp (disch := decide) only [major, ext_hi, Nat.reduceSub]
    rfl
  have hb : (352256#20 ++ a ++ k) &&& (4095#20 ++ 0#7 ++ 0#5) = 0#20 ++ 0#7 ++ 0#5 := by
    simp only [append_mask, mask_none]
    rfl
  refine ⟨?_, fun _ h => absurd (hk.symm.trans h) (by decide)⟩
  refine (decodeOne_of_row _ _ hk (by decide) hb hw).trans ?_
  unfold decodeFields
  rw [hk]
  show decodeMajor5 6 (352256#20 ++ a ++ k) x = _
  simp (disch := decide) only [decodeMajor5, ext_lo, ext_hi, ext_self, Nat.reduceSub]

theorem tagld (d : BitVec 7) (a : BitVec 7) (k : BitVec 5) (x : Option (BitVec 24)) : Statement (.tagld d a k x) := by
  intro _ hw
  have hk : major (2784#13 ++ d ++ a ++ k) = 87 := by
    simp (disch := decide) only [major, ext_hi, Nat.reduceSub]
    rfl
  have hb : (2784#13 ++ d ++ a ++ k) &&& (31#13 ++ 0#7 ++ 0#7 ++ 0#5) = 0#13 ++ 0#7 ++ 0#7 ++ 0#5 := by
    simp only [append_mask, mask_none]
    rfl
  refine ⟨?_, fun _ h => absurd (hk.symm.trans h) (by decide)⟩
  refine (decodeOne_of_row _ _ hk (by decide) hb hw).trans ?_
  unfold decodeFields
  rw [hk]
  show decodeMajor5 7 (2784#13 ++ d ++ a ++ k) x = _
  simp (disch := decide) only [decodeMajor5, ext_lo, ext_hi, ext_self, Nat.reduceSub]

theorem tagst (d : BitVec 7) (a : BitVec 7) (k : BitVec 5) (x : Option (BitVec 24)) : Statement (.tagst d a k x) := by
  intro _ hw
  have hk : major (2816#13 ++ d ++ a ++ k) = 88 := by
    simp (disch := decide) only [major, ext_hi, Nat.reduceSub]
    rfl
  have hb : (2816#13 ++ d ++ a ++ k) &&& (31#13 ++ 0#7 ++ 0#7 ++ 0#5) = 0#13 ++ 0#7 ++ 0#7 ++ 0#5 := by
    simp only [append_mask, mask_none]
    rfl
  refine ⟨?_, fun _ h => absurd (hk.symm.trans h) (by decide)⟩
  refine (decodeOne_of_row _ _ hk (by decide) hb hw).trans ?_
  unfold decodeFields
  rw [hk]
  show decodeMajor5 8 (2816#13 ++ d ++ a ++ k) x = _
  simp (disch := decide) only [decodeMajor5, ext_lo, ext_hi, ext_self, Nat.reduceSub]

theorem pclr (a : BitVec 7) (k : BitVec 5) (x : Option (BitVec 24)) : Statement (.pclr a k x) := by
  intro _ hw
  have hk : major (364544#20 ++ a ++ k) = 89 := by
    simp (disch := decide) only [major, ext_hi, Nat.reduceSub]
    rfl
  have hb : (364544#20 ++ a ++ k) &&& (4095#20 ++ 0#7 ++ 0#5) = 0#20 ++ 0#7 ++ 0#5 := by
    simp only [append_mask, mask_none]
    rfl
  refine ⟨?_, fun _ h => absurd (hk.symm.trans h) (by decide)⟩
  refine (decodeOne_of_row _ _ hk (by decide) hb hw).trans ?_
  unfold decodeFields
  rw [hk]
  show decodeMajor5 9 (364544#20 ++ a ++ k) x = _
  simp (disch := decide) only [decodeMajor5, ext_lo, ext_hi, ext_self, Nat.reduceSub]

theorem cwb (s : BitVec 3) (a : BitVec 7) (k : BitVec 5) (x : Option (BitVec 24)) : Statement (.cwb s a k x) := by
  intro _ hw
  have hk : major (360#10 ++ s ++ 0#7 ++ a ++ k) = 90 := by
    simp (disch := decide) only [major, ext_hi, Nat.reduceSub]
    rfl
  have hb : (360#10 ++ s ++ 0#7 ++ a ++ k) &&& (3#10 ++ 0#3 ++ 127#7 ++ 0#7 ++ 0#5) = 0#10 ++ 0#3 ++ 0#7 ++ 0#7 ++ 0#5 := by
    simp only [append_mask, mask_none]
    rfl
  refine ⟨?_, fun _ h => absurd (hk.symm.trans h) (by decide)⟩
  refine (decodeOne_of_row _ _ hk (by decide) hb hw).trans ?_
  unfold decodeFields
  rw [hk]
  show decodeMajor5 10 (360#10 ++ s ++ 0#7 ++ a ++ k) x = _
  simp (disch := decide) only [decodeMajor5, ext_lo, ext_hi, ext_self, Nat.reduceSub]

theorem cinv (s : BitVec 3) (a : BitVec 7) (k : BitVec 5) (x : Option (BitVec 24)) : Statement (.cinv s a k x) := by
  intro _ hw
  have hk : major (364#10 ++ s ++ 0#7 ++ a ++ k) = 91 := by
    simp (disch := decide) only [major, ext_hi, Nat.reduceSub]
    rfl
  have hb : (364#10 ++ s ++ 0#7 ++ a ++ k) &&& (3#10 ++ 0#3 ++ 127#7 ++ 0#7 ++ 0#5) = 0#10 ++ 0#3 ++ 0#7 ++ 0#7 ++ 0#5 := by
    simp only [append_mask, mask_none]
    rfl
  refine ⟨?_, fun _ h => absurd (hk.symm.trans h) (by decide)⟩
  refine (decodeOne_of_row _ _ hk (by decide) hb hw).trans ?_
  unfold decodeFields
  rw [hk]
  show decodeMajor5 11 (364#10 ++ s ++ 0#7 ++ a ++ k) x = _
  simp (disch := decide) only [decodeMajor5, ext_lo, ext_hi, ext_self, Nat.reduceSub]

theorem cflush (s : BitVec 3) (a : BitVec 7) (k : BitVec 5) (x : Option (BitVec 24)) : Statement (.cflush s a k x) := by
  intro _ hw
  have hk : major (368#10 ++ s ++ 0#7 ++ a ++ k) = 92 := by
    simp (disch := decide) only [major, ext_hi, Nat.reduceSub]
    rfl
  have hb : (368#10 ++ s ++ 0#7 ++ a ++ k) &&& (3#10 ++ 0#3 ++ 127#7 ++ 0#7 ++ 0#5) = 0#10 ++ 0#3 ++ 0#7 ++ 0#7 ++ 0#5 := by
    simp only [append_mask, mask_none]
    rfl
  refine ⟨?_, fun _ h => absurd (hk.symm.trans h) (by decide)⟩
  refine (decodeOne_of_row _ _ hk (by decide) hb hw).trans ?_
  unfold decodeFields
  rw [hk]
  show decodeMajor5 12 (368#10 ++ s ++ 0#7 ++ a ++ k) x = _
  simp (disch := decide) only [decodeMajor5, ext_lo, ext_hi, ext_self, Nat.reduceSub]

theorem pref (s : BitVec 3) (a : BitVec 7) (k : BitVec 5) (x : Option (BitVec 24)) : Statement (.pref s a k x) := by
  intro _ hw
  have hk : major (372#10 ++ s ++ 0#7 ++ a ++ k) = 93 := by
    simp (disch := decide) only [major, ext_hi, Nat.reduceSub]
    rfl
  have hb : (372#10 ++ s ++ 0#7 ++ a ++ k) &&& (3#10 ++ 0#3 ++ 127#7 ++ 0#7 ++ 0#5) = 0#10 ++ 0#3 ++ 0#7 ++ 0#7 ++ 0#5 := by
    simp only [append_mask, mask_none]
    rfl
  refine ⟨?_, fun _ h => absurd (hk.symm.trans h) (by decide)⟩
  refine (decodeOne_of_row _ _ hk (by decide) hb hw).trans ?_
  unfold decodeFields
  rw [hk]
  show decodeMajor5 13 (372#10 ++ s ++ 0#7 ++ a ++ k) x = _
  simp (disch := decide) only [decodeMajor5, ext_lo, ext_hi, ext_self, Nat.reduceSub]

theorem ldf (o : BitVec 2) (s : BitVec 3) (d : BitVec 7) (a : BitVec 7) (k : BitVec 5) (x : Option (BitVec 24)) : Statement (.ldf o s d a k x) := by
  intro _ hw
  have hk : major (94#8 ++ o ++ s ++ d ++ a ++ k) = 94 := by
    simp (disch := decide) only [major, ext_hi, ext_self, Nat.reduceSub]
    rfl
  have hb : (94#8 ++ o ++ s ++ d ++ a ++ k) &&& (0#8 ++ 0#2 ++ 0#3 ++ 0#7 ++ 0#7 ++ 0#5) = 0#8 ++ 0#2 ++ 0#3 ++ 0#7 ++ 0#7 ++ 0#5 := by
    simp only [append_mask, mask_none]
  refine ⟨?_, fun _ h => absurd (hk.symm.trans h) (by decide)⟩
  refine (decodeOne_of_row _ _ hk (by decide) hb hw).trans ?_
  unfold decodeFields
  rw [hk]
  show decodeMajor5 14 (94#8 ++ o ++ s ++ d ++ a ++ k) x = _
  simp (disch := decide) only [decodeMajor5, ext_lo, ext_hi, ext_self, Nat.reduceSub]

theorem stf (o : BitVec 2) (s : BitVec 3) (d : BitVec 7) (a : BitVec 7) (k : BitVec 5) (x : Option (BitVec 24)) : Statement (.stf o s d a k x) := by
  intro _ hw
  have hk : major (95#8 ++ o ++ s ++ d ++ a ++ k) = 95 := by
    simp (disch := decide) only [major, ext_hi, ext_self, Nat.reduceSub]
    rfl
  have hb : (95#8 ++ o ++ s ++ d ++ a ++ k) &&& (0#8 ++ 0#2 ++ 0#3 ++ 0#7 ++ 0#7 ++ 0#5) = 0#8 ++ 0#2 ++ 0#3 ++ 0#7 ++ 0#7 ++ 0#5 := by
    simp only [append_mask, mask_none]
  refine ⟨?_, fun _ h => absurd (hk.symm.trans h) (by decide)⟩
  refine (decodeOne_of_row _ _ hk (by decide) hb hw).trans ?_
  unfold decodeFields
  rw [hk]
  show decodeMajor5 15 (95#8 ++ o ++ s ++ d ++ a ++ k) x = _
  simp (disch := decide) only [decodeMajor5, ext_lo, ext_hi, ext_self, Nat.reduceSub]

theorem ldS8 (o : BitVec 2) (s : BitVec 3) (d : BitVec 7) (a : BitVec 7) (k : BitVec 5) (x : Option (BitVec 24)) : Statement (.ldS8 o s d a k x) := by
  intro _ hw
  have hk : major (96#8 ++ o ++ s ++ d ++ a ++ k) = 96 := by
    simp (disch := decide) only [major, ext_hi, ext_self, Nat.reduceSub]
    rfl
  have hb : (96#8 ++ o ++ s ++ d ++ a ++ k) &&& (0#8 ++ 0#2 ++ 0#3 ++ 0#7 ++ 0#7 ++ 0#5) = 0#8 ++ 0#2 ++ 0#3 ++ 0#7 ++ 0#7 ++ 0#5 := by
    simp only [append_mask, mask_none]
  refine ⟨?_, fun _ h => absurd (hk.symm.trans h) (by decide)⟩
  refine (decodeOne_of_row _ _ hk (by decide) hb hw).trans ?_
  unfold decodeFields
  rw [hk]
  show decodeMajor6 0 (96#8 ++ o ++ s ++ d ++ a ++ k) x = _
  simp (disch := decide) only [decodeMajor6, ext_lo, ext_hi, ext_self, Nat.reduceSub]

theorem ldN8 (o : BitVec 2) (s : BitVec 3) (d : BitVec 7) (a : BitVec 7) (k : BitVec 5) (x : Option (BitVec 24)) : Statement (.ldN8 o s d a k x) := by
  intro _ hw
  have hk : major (97#8 ++ o ++ s ++ d ++ a ++ k) = 97 := by
    simp (disch := decide) only [major, ext_hi, ext_self, Nat.reduceSub]
    rfl
  have hb : (97#8 ++ o ++ s ++ d ++ a ++ k) &&& (0#8 ++ 0#2 ++ 0#3 ++ 0#7 ++ 0#7 ++ 0#5) = 0#8 ++ 0#2 ++ 0#3 ++ 0#7 ++ 0#7 ++ 0#5 := by
    simp only [append_mask, mask_none]
  refine ⟨?_, fun _ h => absurd (hk.symm.trans h) (by decide)⟩
  refine (decodeOne_of_row _ _ hk (by decide) hb hw).trans ?_
  unfold decodeFields
  rw [hk]
  show decodeMajor6 1 (97#8 ++ o ++ s ++ d ++ a ++ k) x = _
  simp (disch := decide) only [decodeMajor6, ext_lo, ext_hi, ext_self, Nat.reduceSub]

theorem ldS16 (o : BitVec 2) (s : BitVec 3) (d : BitVec 7) (a : BitVec 7) (k : BitVec 5) (x : Option (BitVec 24)) : Statement (.ldS16 o s d a k x) := by
  intro _ hw
  have hk : major (98#8 ++ o ++ s ++ d ++ a ++ k) = 98 := by
    simp (disch := decide) only [major, ext_hi, ext_self, Nat.reduceSub]
    rfl
  have hb : (98#8 ++ o ++ s ++ d ++ a ++ k) &&& (0#8 ++ 0#2 ++ 0#3 ++ 0#7 ++ 0#7 ++ 0#5) = 0#8 ++ 0#2 ++ 0#3 ++ 0#7 ++ 0#7 ++ 0#5 := by
    simp only [append_mask, mask_none]
  refine ⟨?_, fun _ h => absurd (hk.symm.trans h) (by decide)⟩
  refine (decodeOne_of_row _ _ hk (by decide) hb hw).trans ?_
  unfold decodeFields
  rw [hk]
  show decodeMajor6 2 (98#8 ++ o ++ s ++ d ++ a ++ k) x = _
  simp (disch := decide) only [decodeMajor6, ext_lo, ext_hi, ext_self, Nat.reduceSub]

theorem ldN16 (o : BitVec 2) (s : BitVec 3) (d : BitVec 7) (a : BitVec 7) (k : BitVec 5) (x : Option (BitVec 24)) : Statement (.ldN16 o s d a k x) := by
  intro _ hw
  have hk : major (99#8 ++ o ++ s ++ d ++ a ++ k) = 99 := by
    simp (disch := decide) only [major, ext_hi, ext_self, Nat.reduceSub]
    rfl
  have hb : (99#8 ++ o ++ s ++ d ++ a ++ k) &&& (0#8 ++ 0#2 ++ 0#3 ++ 0#7 ++ 0#7 ++ 0#5) = 0#8 ++ 0#2 ++ 0#3 ++ 0#7 ++ 0#7 ++ 0#5 := by
    simp only [append_mask, mask_none]
  refine ⟨?_, fun _ h => absurd (hk.symm.trans h) (by decide)⟩
  refine (decodeOne_of_row _ _ hk (by decide) hb hw).trans ?_
  unfold decodeFields
  rw [hk]
  show decodeMajor6 3 (99#8 ++ o ++ s ++ d ++ a ++ k) x = _
  simp (disch := decide) only [decodeMajor6, ext_lo, ext_hi, ext_self, Nat.reduceSub]

theorem ld32 (o : BitVec 2) (s : BitVec 3) (d : BitVec 7) (a : BitVec 7) (k : BitVec 5) (x : Option (BitVec 24)) : Statement (.ld32 o s d a k x) := by
  intro _ hw
  have hk : major (100#8 ++ o ++ s ++ d ++ a ++ k) = 100 := by
    simp (disch := decide) only [major, ext_hi, ext_self, Nat.reduceSub]
    rfl
  have hb : (100#8 ++ o ++ s ++ d ++ a ++ k) &&& (0#8 ++ 0#2 ++ 0#3 ++ 0#7 ++ 0#7 ++ 0#5) = 0#8 ++ 0#2 ++ 0#3 ++ 0#7 ++ 0#7 ++ 0#5 := by
    simp only [append_mask, mask_none]
  refine ⟨?_, fun _ h => absurd (hk.symm.trans h) (by decide)⟩
  refine (decodeOne_of_row _ _ hk (by decide) hb hw).trans ?_
  unfold decodeFields
  rw [hk]
  show decodeMajor6 4 (100#8 ++ o ++ s ++ d ++ a ++ k) x = _
  simp (disch := decide) only [decodeMajor6, ext_lo, ext_hi, ext_self, Nat.reduceSub]

theorem ld64 (o : BitVec 2) (s : BitVec 3) (d : BitVec 7) (a : BitVec 7) (k : BitVec 5) (x : Option (BitVec 24)) : Statement (.ld64 o s d a k x) := by
  intro _ hw
  have hk : major (101#8 ++ o ++ s ++ d ++ a ++ k) = 101 := by
    simp (disch := decide) only [major, ext_hi, ext_self, Nat.reduceSub]
    rfl
  have hb : (101#8 ++ o ++ s ++ d ++ a ++ k) &&& (0#8 ++ 0#2 ++ 0#3 ++ 0#7 ++ 0#7 ++ 0#5) = 0#8 ++ 0#2 ++ 0#3 ++ 0#7 ++ 0#7 ++ 0#5 := by
    simp only [append_mask, mask_none]
  refine ⟨?_, fun _ h => absurd (hk.symm.trans h) (by decide)⟩
  refine (decodeOne_of_row _ _ hk (by decide) hb hw).trans ?_
  unfold decodeFields
  rw [hk]
  show decodeMajor6 5 (101#8 ++ o ++ s ++ d ++ a ++ k) x = _
  simp (disch := decide) only [decodeMajor6, ext_lo, ext_hi, ext_self, Nat.reduceSub]

theorem ld128 (o : BitVec 2) (s : BitVec 3) (d : BitVec 7) (a : BitVec 7) (k : BitVec 5) (x : Option (BitVec 24)) : Statement (.ld128 o s d a k x) := by
  intro _ hw
  have hk : major (102#8 ++ o ++ s ++ d ++ a ++ k) = 102 := by
    simp (disch := decide) only [major, ext_hi, ext_self, Nat.reduceSub]
    rfl
  have hb : (102#8 ++ o ++ s ++ d ++ a ++ k) &&& (0#8 ++ 0#2 ++ 0#3 ++ 0#7 ++ 0#7 ++ 0#5) = 0#8 ++ 0#2 ++ 0#3 ++ 0#7 ++ 0#7 ++ 0#5 := by
    simp only [append_mask, mask_none]
  refine ⟨?_, fun _ h => absurd (hk.symm.trans h) (by decide)⟩
  refine (decodeOne_of_row _ _ hk (by decide) hb hw).trans ?_
  unfold decodeFields
  rw [hk]
  show decodeMajor6 6 (102#8 ++ o ++ s ++ d ++ a ++ k) x = _
  simp (disch := decide) only [decodeMajor6, ext_lo, ext_hi, ext_self, Nat.reduceSub]

theorem atom32 (o : BitVec 2) (s : BitVec 3) (d : BitVec 7) (a : BitVec 7) (k : BitVec 5) (x : Option (BitVec 24)) : Statement (.atom32 o s d a k x) := by
  intro _ hw
  have hk : major (103#8 ++ o ++ s ++ d ++ a ++ k) = 103 := by
    simp (disch := decide) only [major, ext_hi, ext_self, Nat.reduceSub]
    rfl
  have hb : (103#8 ++ o ++ s ++ d ++ a ++ k) &&& (0#8 ++ 0#2 ++ 0#3 ++ 0#7 ++ 0#7 ++ 0#5) = 0#8 ++ 0#2 ++ 0#3 ++ 0#7 ++ 0#7 ++ 0#5 := by
    simp only [append_mask, mask_none]
  refine ⟨?_, fun _ h => absurd (hk.symm.trans h) (by decide)⟩
  refine (decodeOne_of_row _ _ hk (by decide) hb hw).trans ?_
  unfold decodeFields
  rw [hk]
  show decodeMajor6 7 (103#8 ++ o ++ s ++ d ++ a ++ k) x = _
  simp (disch := decide) only [decodeMajor6, ext_lo, ext_hi, ext_self, Nat.reduceSub]

theorem st8 (o : BitVec 2) (s : BitVec 3) (d : BitVec 7) (a : BitVec 7) (k : BitVec 5) (x : Option (BitVec 24)) : Statement (.st8 o s d a k x) := by
  intro _ hw
  have hk : major (104#8 ++ o ++ s ++ d ++ a ++ k) = 104 := by
    simp (disch := decide) only [major, ext_hi, ext_self, Nat.reduceSub]
    rfl
  have hb : (104#8 ++ o ++ s ++ d ++ a ++ k) &&& (0#8 ++ 0#2 ++ 0#3 ++ 0#7 ++ 0#7 ++ 0#5) = 0#8 ++ 0#2 ++ 0#3 ++ 0#7 ++ 0#7 ++ 0#5 := by
    simp only [append_mask, mask_none]
  refine ⟨?_, fun _ h => absurd (hk.symm.trans h) (by decide)⟩
  refine (decodeOne_of_row _ _ hk (by decide) hb hw).trans ?_
  unfold decodeFields
  rw [hk]
  show decodeMajor6 8 (104#8 ++ o ++ s ++ d ++ a ++ k) x = _
  simp (disch := decide) only [decodeMajor6, ext_lo, ext_hi, ext_self, Nat.reduceSub]

theorem st16 (o : BitVec 2) (s : BitVec 3) (d : BitVec 7) (a : BitVec 7) (k : BitVec 5) (x : Option (BitVec 24)) : Statement (.st16 o s d a k x) := by
  intro _ hw
  have hk : major (105#8 ++ o ++ s ++ d ++ a ++ k) = 105 := by
    simp (disch := decide) only [major, ext_hi, ext_self, Nat.reduceSub]
    rfl
  have hb : (105#8 ++ o ++ s ++ d ++ a ++ k) &&& (0#8 ++ 0#2 ++ 0#3 ++ 0#7 ++ 0#7 ++ 0#5) = 0#8 ++ 0#2 ++ 0#3 ++ 0#7 ++ 0#7 ++ 0#5 := by
    simp only [append_mask, mask_none]
  refine ⟨?_, fun _ h => absurd (hk.symm.trans h) (by decide)⟩
  refine (decodeOne_of_row _ _ hk (by decide) hb hw).trans ?_
  unfold decodeFields
  rw [hk]
  show decodeMajor6 9 (105#8 ++ o ++ s ++ d ++ a ++ k) x = _
  simp (disch := decide) only [decodeMajor6, ext_lo, ext_hi, ext_self, Nat.reduceSub]

theorem st32 (o : BitVec 2) (s : BitVec 3) (d : BitVec 7) (a : BitVec 7) (k : BitVec 5) (x : Option (BitVec 24)) : Statement (.st32 o s d a k x) := by
  intro _ hw
  have hk : major (106#8 ++ o ++ s ++ d ++ a ++ k) = 106 := by
    simp (disch := decide) only [major, ext_hi, ext_self, Nat.reduceSub]
    rfl
  have hb : (106#8 ++ o ++ s ++ d ++ a ++ k) &&& (0#8 ++ 0#2 ++ 0#3 ++ 0#7 ++ 0#7 ++ 0#5) = 0#8 ++ 0#2 ++ 0#3 ++ 0#7 ++ 0#7 ++ 0#5 := by
    simp only [append_mask, mask_none]
  refine ⟨?_, fun _ h => absurd (hk.symm.trans h) (by decide)⟩
  refine (decodeOne_of_row _ _ hk (by decide) hb hw).trans ?_
  unfold decodeFields
  rw [hk]
  show decodeMajor6 10 (106#8 ++ o ++ s ++ d ++ a ++ k) x = _
  simp (disch := decide) only [decodeMajor6, ext_lo, ext_hi, ext_self, Nat.reduceSub]

theorem st64 (o : BitVec 2) (s : BitVec 3) (d : BitVec 7) (a : BitVec 7) (k : BitVec 5) (x : Option (BitVec 24)) : Statement (.st64 o s d a k x) := by
  intro _ hw
  have hk : major (107#8 ++ o ++ s ++ d ++ a ++ k) = 107 := by
    simp (disch := decide) only [major, ext_hi, ext_self, Nat.reduceSub]
    rfl
  have hb : (107#8 ++ o ++ s ++ d ++ a ++ k) &&& (0#8 ++ 0#2 ++ 0#3 ++ 0#7 ++ 0#7 ++ 0#5) = 0#8 ++ 0#2 ++ 0#3 ++ 0#7 ++ 0#7 ++ 0#5 := by
    simp only [append_mask, mask_none]
  refine ⟨?_, fun _ h => absurd (hk.symm.trans h) (by decide)⟩
  refine (decodeOne_of_row _ _ hk (by decide) hb hw).trans ?_
  unfold decodeFields
  rw [hk]
  show decodeMajor6 11 (107#8 ++ o ++ s ++ d ++ a ++ k) x = _
  simp (disch := decide) only [decodeMajor6, ext_lo, ext_hi, ext_self, Nat.reduceSub]

theorem st128 (o : BitVec 2) (s : BitVec 3) (d : BitVec 7) (a : BitVec 7) (k : BitVec 5) (x : Option (BitVec 24)) : Statement (.st128 o s d a k x) := by
  intro _ hw
  have hk : major (108#8 ++ o ++ s ++ d ++ a ++ k) = 108 := by
    simp (disch := decide) only [major, ext_hi, ext_self, Nat.reduceSub]
    rfl
  have hb : (108#8 ++ o ++ s ++ d ++ a ++ k) &&& (0#8 ++ 0#2 ++ 0#3 ++ 0#7 ++ 0#7 ++ 0#5) = 0#8 ++ 0#2 ++ 0#3 ++ 0#7 ++ 0#7 ++ 0#5 := by
    simp only [append_mask, mask_none]
  refine ⟨?_, fun _ h => absurd (hk.symm.trans h) (by decide)⟩
  refine (decodeOne_of_row _ _ hk (by decide) hb hw).trans ?_
  unfold decodeFields
  rw [hk]
  show decodeMajor6 12 (108#8 ++ o ++ s ++ d ++ a ++ k) x = _
  simp (disch := decide) only [decodeMajor6, ext_lo, ext_hi, ext_self, Nat.reduceSub]

theorem atom64 (o : BitVec 2) (s : BitVec 3) (d : BitVec 7) (a : BitVec 7) (k : BitVec 5) (x : Option (BitVec 24)) : Statement (.atom64 o s d a k x) := by
  intro _ hw
  have hk : major (109#8 ++ o ++ s ++ d ++ a ++ k) = 109 := by
    simp (disch := decide) only [major, ext_hi, ext_self, Nat.reduceSub]
    rfl
  have hb : (109#8 ++ o ++ s ++ d ++ a ++ k) &&& (0#8 ++ 0#2 ++ 0#3 ++ 0#7 ++ 0#7 ++ 0#5) = 0#8 ++ 0#2 ++ 0#3 ++ 0#7 ++ 0#7 ++ 0#5 := by
    simp only [append_mask, mask_none]
  refine ⟨?_, fun _ h => absurd (hk.symm.trans h) (by decide)⟩
  refine (decodeOne_of_row _ _ hk (by decide) hb hw).trans ?_
  unfold decodeFields
  rw [hk]
  show decodeMajor6 13 (109#8 ++ o ++ s ++ d ++ a ++ k) x = _
  simp (disch := decide) only [decodeMajor6, ext_lo, ext_hi, ext_self, Nat.reduceSub]

theorem atom128 (o : BitVec 2) (s : BitVec 3) (d : BitVec 7) (a : BitVec 7) (k : BitVec 5) (x : Option (BitVec 24)) : Statement (.atom128 o s d a k x) := by
  intro _ hw
  have hk : major (110#8 ++ o ++ s ++ d ++ a ++ k) = 110 := by
    simp (disch := decide) only [major, ext_hi, ext_self, Nat.reduceSub]
    rfl
  have hb : (110#8 ++ o ++ s ++ d ++ a ++ k) &&& (0#8 ++ 0#2 ++ 0#3 ++ 0#7 ++ 0#7 ++ 0#5) = 0#8 ++ 0#2 ++ 0#3 ++ 0#7 ++ 0#7 ++ 0#5 := by
    simp only [append_mask, mask_none]
  refine ⟨?_, fun _ h => absurd (hk.symm.trans h) (by decide)⟩
  refine (decodeOne_of_row _ _ hk (by decide) hb hw).trans ?_
  unfold decodeFields
  rw [hk]
  show decodeMajor6 14 (110#8 ++ o ++ s ++ d ++ a ++ k) x = _
  simp (disch := decide) only [decodeMajor6, ext_lo, ext_hi, ext_self, Nat.reduceSub]

theorem ldc32 (o : BitVec 2) (d : BitVec 7) (a : BitVec 7) (k : BitVec 5) (x : Option (BitVec 24)) : Statement (.ldc32 o d a k x) := by
  intro _ hw
  have hk : major (112#8 ++ o ++ 0#3 ++ d ++ a ++ k) = 112 := by
    simp (disch := decide) only [major, ext_hi, ext_self, Nat.reduceSub]
    rfl
  have hb : (112#8 ++ o ++ 0#3 ++ d ++ a ++ k) &&& (0#8 ++ 0#2 ++ 7#3 ++ 0#7 ++ 0#7 ++ 0#5) = 0#8 ++ 0#2 ++ 0#3 ++ 0#7 ++ 0#7 ++ 0#5 := by
    simp only [append_mask, mask_none]
    rfl
  refine ⟨?_, fun _ h => absurd (hk.symm.trans h) (by decide)⟩
  refine (decodeOne_of_row _ _ hk (by decide) hb hw).trans ?_
  unfold decodeFields
  rw [hk]
  show decodeMajor7 0 (112#8 ++ o ++ 0#3 ++ d ++ a ++ k) x = _
  simp (disch := decide) only [decodeMajor7, ext_lo, ext_hi, ext_self, Nat.reduceSub]

theorem ldc64 (o : BitVec 2) (d : BitVec 7) (a : BitVec 7) (k : BitVec 5) (x : Option (BitVec 24)) : Statement (.ldc64 o d a k x) := by
  intro _ hw
  have hk : major (113#8 ++ o ++ 0#3 ++ d ++ a ++ k) = 113 := by
    simp (disch := decide) only [major, ext_hi, ext_self, Nat.reduceSub]
    rfl
  have hb : (113#8 ++ o ++ 0#3 ++ d ++ a ++ k) &&& (0#8 ++ 0#2 ++ 7#3 ++ 0#7 ++ 0#7 ++ 0#5) = 0#8 ++ 0#2 ++ 0#3 ++ 0#7 ++ 0#7 ++ 0#5 := by
    simp only [append_mask, mask_none]
    rfl
  refine ⟨?_, fun _ h => absurd (hk.symm.trans h) (by decide)⟩
  refine (decodeOne_of_row _ _ hk (by decide) hb hw).trans ?_
  unfold decodeFields
  rw [hk]
  show decodeMajor7 1 (113#8 ++ o ++ 0#3 ++ d ++ a ++ k) x = _
  simp (disch := decide) only [decodeMajor7, ext_lo, ext_hi, ext_self, Nat.reduceSub]

theorem ldc128 (o : BitVec 2) (d : BitVec 7) (a : BitVec 7) (k : BitVec 5) (x : Option (BitVec 24)) : Statement (.ldc128 o d a k x) := by
  intro _ hw
  have hk : major (114#8 ++ o ++ 0#3 ++ d ++ a ++ k) = 114 := by
    simp (disch := decide) only [major, ext_hi, ext_self, Nat.reduceSub]
    rfl
  have hb : (114#8 ++ o ++ 0#3 ++ d ++ a ++ k) &&& (0#8 ++ 0#2 ++ 7#3 ++ 0#7 ++ 0#7 ++ 0#5) = 0#8 ++ 0#2 ++ 0#3 ++ 0#7 ++ 0#7 ++ 0#5 := by
    simp only [append_mask, mask_none]
    rfl
  refine ⟨?_, fun _ h => absurd (hk.symm.trans h) (by decide)⟩
  refine (decodeOne_of_row _ _ hk (by decide) hb hw).trans ?_
  unfold decodeFields
  rw [hk]
  show decodeMajor7 2 (114#8 ++ o ++ 0#3 ++ d ++ a ++ k) x = _
  simp (disch := decide) only [decodeMajor7, ext_lo, ext_hi, ext_self, Nat.reduceSub]

theorem ldcWK32 (o : BitVec 2) (d : BitVec 7) (a : BitVec 7) (k : BitVec 5) (x : Option (BitVec 24)) : Statement (.ldcWK32 o d a k x) := by
  intro _ hw
  have hk : major (115#8 ++ o ++ 0#3 ++ d ++ a ++ k) = 115 := by
    simp (disch := decide) only [major, ext_hi, ext_self, Nat.reduceSub]
    rfl
  have hb : (115#8 ++ o ++ 0#3 ++ d ++ a ++ k) &&& (0#8 ++ 0#2 ++ 7#3 ++ 0#7 ++ 0#7 ++ 0#5) = 0#8 ++ 0#2 ++ 0#3 ++ 0#7 ++ 0#7 ++ 0#5 := by
    simp only [append_mask, mask_none]
    rfl
  refine ⟨?_, fun _ h => absurd (hk.symm.trans h) (by decide)⟩
  refine (decodeOne_of_row _ _ hk (by decide) hb hw).trans ?_
  unfold decodeFields
  rw [hk]
  show decodeMajor7 3 (115#8 ++ o ++ 0#3 ++ d ++ a ++ k) x = _
  simp (disch := decide) only [decodeMajor7, ext_lo, ext_hi, ext_self, Nat.reduceSub]

theorem ldcWK64 (o : BitVec 2) (d : BitVec 7) (a : BitVec 7) (k : BitVec 5) (x : Option (BitVec 24)) : Statement (.ldcWK64 o d a k x) := by
  intro _ hw
  have hk : major (116#8 ++ o ++ 0#3 ++ d ++ a ++ k) = 116 := by
    simp (disch := decide) only [major, ext_hi, ext_self, Nat.reduceSub]
    rfl
  have hb : (116#8 ++ o ++ 0#3 ++ d ++ a ++ k) &&& (0#8 ++ 0#2 ++ 7#3 ++ 0#7 ++ 0#7 ++ 0#5) = 0#8 ++ 0#2 ++ 0#3 ++ 0#7 ++ 0#7 ++ 0#5 := by
    simp only [append_mask, mask_none]
    rfl
  refine ⟨?_, fun _ h => absurd (hk.symm.trans h) (by decide)⟩
  refine (decodeOne_of_row _ _ hk (by decide) hb hw).trans ?_
  unfold decodeFields
  rw [hk]
  show decodeMajor7 4 (116#8 ++ o ++ 0#3 ++ d ++ a ++ k) x = _
  simp (disch := decide) only [decodeMajor7, ext_lo, ext_hi, ext_self, Nat.reduceSub]

theorem ldcWK128 (o : BitVec 2) (d : BitVec 7) (a : BitVec 7) (k : BitVec 5) (x : Option (BitVec 24)) : Statement (.ldcWK128 o d a k x) := by
  intro _ hw
  have hk : major (117#8 ++ o ++ 0#3 ++ d ++ a ++ k) = 117 := by
    simp (disch := decide) only [major, ext_hi, ext_self, Nat.reduceSub]
    rfl
  have hb : (117#8 ++ o ++ 0#3 ++ d ++ a ++ k) &&& (0#8 ++ 0#2 ++ 7#3 ++ 0#7 ++ 0#7 ++ 0#5) = 0#8 ++ 0#2 ++ 0#3 ++ 0#7 ++ 0#7 ++ 0#5 := by
    simp only [append_mask, mask_none]
    rfl
  refine ⟨?_, fun _ h => absurd (hk.symm.trans h) (by decide)⟩
  refine (decodeOne_of_row _ _ hk (by decide) hb hw).trans ?_
  unfold decodeFields
  rw [hk]
  show decodeMajor7 5 (117#8 ++ o ++ 0#3 ++ d ++ a ++ k) x = _
  simp (disch := decide) only [decodeMajor7, ext_lo, ext_hi, ext_self, Nat.reduceSub]

theorem ldcWC32 (o : BitVec 2) (d : BitVec 7) (a : BitVec 7) (k : BitVec 5) (x : Option (BitVec 24)) : Statement (.ldcWC32 o d a k x) := by
  intro _ hw
  have hk : major (118#8 ++ o ++ 0#3 ++ d ++ a ++ k) = 118 := by
    simp (disch := decide) only [major, ext_hi, ext_self, Nat.reduceSub]
    rfl
  have hb : (118#8 ++ o ++ 0#3 ++ d ++ a ++ k) &&& (0#8 ++ 0#2 ++ 7#3 ++ 0#7 ++ 0#7 ++ 0#5) = 0#8 ++ 0#2 ++ 0#3 ++ 0#7 ++ 0#7 ++ 0#5 := by
    simp only [append_mask, mask_none]
    rfl
  refine ⟨?_, fun _ h => absurd (hk.symm.trans h) (by decide)⟩
  refine (decodeOne_of_row _ _ hk (by decide) hb hw).trans ?_
  unfold decodeFields
  rw [hk]
  show decodeMajor7 6 (118#8 ++ o ++ 0#3 ++ d ++ a ++ k) x = _
  simp (disch := decide) only [decodeMajor7, ext_lo, ext_hi, ext_self, Nat.reduceSub]

theorem ldcWC64 (o : BitVec 2) (d : BitVec 7) (a : BitVec 7) (k : BitVec 5) (x : Option (BitVec 24)) : Statement (.ldcWC64 o d a k x) := by
  intro _ hw
  have hk : major (119#8 ++ o ++ 0#3 ++ d ++ a ++ k) = 119 := by
    simp (disch := decide) only [major, ext_hi, ext_self, Nat.reduceSub]
    rfl
  have hb : (119#8 ++ o ++ 0#3 ++ d ++ a ++ k) &&& (0#8 ++ 0#2 ++ 7#3 ++ 0#7 ++ 0#7 ++ 0#5) = 0#8 ++ 0#2 ++ 0#3 ++ 0#7 ++ 0#7 ++ 0#5 := by
    simp only [append_mask, mask_none]
    rfl
  refine ⟨?_, fun _ h => absurd (hk.symm.trans h) (by decide)⟩
  refine (decodeOne_of_row _ _ hk (by decide) hb hw).trans ?_
  unfold decodeFields
  rw [hk]
  show decodeMajor7 7 (119#8 ++ o ++ 0#3 ++ d ++ a ++ k) x = _
  simp (disch := decide) only [decodeMajor7, ext_lo, ext_hi, ext_self, Nat.reduceSub]

theorem ldcWC128 (o : BitVec 2) (d : BitVec 7) (a : BitVec 7) (k : BitVec 5) (x : Option (BitVec 24)) : Statement (.ldcWC128 o d a k x) := by
  intro _ hw
  have hk : major (120#8 ++ o ++ 0#3 ++ d ++ a ++ k) = 120 := by
    simp (disch := decide) only [major, ext_hi, ext_self, Nat.reduceSub]
    rfl
  have hb : (120#8 ++ o ++ 0#3 ++ d ++ a ++ k) &&& (0#8 ++ 0#2 ++ 7#3 ++ 0#7 ++ 0#7 ++ 0#5) = 0#8 ++ 0#2 ++ 0#3 ++ 0#7 ++ 0#7 ++ 0#5 := by
    simp only [append_mask, mask_none]
    rfl
  refine ⟨?_, fun _ h => absurd (hk.symm.trans h) (by decide)⟩
  refine (decodeOne_of_row _ _ hk (by decide) hb hw).trans ?_
  unfold decodeFields
  rw [hk]
  show decodeMajor7 8 (120#8 ++ o ++ 0#3 ++ d ++ a ++ k) x = _
  simp (disch := decide) only [decodeMajor7, ext_lo, ext_hi, ext_self, Nat.reduceSub]

theorem stc32 (o : BitVec 2) (d : BitVec 7) (a : BitVec 7) (k : BitVec 5) (x : Option (BitVec 24)) : Statement (.stc32 o d a k x) := by
  intro _ hw
  have hk : major (121#8 ++ o ++ 0#3 ++ d ++ a ++ k) = 121 := by
    simp (disch := decide) only [major, ext_hi, ext_self, Nat.reduceSub]
    rfl
  have hb : (121#8 ++ o ++ 0#3 ++ d ++ a ++ k) &&& (0#8 ++ 0#2 ++ 7#3 ++ 0#7 ++ 0#7 ++ 0#5) = 0#8 ++ 0#2 ++ 0#3 ++ 0#7 ++ 0#7 ++ 0#5 := by
    simp only [append_mask, mask_none]
    rfl
  refine ⟨?_, fun _ h => absurd (hk.symm.trans h) (by decide)⟩
  refine (decodeOne_of_row _ _ hk (by decide) hb hw).trans ?_
  unfold decodeFields
  rw [hk]
  show decodeMajor7 9 (121#8 ++ o ++ 0#3 ++ d ++ a ++ k) x = _
  simp (disch := decide) only [decodeMajor7, ext_lo, ext_hi, ext_self, Nat.reduceSub]

theorem stc64 (o : BitVec 2) (d : BitVec 7) (a : BitVec 7) (k : BitVec 5) (x : Option (BitVec 24)) : Statement (.stc64 o d a k x) := by
  intro _ hw
  have hk : major (122#8 ++ o ++ 0#3 ++ d ++ a ++ k) = 122 := by
    simp (disch := decide) only [major, ext_hi, ext_self, Nat.reduceSub]
    rfl
  have hb : (122#8 ++ o ++ 0#3 ++ d ++ a ++ k) &&& (0#8 ++ 0#2 ++ 7#3 ++ 0#7 ++ 0#7 ++ 0#5) = 0#8 ++ 0#2 ++ 0#3 ++ 0#7 ++ 0#7 ++ 0#5 := by
    simp only [append_mask, mask_none]
    rfl
  refine ⟨?_, fun _ h => absurd (hk.symm.trans h) (by decide)⟩
  refine (decodeOne_of_row _ _ hk (by decide) hb hw).trans ?_
  unfold decodeFields
  rw [hk]
  show decodeMajor7 10 (122#8 ++ o ++ 0#3 ++ d ++ a ++ k) x = _
  simp (disch := decide) only [decodeMajor7, ext_lo, ext_hi, ext_self, Nat.reduceSub]

theorem stc128 (o : BitVec 2) (d : BitVec 7) (a : BitVec 7) (k : BitVec 5) (x : Option (BitVec 24)) : Statement (.stc128 o d a k x) := by
  intro _ hw
  have hk : major (123#8 ++ o ++ 0#3 ++ d ++ a ++ k) = 123 := by
    simp (disch := decide) only [major, ext_hi, ext_self, Nat.reduceSub]
    rfl
  have hb : (123#8 ++ o ++ 0#3 ++ d ++ a ++ k) &&& (0#8 ++ 0#2 ++ 7#3 ++ 0#7 ++ 0#7 ++ 0#5) = 0#8 ++ 0#2 ++ 0#3 ++ 0#7 ++ 0#7 ++ 0#5 := by
    simp only [append_mask, mask_none]
    rfl
  refine ⟨?_, fun _ h => absurd (hk.symm.trans h) (by decide)⟩
  refine (decodeOne_of_row _ _ hk (by decide) hb hw).trans ?_
  unfold decodeFields
  rw [hk]
  show decodeMajor7 11 (123#8 ++ o ++ 0#3 ++ d ++ a ++ k) x = _
  simp (disch := decide) only [decodeMajor7, ext_lo, ext_hi, ext_self, Nat.reduceSub]

theorem stcF32 (o : BitVec 2) (d : BitVec 7) (a : BitVec 7) (k : BitVec 5) (x : Option (BitVec 24)) : Statement (.stcF32 o d a k x) := by
  intro _ hw
  have hk : major (124#8 ++ o ++ 0#3 ++ d ++ a ++ k) = 124 := by
    simp (disch := decide) only [major, ext_hi, ext_self, Nat.reduceSub]
    rfl
  have hb : (124#8 ++ o ++ 0#3 ++ d ++ a ++ k) &&& (0#8 ++ 0#2 ++ 7#3 ++ 0#7 ++ 0#7 ++ 0#5) = 0#8 ++ 0#2 ++ 0#3 ++ 0#7 ++ 0#7 ++ 0#5 := by
    simp only [append_mask, mask_none]
    rfl
  refine ⟨?_, fun _ h => absurd (hk.symm.trans h) (by decide)⟩
  refine (decodeOne_of_row _ _ hk (by decide) hb hw).trans ?_
  unfold decodeFields
  rw [hk]
  show decodeMajor7 12 (124#8 ++ o ++ 0#3 ++ d ++ a ++ k) x = _
  simp (disch := decide) only [decodeMajor7, ext_lo, ext_hi, ext_self, Nat.reduceSub]

theorem stcF64 (o : BitVec 2) (d : BitVec 7) (a : BitVec 7) (k : BitVec 5) (x : Option (BitVec 24)) : Statement (.stcF64 o d a k x) := by
  intro _ hw
  have hk : major (125#8 ++ o ++ 0#3 ++ d ++ a ++ k) = 125 := by
    simp (disch := decide) only [major, ext_hi, ext_self, Nat.reduceSub]
    rfl
  have hb : (125#8 ++ o ++ 0#3 ++ d ++ a ++ k) &&& (0#8 ++ 0#2 ++ 7#3 ++ 0#7 ++ 0#7 ++ 0#5) = 0#8 ++ 0#2 ++ 0#3 ++ 0#7 ++ 0#7 ++ 0#5 := by
    simp only [append_mask, mask_none]
    rfl
  refine ⟨?_, fun _ h => absurd (hk.symm.trans h) (by decide)⟩
  refine (decodeOne_of_row _ _ hk (by decide) hb hw).trans ?_
  unfold decodeFields
  rw [hk]
  show decodeMajor7 13 (125#8 ++ o ++ 0#3 ++ d ++ a ++ k) x = _
  simp (disch := decide) only [decodeMajor7, ext_lo, ext_hi, ext_self, Nat.reduceSub]

theorem stcF128 (o : BitVec 2) (d : BitVec 7) (a : BitVec 7) (k : BitVec 5) (x : Option (BitVec 24)) : Statement (.stcF128 o d a k x) := by
  intro _ hw
  have hk : major (126#8 ++ o ++ 0#3 ++ d ++ a ++ k) = 126 := by
    simp (disch := decide) only [major, ext_hi, ext_self, Nat.reduceSub]
    rfl
  have hb : (126#8 ++ o ++ 0#3 ++ d ++ a ++ k) &&& (0#8 ++ 0#2 ++ 7#3 ++ 0#7 ++ 0#7 ++ 0#5) = 0#8 ++ 0#2 ++ 0#3 ++ 0#7 ++ 0#7 ++ 0#5 := by
    simp only [append_mask, mask_none]
    rfl
  refine ⟨?_, fun _ h => absurd (hk.symm.trans h) (by decide)⟩
  refine (decodeOne_of_row _ _ hk (by decide) hb hw).trans ?_
  unfold decodeFields
  rw [hk]
  show decodeMajor7 14 (126#8 ++ o ++ 0#3 ++ d ++ a ++ k) x = _
  simp (disch := decide) only [decodeMajor7, ext_lo, ext_hi, ext_self, Nat.reduceSub]

theorem stcT128 (d : BitVec 7) (a : BitVec 7) (k : BitVec 5) (x : Option (BitVec 24)) : Statement (.stcT128 d a k x) := by
  intro _ hw
  have hk : major (4064#13 ++ d ++ a ++ k) = 127 := by
    simp (disch := decide) only [major, ext_hi, Nat.reduceSub]
    rfl
  have hb : (4064#13 ++ d ++ a ++ k) &&& (31#13 ++ 0#7 ++ 0#7 ++ 0#5) = 0#13 ++ 0#7 ++ 0#7 ++ 0#5 := by
    simp only [append_mask, mask_none]
    rfl
  refine ⟨?_, fun _ h => absurd (hk.symm.trans h) (by decide)⟩
  refine (decodeOne_of_row _ _ hk (by decide) hb hw).trans ?_
  unfold decodeFields
  rw [hk]
  show decodeMajor7 15 (4064#13 ++ d ++ a ++ k) x = _
  simp (disch := decide) only [decodeMajor7, ext_lo, ext_hi, ext_self, Nat.reduceSub]

theorem uadd (m : BitVec 3) (d : BitVec 7) (a : BitVec 7) (b : BitVec 7) : Statement (.uadd m d a b) := by
  intro _ _
  have hk : major (128#8 ++ m ++ d ++ a ++ b) = 128 := by
    simp (disch := decide) only [major, ext_hi, ext_self, Nat.reduceSub]
    rfl
  have hb : (128#8 ++ m ++ d ++ a ++ b) &&& (0#8 ++ 0#3 ++ 0#7 ++ 0#7 ++ 0#7) = 0#8 ++ 0#3 ++ 0#7 ++ 0#7 ++ 0#7 := by
    simp only [append_mask, mask_none]
  refine ⟨?_, fun _ h => absurd (hk.symm.trans h) (by decide)⟩
  refine (decodeOne_of_row _ _ hk (by decide) hb rfl).trans ?_
  unfold decodeFields
  rw [hk]
  show decodeMajor8 0 (128#8 ++ m ++ d ++ a ++ b) = _
  simp (disch := decide) only [decodeMajor8, ext_lo, ext_hi, ext_self, Nat.reduceSub]

theorem usub (m : BitVec 3) (d : BitVec 7) (a : BitVec 7) (b : BitVec 7) : Statement (.usub m d a b) := by
  intro _ _
  have hk : major (129#8 ++ m ++ d ++ a ++ b) = 129 := by
    simp (disch := decide) only [major, ext_hi, ext_self, Nat.reduceSub]
    rfl
  have hb : (129#8 ++ m ++ d ++ a ++ b) &&& (0#8 ++ 0#3 ++ 0#7 ++ 0#7 ++ 0#7) = 0#8 ++ 0#3 ++ 0#7 ++ 0#7 ++ 0#7 := by
    simp only [append_mask, mask_none]
  refine ⟨?_, fun _ h => absurd (hk.symm.trans h) (by decide)⟩
  refine (decodeOne_of_row _ _ hk (by decide) hb rfl).trans ?_
  unfold decodeFields
  rw [hk]
  show decodeMajor8 1 (129#8 ++ m ++ d ++ a ++ b) = _
  simp (disch := decide) only [decodeMajor8, ext_lo, ext_hi, ext_self, Nat.reduceSub]

theorem umul (m : BitVec 3) (d : BitVec 7) (a : BitVec 7) (b : BitVec 7) : Statement (.umul m d a b) := by
  intro _ _
  have hk : major (130#8 ++ m ++ d ++ a ++ b) = 130 := by
    simp (disch := decide) only [major, ext_hi, ext_self, Nat.reduceSub]
    rfl
  have hb : (130#8 ++ m ++ d ++ a ++ b) &&& (0#8 ++ 0#3 ++ 0#7 ++ 0#7 ++ 0#7) = 0#8 ++ 0#3 ++ 0#7 ++ 0#7 ++ 0#7 := by
    simp only [append_mask, mask_none]
  refine ⟨?_, fun _ h => absurd (hk.symm.trans h) (by decide)⟩
  refine (decodeOne_of_row _ _ hk (by decide) hb rfl).trans ?_
  unfold decodeFields
  rw [hk]
  show decodeMajor8 2 (130#8 ++ m ++ d ++ a ++ b) = _
  simp (disch := decide) only [decodeMajor8, ext_lo, ext_hi, ext_self, Nat.reduceSub]

theorem umad (m : BitVec 3) (d : BitVec 7) (a : BitVec 7) (b : BitVec 7) : Statement (.umad m d a b) := by
  intro _ _
  have hk : major (132#8 ++ m ++ d ++ a ++ b) = 132 := by
    simp (disch := decide) only [major, ext_hi, ext_self, Nat.reduceSub]
    rfl
  have hb : (132#8 ++ m ++ d ++ a ++ b) &&& (0#8 ++ 0#3 ++ 0#7 ++ 0#7 ++ 0#7) = 0#8 ++ 0#3 ++ 0#7 ++ 0#7 ++ 0#7 := by
    simp only [append_mask, mask_none]
  refine ⟨?_, fun _ h => absurd (hk.symm.trans h) (by decide)⟩
  refine (decodeOne_of_row _ _ hk (by decide) hb rfl).trans ?_
  unfold decodeFields
  rw [hk]
  show decodeMajor8 4 (132#8 ++ m ++ d ++ a ++ b) = _
  simp (disch := decide) only [decodeMajor8, ext_lo, ext_hi, ext_self, Nat.reduceSub]

theorem udiv (m : BitVec 3) (d : BitVec 7) (a : BitVec 7) (b : BitVec 7) : Statement (.udiv m d a b) := by
  intro _ _
  have hk : major (133#8 ++ m ++ d ++ a ++ b) = 133 := by
    simp (disch := decide) only [major, ext_hi, ext_self, Nat.reduceSub]
    rfl
  have hb : (133#8 ++ m ++ d ++ a ++ b) &&& (0#8 ++ 0#3 ++ 0#7 ++ 0#7 ++ 0#7) = 0#8 ++ 0#3 ++ 0#7 ++ 0#7 ++ 0#7 := by
    simp only [append_mask, mask_none]
  refine ⟨?_, fun _ h => absurd (hk.symm.trans h) (by decide)⟩
  refine (decodeOne_of_row _ _ hk (by decide) hb rfl).trans ?_
  unfold decodeFields
  rw [hk]
  show decodeMajor8 5 (133#8 ++ m ++ d ++ a ++ b) = _
  simp (disch := decide) only [decodeMajor8, ext_lo, ext_hi, ext_self, Nat.reduceSub]

theorem urem (m : BitVec 3) (d : BitVec 7) (a : BitVec 7) (b : BitVec 7) : Statement (.urem m d a b) := by
  intro _ _
  have hk : major (134#8 ++ m ++ d ++ a ++ b) = 134 := by
    simp (disch := decide) only [major, ext_hi, ext_self, Nat.reduceSub]
    rfl
  have hb : (134#8 ++ m ++ d ++ a ++ b) &&& (0#8 ++ 0#3 ++ 0#7 ++ 0#7 ++ 0#7) = 0#8 ++ 0#3 ++ 0#7 ++ 0#7 ++ 0#7 := by
    simp only [append_mask, mask_none]
  refine ⟨?_, fun _ h => absurd (hk.symm.trans h) (by decide)⟩
  refine (decodeOne_of_row _ _ hk (by decide) hb rfl).trans ?_
  unfold decodeFields
  rw [hk]
  show decodeMajor8 6 (134#8 ++ m ++ d ++ a ++ b) = _
  simp (disch := decide) only [decodeMajor8, ext_lo, ext_hi, ext_self, Nat.reduceSub]

theorem umin (m : BitVec 3) (d : BitVec 7) (a : BitVec 7) (b : BitVec 7) : Statement (.umin m d a b) := by
  intro _ _
  have hk : major (135#8 ++ m ++ d ++ a ++ b) = 135 := by
    simp (disch := decide) only [major, ext_hi, ext_self, Nat.reduceSub]
    rfl
  have hb : (135#8 ++ m ++ d ++ a ++ b) &&& (0#8 ++ 0#3 ++ 0#7 ++ 0#7 ++ 0#7) = 0#8 ++ 0#3 ++ 0#7 ++ 0#7 ++ 0#7 := by
    simp only [append_mask, mask_none]
  refine ⟨?_, fun _ h => absurd (hk.symm.trans h) (by decide)⟩
  refine (decodeOne_of_row _ _ hk (by decide) hb rfl).trans ?_
  unfold decodeFields
  rw [hk]
  show decodeMajor8 7 (135#8 ++ m ++ d ++ a ++ b) = _
  simp (disch := decide) only [decodeMajor8, ext_lo, ext_hi, ext_self, Nat.reduceSub]

theorem umax (m : BitVec 3) (d : BitVec 7) (a : BitVec 7) (b : BitVec 7) : Statement (.umax m d a b) := by
  intro _ _
  have hk : major (136#8 ++ m ++ d ++ a ++ b) = 136 := by
    simp (disch := decide) only [major, ext_hi, ext_self, Nat.reduceSub]
    rfl
  have hb : (136#8 ++ m ++ d ++ a ++ b) &&& (0#8 ++ 0#3 ++ 0#7 ++ 0#7 ++ 0#7) = 0#8 ++ 0#3 ++ 0#7 ++ 0#7 ++ 0#7 := by
    simp only [append_mask, mask_none]
  refine ⟨?_, fun _ h => absurd (hk.symm.trans h) (by decide)⟩
  refine (decodeOne_of_row _ _ hk (by decide) hb rfl).trans ?_
  unfold decodeFields
  rw [hk]
  show decodeMajor8 8 (136#8 ++ m ++ d ++ a ++ b) = _
  simp (disch := decide) only [decodeMajor8, ext_lo, ext_hi, ext_self, Nat.reduceSub]

theorem ucmp (m : BitVec 3) (d : BitVec 7) (a : BitVec 7) (b : BitVec 7) : Statement (.ucmp m d a b) := by
  intro _ _
  have hk : major (139#8 ++ m ++ d ++ a ++ b) = 139 := by
    simp (disch := decide) only [major, ext_hi, ext_self, Nat.reduceSub]
    rfl
  have hb : (139#8 ++ m ++ d ++ a ++ b) &&& (0#8 ++ 0#3 ++ 0#7 ++ 0#7 ++ 0#7) = 0#8 ++ 0#3 ++ 0#7 ++ 0#7 ++ 0#7 := by
    simp only [append_mask, mask_none]
  refine ⟨?_, fun _ h => absurd (hk.symm.trans h) (by decide)⟩
  refine (decodeOne_of_row _ _ hk (by decide) hb rfl).trans ?_
  unfold decodeFields
  rw [hk]
  show decodeMajor8 11 (139#8 ++ m ++ d ++ a ++ b) = _
  simp (disch := decide) only [decodeMajor8, ext_lo, ext_hi, ext_self, Nat.reduceSub]

theorem uadd64 (m : BitVec 3) (d : BitVec 7) (a : BitVec 7) (b : BitVec 7) : Statement (.uadd64 m d a b) := by
  intro _ _
  have hk : major (140#8 ++ m ++ d ++ a ++ b) = 140 := by
    simp (disch := decide) only [major, ext_hi, ext_self, Nat.reduceSub]
    rfl
  have hb : (140#8 ++ m ++ d ++ a ++ b) &&& (0#8 ++ 0#3 ++ 0#7 ++ 0#7 ++ 0#7) = 0#8 ++ 0#3 ++ 0#7 ++ 0#7 ++ 0#7 := by
    simp only [append_mask, mask_none]
  refine ⟨?_, fun _ h => absurd (hk.symm.trans h) (by decide)⟩
  refine (decodeOne_of_row _ _ hk (by decide) hb rfl).trans ?_
  unfold decodeFields
  rw [hk]
  show decodeMajor8 12 (140#8 ++ m ++ d ++ a ++ b) = _
  simp (disch := decide) only [decodeMajor8, ext_lo, ext_hi, ext_self, Nat.reduceSub]

theorem usub64 (m : BitVec 3) (d : BitVec 7) (a : BitVec 7) (b : BitVec 7) : Statement (.usub64 m d a b) := by
  intro _ _
  have hk : major (141#8 ++ m ++ d ++ a ++ b) = 141 := by
    simp (disch := decide) only [major, ext_hi, ext_self, Nat.reduceSub]
    rfl
  have hb : (141#8 ++ m ++ d ++ a ++ b) &&& (0#8 ++ 0#3 ++ 0#7 ++ 0#7 ++ 0#7) = 0#8 ++ 0#3 ++ 0#7 ++ 0#7 ++ 0#7 := by
    simp only [append_mask, mask_none]
  refine ⟨?_, fun _ h => absurd (hk.symm.trans h) (by decide)⟩
  refine (decodeOne_of_row _ _ hk (by decide) hb rfl).trans ?_
  unfold decodeFields
  rw [hk]
  show decodeMajor8 13 (141#8 ++ m ++ d ++ a ++ b) = _
  simp (disch := decide) only [decodeMajor8, ext_lo, ext_hi, ext_self, Nat.reduceSub]

theorem ucmp64 (m : BitVec 3) (d : BitVec 7) (a : BitVec 7) (b : BitVec 7) : Statement (.ucmp64 m d a b) := by
  intro _ _
  have hk : major (142#8 ++ m ++ d ++ a ++ b) = 142 := by
    simp (disch := decide) only [major, ext_hi, ext_self, Nat.reduceSub]
    rfl
  have hb : (142#8 ++ m ++ d ++ a ++ b) &&& (0#8 ++ 0#3 ++ 0#7 ++ 0#7 ++ 0#7) = 0#8 ++ 0#3 ++ 0#7 ++ 0#7 ++ 0#7 := by
    simp only [append_mask, mask_none]
  refine ⟨?_, fun _ h => absurd (hk.symm.trans h) (by decide)⟩
  refine (decodeOne_of_row _ _ hk (by decide) hb rfl).trans ?_
  unfold decodeFields
  rw [hk]
  show decodeMajor8 14 (142#8 ++ m ++ d ++ a ++ b) = _
  simp (disch := decide) only [decodeMajor8, ext_lo, ext_hi, ext_self, Nat.reduceSub]

theorem ulea (h : BitVec 3) (d : BitVec 7) (a : BitVec 7) (b : BitVec 7) : Statement (.ulea h d a b) := by
  intro _ _
  have hk : major (143#8 ++ h ++ d ++ a ++ b) = 143 := by
    simp (disch := decide) only [major, ext_hi, ext_self, Nat.reduceSub]
    rfl
  have hb : (143#8 ++ h ++ d ++ a ++ b) &&& (0#8 ++ 0#3 ++ 0#7 ++ 0#7 ++ 0#7) = 0#8 ++ 0#3 ++ 0#7 ++ 0#7 ++ 0#7 := by
    simp only [append_mask, mask_none]
  refine ⟨?_, fun _ h => absurd (hk.symm.trans h) (by decide)⟩
  refine (decodeOne_of_row _ _ hk (by decide) hb rfl).trans ?_
  unfold decodeFields
  rw [hk]
  show decodeMajor8 15 (143#8 ++ h ++ d ++ a ++ b) = _
  simp (disch := decide) only [decodeMajor8, ext_lo, ext_hi, ext_self, Nat.reduceSub]

theorem uand (d : BitVec 7) (a : BitVec 7) (b : BitVec 7) : Statement (.uand d a b) := by
  intro _ _
  have hk : major (1152#11 ++ d ++ a ++ b) = 144 := by
    simp (disch := decide) only [major, ext_hi, Nat.reduceSub]
    rfl
  have hb : (1152#11 ++ d ++ a ++ b) &&& (7#11 ++ 0#7 ++ 0#7 ++ 0#7) = 0#11 ++ 0#7 ++ 0#7 ++ 0#7 := by
    simp only [append_mask, mask_none]
    rfl
  refine ⟨?_, fun _ h => absurd (hk.symm.trans h) (by decide)⟩
  refine (decodeOne_of_row _ _ hk (by decide) hb rfl).trans ?_
  unfold decodeFields
  rw [hk]
  show decodeMajor9 0 (1152#11 ++ d ++ a ++ b) none = _
  simp (disch := decide) only [decodeMajor9, ext_lo, ext_hi, ext_self, Nat.reduceSub]

theorem uor (d : BitVec 7) (a : BitVec 7) (b : BitVec 7) : Statement (.uor d a b) := by
  intro _ _
  have hk : major (1160#11 ++ d ++ a ++ b) = 145 := by
    simp (disch := decide) only [major, ext_hi, Nat.reduceSub]
    rfl
  have hb : (1160#11 ++ d ++ a ++ b) &&& (7#11 ++ 0#7 ++ 0#7 ++ 0#7) = 0#11 ++ 0#7 ++ 0#7 ++ 0#7 := by
    simp only [append_mask, mask_none]
    rfl
  refine ⟨?_, fun _ h => absurd (hk.symm.trans h) (by decide)⟩
  refine (decodeOne_of_row _ _ hk (by decide) hb rfl).trans ?_
  unfold decodeFields
  rw [hk]
  show decodeMajor9 1 (1160#11 ++ d ++ a ++ b) none = _
  simp (disch := decide) only [decodeMajor9, ext_lo, ext_hi, ext_self, Nat.reduceSub]

theorem uxor (d : BitVec 7) (a : BitVec 7) (b : BitVec 7) : Statement (.uxor d a b) := by
  intro _ _
  have hk : major (1168#11 ++ d ++ a ++ b) = 146 := by
    simp (disch := decide) only [major, ext_hi, Nat.reduceSub]
    rfl
  have hb : (1168#11 ++ d ++ a ++ b) &&& (7#11 ++ 0#7 ++ 0#7 ++ 0#7) = 0#11 ++ 0#7 ++ 0#7 ++ 0#7 := by
    simp only [append_mask, mask_none]
    rfl
  refine ⟨?_, fun _ h => absurd (hk.symm.trans h) (by decide)⟩
  refine (decodeOne_of_row _ _ hk (by decide) hb rfl).trans ?_
  unfold decodeFields
  rw [hk]
  show decodeMajor9 2 (1168#11 ++ d ++ a ++ b) none = _
  simp (disch := decide) only [decodeMajor9, ext_lo, ext_hi, ext_self, Nat.reduceSub]

theorem uandn (d : BitVec 7) (a : BitVec 7) (b : BitVec 7) : Statement (.uandn d a b) := by
  intro _ _
  have hk : major (1176#11 ++ d ++ a ++ b) = 147 := by
    simp (disch := decide) only [major, ext_hi, Nat.reduceSub]
    rfl
  have hb : (1176#11 ++ d ++ a ++ b) &&& (7#11 ++ 0#7 ++ 0#7 ++ 0#7) = 0#11 ++ 0#7 ++ 0#7 ++ 0#7 := by
    simp only [append_mask, mask_none]
    rfl
  refine ⟨?_, fun _ h => absurd (hk.symm.trans h) (by decide)⟩
  refine (decodeOne_of_row _ _ hk (by decide) hb rfl).trans ?_
  unfold decodeFields
  rw [hk]
  show decodeMajor9 3 (1176#11 ++ d ++ a ++ b) none = _
  simp (disch := decide) only [decodeMajor9, ext_lo, ext_hi, ext_self, Nat.reduceSub]

theorem ushl (d : BitVec 7) (a : BitVec 7) (b : BitVec 7) : Statement (.ushl d a b) := by
  intro _ _
  have hk : major (1184#11 ++ d ++ a ++ b) = 148 := by
    simp (disch := decide) only [major, ext_hi, Nat.reduceSub]
    rfl
  have hb : (1184#11 ++ d ++ a ++ b) &&& (7#11 ++ 0#7 ++ 0#7 ++ 0#7) = 0#11 ++ 0#7 ++ 0#7 ++ 0#7 := by
    simp only [append_mask, mask_none]
    rfl
  refine ⟨?_, fun _ h => absurd (hk.symm.trans h) (by decide)⟩
  refine (decodeOne_of_row _ _ hk (by decide) hb rfl).trans ?_
  unfold decodeFields
  rw [hk]
  show decodeMajor9 4 (1184#11 ++ d ++ a ++ b) none = _
  simp (disch := decide) only [decodeMajor9, ext_lo, ext_hi, ext_self, Nat.reduceSub]

theorem ushr (d : BitVec 7) (a : BitVec 7) (b : BitVec 7) : Statement (.ushr d a b) := by
  intro _ _
  have hk : major (1192#11 ++ d ++ a ++ b) = 149 := by
    simp (disch := decide) only [major, ext_hi, Nat.reduceSub]
    rfl
  have hb : (1192#11 ++ d ++ a ++ b) &&& (7#11 ++ 0#7 ++ 0#7 ++ 0#7) = 0#11 ++ 0#7 ++ 0#7 ++ 0#7 := by
    simp only [append_mask, mask_none]
    rfl
  refine ⟨?_, fun _ h => absurd (hk.symm.trans h) (by decide)⟩
  refine (decodeOne_of_row _ _ hk (by decide) hb rfl).trans ?_
  unfold decodeFields
  rw [hk]
  show decodeMajor9 5 (1192#11 ++ d ++ a ++ b) none = _
  simp (disch := decide) only [decodeMajor9, ext_lo, ext_hi, ext_self, Nat.reduceSub]

theorem usar (d : BitVec 7) (a : BitVec 7) (b : BitVec 7) : Statement (.usar d a b) := by
  intro _ _
  have hk : major (1200#11 ++ d ++ a ++ b) = 150 := by
    simp (disch := decide) only [major, ext_hi, Nat.reduceSub]
    rfl
  have hb : (1200#11 ++ d ++ a ++ b) &&& (7#11 ++ 0#7 ++ 0#7 ++ 0#7) = 0#11 ++ 0#7 ++ 0#7 ++ 0#7 := by
    simp only [append_mask, mask_none]
    rfl
  refine ⟨?_, fun _ h => absurd (hk.symm.trans h) (by decide)⟩
  refine (decodeOne_of_row _ _ hk (by decide) hb rfl).trans ?_
  unfold decodeFields
  rw [hk]
  show decodeMajor9 6 (1200#11 ++ d ++ a ++ b) none = _
  simp (disch := decide) only [decodeMajor9, ext_lo, ext_hi, ext_self, Nat.reduceSub]

theorem upopc (d : BitVec 7) (a : BitVec 7) : Statement (.upopc d a) := by
  intro _ _
  have hk : major (1224#11 ++ d ++ a ++ 0#7) = 153 := by
    simp (disch := decide) only [major, ext_hi, Nat.reduceSub]
    rfl
  have hb : (1224#11 ++ d ++ a ++ 0#7) &&& (7#11 ++ 0#7 ++ 0#7 ++ 127#7) = 0#11 ++ 0#7 ++ 0#7 ++ 0#7 := by
    simp only [append_mask, mask_none]
    rfl
  refine ⟨?_, fun _ h => absurd (hk.symm.trans h) (by decide)⟩
  refine (decodeOne_of_row _ _ hk (by decide) hb rfl).trans ?_
  unfold decodeFields
  rw [hk]
  show decodeMajor9 9 (1224#11 ++ d ++ a ++ 0#7) none = _
  simp (disch := decide) only [decodeMajor9, ext_lo, ext_hi, ext_self, Nat.reduceSub]

theorem uclz (d : BitVec 7) (a : BitVec 7) : Statement (.uclz d a) := by
  intro _ _
  have hk : major (1232#11 ++ d ++ a ++ 0#7) = 154 := by
    simp (disch := decide) only [major, ext_hi, Nat.reduceSub]
    rfl
  have hb : (1232#11 ++ d ++ a ++ 0#7) &&& (7#11 ++ 0#7 ++ 0#7 ++ 127#7) = 0#11 ++ 0#7 ++ 0#7 ++ 0#7 := by
    simp only [append_mask, mask_none]
    rfl
  refine ⟨?_, fun _ h => absurd (hk.symm.trans h) (by decide)⟩
  refine (decodeOne_of_row _ _ hk (by decide) hb rfl).trans ?_
  unfold decodeFields
  rw [hk]
  show decodeMajor9 10 (1232#11 ++ d ++ a ++ 0#7) none = _
  simp (disch := decide) only [decodeMajor9, ext_lo, ext_hi, ext_self, Nat.reduceSub]

theorem uctz (d : BitVec 7) (a : BitVec 7) : Statement (.uctz d a) := by
  intro _ _
  have hk : major (1240#11 ++ d ++ a ++ 0#7) = 155 := by
    simp (disch := decide) only [major, ext_hi, Nat.reduceSub]
    rfl
  have hb : (1240#11 ++ d ++ a ++ 0#7) &&& (7#11 ++ 0#7 ++ 0#7 ++ 127#7) = 0#11 ++ 0#7 ++ 0#7 ++ 0#7 := by
    simp only [append_mask, mask_none]
    rfl
  refine ⟨?_, fun _ h => absurd (hk.symm.trans h) (by decide)⟩
  refine (decodeOne_of_row _ _ hk (by decide) hb rfl).trans ?_
  unfold decodeFields
  rw [hk]
  show decodeMajor9 11 (1240#11 ++ d ++ a ++ 0#7) none = _
  simp (disch := decide) only [decodeMajor9, ext_lo, ext_hi, ext_self, Nat.reduceSub]

theorem ubfx (s : BitVec 1) (d : BitVec 7) (a : BitVec 7) (b : BitVec 7) : Statement (.ubfx s d a b) := by
  intro _ _
  have hk : major (628#10 ++ s ++ d ++ a ++ b) = 157 := by
    simp (disch := decide) only [major, ext_hi, Nat.reduceSub]
    rfl
  have hb : (628#10 ++ s ++ d ++ a ++ b) &&& (3#10 ++ 0#1 ++ 0#7 ++ 0#7 ++ 0#7) = 0#10 ++ 0#1 ++ 0#7 ++ 0#7 ++ 0#7 := by
    simp only [append_mask, mask_none]
    rfl
  refine ⟨?_, fun _ h => absurd (hk.symm.trans h) (by decide)⟩
  refine (decodeOne_of_row _ _ hk (by decide) hb rfl).trans ?_
  unfold decodeFields
  rw [hk]
  show decodeMajor9 13 (628#10 ++ s ++ d ++ a ++ b) none = _
  simp (disch := decide) only [decodeMajor9, ext_lo, ext_hi, ext_self, Nat.reduceSub]

theorem usel (d : BitVec 7) (a : BitVec 7) (b : BitVec 7) (x : Option (BitVec 24)) : Statement (.usel d a b x) := by
  intro _ hw
  have hk : major (1272#11 ++ d ++ a ++ b) = 159 := by
    simp (disch := decide) only [major, ext_hi, Nat.reduceSub]
    rfl
  have hb : (1272#11 ++ d ++ a ++ b) &&& (7#11 ++ 0#7 ++ 0#7 ++ 0#7) = 0#11 ++ 0#7 ++ 0#7 ++ 0#7 := by
    simp only [append_mask, mask_none]
    rfl
  refine ⟨?_, fun _ h => absurd (hk.symm.trans h) (by decide)⟩
  refine (decodeOne_of_row _ _ hk (by decide) hb hw).trans ?_
  unfold decodeFields
  rw [hk]
  show decodeMajor9 15 (1272#11 ++ d ++ a ++ b) x = _
  simp (disch := decide) only [decodeMajor9, ext_lo, ext_hi, ext_self, Nat.reduceSub]

theorem uaddi (d : BitVec 7) (a : BitVec 7) (i : BitVec 10) (x : Option (BitVec 24)) : Statement (.uaddi d a i x) := by
  intro _ hw
  have hk : major (160#8 ++ d ++ a ++ i) = 160 := by
    simp (disch := decide) only [major, ext_hi, ext_self, Nat.reduceSub]
    rfl
  have hb : (160#8 ++ d ++ a ++ i) &&& (0#8 ++ 0#7 ++ 0#7 ++ 0#10) = 0#8 ++ 0#7 ++ 0#7 ++ 0#10 := by
    simp only [append_mask, mask_none]
  refine ⟨?_, fun _ h => absurd (hk.symm.trans h) (by decide)⟩
  refine (decodeOne_of_row _ _ hk (by decide) hb hw).trans ?_
  unfold decodeFields
  rw [hk]
  show decodeMajorA 0 (160#8 ++ d ++ a ++ i) x = _
  simp (disch := decide) only [decodeMajorA, ext_lo, ext_hi, ext_self, Nat.reduceSub]

theorem uandi (d : BitVec 7) (a : BitVec 7) (i : BitVec 10) (x : Option (BitVec 24)) : Statement (.uandi d a i x) := by
  intro _ hw
  have hk : major (161#8 ++ d ++ a ++ i) = 161 := by
    simp (disch := decide) only [major, ext_hi, ext_self, Nat.reduceSub]
    rfl
  have hb : (161#8 ++ d ++ a ++ i) &&& (0#8 ++ 0#7 ++ 0#7 ++ 0#10) = 0#8 ++ 0#7 ++ 0#7 ++ 0#10 := by
    simp only [append_mask, mask_none]
  refine ⟨?_, fun _ h => absurd (hk.symm.trans h) (by decide)⟩
  refine (decodeOne_of_row _ _ hk (by decide) hb hw).trans ?_
  unfold decodeFields
  rw [hk]
  show decodeMajorA 1 (161#8 ++ d ++ a ++ i) x = _
  simp (disch := decide) only [decodeMajorA, ext_lo, ext_hi, ext_self, Nat.reduceSub]

theorem uori (d : BitVec 7) (a : BitVec 7) (i : BitVec 10) (x : Option (BitVec 24)) : Statement (.uori d a i x) := by
  intro _ hw
  have hk : major (162#8 ++ d ++ a ++ i) = 162 := by
    simp (disch := decide) only [major, ext_hi, ext_self, Nat.reduceSub]
    rfl
  have hb : (162#8 ++ d ++ a ++ i) &&& (0#8 ++ 0#7 ++ 0#7 ++ 0#10) = 0#8 ++ 0#7 ++ 0#7 ++ 0#10 := by
    simp only [append_mask, mask_none]
  refine ⟨?_, fun _ h => absurd (hk.symm.trans h) (by decide)⟩
  refine (decodeOne_of_row _ _ hk (by decide) hb hw).trans ?_
  unfold decodeFields
  rw [hk]
  show decodeMajorA 2 (162#8 ++ d ++ a ++ i) x = _
  simp (disch := decide) only [decodeMajorA, ext_lo, ext_hi, ext_self, Nat.reduceSub]

theorem ushli (d : BitVec 7) (a : BitVec 7) (i : BitVec 5) : Statement (.ushli d a i) := by
  intro _ _
  have hk : major (164#8 ++ d ++ a ++ 0#5 ++ i) = 164 := by
    simp (disch := decide) only [major, ext_hi, ext_self, Nat.reduceSub]
    rfl
  have hb : (164#8 ++ d ++ a ++ 0#5 ++ i) &&& (0#8 ++ 0#7 ++ 0#7 ++ 31#5 ++ 0#5) = 0#8 ++ 0#7 ++ 0#7 ++ 0#5 ++ 0#5 := by
    simp only [append_mask, mask_none]
    rfl
  refine ⟨?_, fun _ h => absurd (hk.symm.trans h) (by decide)⟩
  refine (decodeOne_of_row _ _ hk (by decide) hb rfl).trans ?_
  unfold decodeFields
  rw [hk]
  show decodeMajorA 4 (164#8 ++ d ++ a ++ 0#5 ++ i) none = _
  simp (disch := decide) only [decodeMajorA, ext_lo, ext_hi, ext_self, Nat.reduceSub]

theorem ushri (d : BitVec 7) (a : BitVec 7) (i : BitVec 5) : Statement (.ushri d a i) := by
  intro _ _
  have hk : major (165#8 ++ d ++ a ++ 0#5 ++ i) = 165 := by
    simp (disch := decide) only [major, ext_hi, ext_self, Nat.reduceSub]
    rfl
  have hb : (165#8 ++ d ++ a ++ 0#5 ++ i) &&& (0#8 ++ 0#7 ++ 0#7 ++ 31#5 ++ 0#5) = 0#8 ++ 0#7 ++ 0#7 ++ 0#5 ++ 0#5 := by
    simp only [append_mask, mask_none]
    rfl
  refine ⟨?_, fun _ h => absurd (hk.symm.trans h) (by decide)⟩
  refine (decodeOne_of_row _ _ hk (by decide) hb rfl).trans ?_
  unfold decodeFields
  rw [hk]
  show decodeMajorA 5 (165#8 ++ d ++ a ++ 0#5 ++ i) none = _
  simp (disch := decide) only [decodeMajorA, ext_lo, ext_hi, ext_self, Nat.reduceSub]

theorem usari (d : BitVec 7) (a : BitVec 7) (i : BitVec 5) : Statement (.usari d a i) := by
  intro _ _
  have hk : major (166#8 ++ d ++ a ++ 0#5 ++ i) = 166 := by
    simp (disch := decide) only [major, ext_hi, ext_self, Nat.reduceSub]
    rfl
  have hb : (166#8 ++ d ++ a ++ 0#5 ++ i) &&& (0#8 ++ 0#7 ++ 0#7 ++ 31#5 ++ 0#5) = 0#8 ++ 0#7 ++ 0#7 ++ 0#5 ++ 0#5 := by
    simp only [append_mask, mask_none]
    rfl
  refine ⟨?_, fun _ h => absurd (hk.symm.trans h) (by decide)⟩
  refine (decodeOne_of_row _ _ hk (by decide) hb rfl).trans ?_
  unfold decodeFields
  rw [hk]
  show decodeMajorA 6 (166#8 ++ d ++ a ++ 0#5 ++ i) none = _
  simp (disch := decide) only [decodeMajorA, ext_lo, ext_hi, ext_self, Nat.reduceSub]

theorem li (d : BitVec 7) (i : BitVec 17) (x : Option (BitVec 24)) : Statement (.li d i x) := by
  intro _ hw
  have hk : major (168#8 ++ d ++ i) = 168 := by
    simp (disch := decide) only [major, ext_hi, ext_self, Nat.reduceSub]
    rfl
  have hb : (168#8 ++ d ++ i) &&& (0#8 ++ 0#7 ++ 0#17) = 0#8 ++ 0#7 ++ 0#17 := by
    simp only [append_mask, mask_none]
  refine ⟨?_, fun _ h => absurd (hk.symm.trans h) (by decide)⟩
  refine (decodeOne_of_row _ _ hk (by decide) hb hw).trans ?_
  unfold decodeFields
  rw [hk]
  show decodeMajorA 8 (168#8 ++ d ++ i) x = _
  simp (disch := decide) only [decodeMajorA, ext_lo, ext_hi, ext_self, Nat.reduceSub]

theorem ufaddF32 (m : BitVec 3) (d : BitVec 7) (a : BitVec 7) (b : BitVec 7) : Statement (.ufaddF32 m d a b) := by
  intro _ _
  have hk : major (169#8 ++ m ++ d ++ a ++ b) = 169 := by
    simp (disch := decide) only [major, ext_hi, ext_self, Nat.reduceSub]
    rfl
  have hb : (169#8 ++ m ++ d ++ a ++ b) &&& (0#8 ++ 0#3 ++ 0#7 ++ 0#7 ++ 0#7) = 0#8 ++ 0#3 ++ 0#7 ++ 0#7 ++ 0#7 := by
    simp only [append_mask, mask_none]
  refine ⟨?_, fun _ h => absurd (hk.symm.trans h) (by decide)⟩
  refine (decodeOne_of_row _ _ hk (by decide) hb rfl).trans ?_
  unfold decodeFields
  rw [hk]
  show decodeMajorA 9 (169#8 ++ m ++ d ++ a ++ b) none = _
  simp (disch := decide) only [decodeMajorA, ext_lo, ext_hi, ext_self, Nat.reduceSub]

theorem ufmulF32 (m : BitVec 3) (d : BitVec 7) (a : BitVec 7) (b : BitVec 7) : Statement (.ufmulF32 m d a b) := by
  intro _ _
  have hk : major (170#8 ++ m ++ d ++ a ++ b) = 170 := by
    simp (disch := decide) only [major, ext_hi, ext_self, Nat.reduceSub]
    rfl
  have hb : (170#8 ++ m ++ d ++ a ++ b) &&& (0#8 ++ 0#3 ++ 0#7 ++ 0#7 ++ 0#7) = 0#8 ++ 0#3 ++ 0#7 ++ 0#7 ++ 0#7 := by
    simp only [append_mask, mask_none]
  refine ⟨?_, fun _ h => absurd (hk.symm.trans h) (by decide)⟩
  refine (decodeOne_of_row _ _ hk (by decide) hb rfl).trans ?_
  unfold decodeFields
  rw [hk]
  show decodeMajorA 10 (170#8 ++ m ++ d ++ a ++ b) none = _
  simp (disch := decide) only [decodeMajorA, ext_lo, ext_hi, ext_self, Nat.reduceSub]

theorem ufmacF32 (m : BitVec 3) (d : BitVec 7) (a : BitVec 7) (b : BitVec 7) : Statement (.ufmacF32 m d a b) := by
  intro _ _
  have hk : major (171#8 ++ m ++ d ++ a ++ b) = 171 := by
    simp (disch := decide) only [major, ext_hi, ext_self, Nat.reduceSub]
    rfl
  have hb : (171#8 ++ m ++ d ++ a ++ b) &&& (0#8 ++ 0#3 ++ 0#7 ++ 0#7 ++ 0#7) = 0#8 ++ 0#3 ++ 0#7 ++ 0#7 ++ 0#7 := by
    simp only [append_mask, mask_none]
  refine ⟨?_, fun _ h => absurd (hk.symm.trans h) (by decide)⟩
  refine (decodeOne_of_row _ _ hk (by decide) hb rfl).trans ?_
  unfold decodeFields
  rw [hk]
  show decodeMajorA 11 (171#8 ++ m ++ d ++ a ++ b) none = _
  simp (disch := decide) only [decodeMajorA, ext_lo, ext_hi, ext_self, Nat.reduceSub]

theorem ucmpF32 (m : BitVec 3) (d : BitVec 7) (a : BitVec 7) (b : BitVec 7) : Statement (.ucmpF32 m d a b) := by
  intro _ _
  have hk : major (172#8 ++ m ++ d ++ a ++ b) = 172 := by
    simp (disch := decide) only [major, ext_hi, ext_self, Nat.reduceSub]
    rfl
  have hb : (172#8 ++ m ++ d ++ a ++ b) &&& (0#8 ++ 0#3 ++ 0#7 ++ 0#7 ++ 0#7) = 0#8 ++ 0#3 ++ 0#7 ++ 0#7 ++ 0#7 := by
    simp only [append_mask, mask_none]
  refine ⟨?_, fun _ h => absurd (hk.symm.trans h) (by decide)⟩
  refine (decodeOne_of_row _ _ hk (by decide) hb rfl).trans ?_
  unfold decodeFields
  rw [hk]
  show decodeMajorA 12 (172#8 ++ m ++ d ++ a ++ b) none = _
  simp (disch := decide) only [decodeMajorA, ext_lo, ext_hi, ext_self, Nat.reduceSub]

theorem ucvtToFloat (m : BitVec 3) (d : BitVec 7) (a : BitVec 7) (s : BitVec 4) (t : BitVec 2) : Statement (.ucvtToFloat m d a s t) := by
  intro _ _
  have hk : major (173#8 ++ m ++ d ++ a ++ s ++ 0#1 ++ t) = 173 := by
    simp (disch := decide) only [major, ext_hi, ext_self, Nat.reduceSub]
    rfl
  have hb : (173#8 ++ m ++ d ++ a ++ s ++ 0#1 ++ t) &&& (0#8 ++ 0#3 ++ 0#7 ++ 0#7 ++ 0#4 ++ 1#1 ++ 0#2) = 0#8 ++ 0#3 ++ 0#7 ++ 0#7 ++ 0#4 ++ 0#1 ++ 0#2 := by
    simp only [append_mask, mask_none]
    rfl
  refine ⟨?_, fun _ h => absurd (hk.symm.trans h) (by decide)⟩
  refine (decodeOne_of_row _ _ hk (by decide) hb rfl).trans ?_
  unfold decodeFields
  rw [hk]
  show decodeMajorA 13 (173#8 ++ m ++ d ++ a ++ s ++ 0#1 ++ t) none = _
  simp (disch := decide) only [decodeMajorA, ext_lo, ext_hi, ext_self, Nat.reduceSub]

theorem ucvtToInteger (m : BitVec 3) (d : BitVec 7) (a : BitVec 7) (s : BitVec 4) (t : BitVec 3) : Statement (.ucvtToInteger m d a s t) := by
  intro _ _
  have hk : major (174#8 ++ m ++ d ++ a ++ s ++ t) = 174 := by
    simp (disch := decide) only [major, ext_hi, ext_self, Nat.reduceSub]
    rfl
  have hb : (174#8 ++ m ++ d ++ a ++ s ++ t) &&& (0#8 ++ 0#3 ++ 0#7 ++ 0#7 ++ 0#4 ++ 0#3) = 0#8 ++ 0#3 ++ 0#7 ++ 0#7 ++ 0#4 ++ 0#3 := by
    simp only [append_mask, mask_none]
  refine ⟨?_, fun _ h => absurd (hk.symm.trans h) (by decide)⟩
  refine (decodeOne_of_row _ _ hk (by decide) hb rfl).trans ?_
  unfold decodeFields
  rw [hk]
  show decodeMajorA 14 (174#8 ++ m ++ d ++ a ++ s ++ t) none = _
  simp (disch := decide) only [decodeMajorA, ext_lo, ext_hi, ext_self, Nat.reduceSub]

theorem prep (n : BitVec 3) (o : BitVec 21) (x : Option (BitVec 24)) : Statement (.prep n o x) := by
  intro _ hw
  have hk : major (176#8 ++ n ++ o) = 176 := by
    simp (disch := decide) only [major, ext_hi, ext_self, Nat.reduceSub]
    rfl
  have hb : (176#8 ++ n ++ o) &&& (0#8 ++ 0#3 ++ 0#21) = 0#8 ++ 0#3 ++ 0#21 := by
    simp only [append_mask, mask_none]
  refine ⟨?_, fun _ h => absurd (hk.symm.trans h) (by decide)⟩
  refine (decodeOne_of_row _ _ hk (by decide) hb hw).trans ?_
  unfold decodeFields
  rw [hk]
  show decodeMajorB 0 (176#8 ++ n ++ o) x = _
  simp (disch := decide) only [decodeMajorB, ext_lo, ext_hi, ext_self, Nat.reduceSub]

theorem prepv (n : BitVec 3) (c : BitVec 7) : Statement (.prepv n c) := by
  intro _ _
  have hk : major (177#8 ++ n ++ 0#3 ++ c ++ 0#11) = 177 := by
    simp (disch := decide) only [major, ext_hi, ext_self, Nat.reduceSub]
    rfl
  have hb : (177#8 ++ n ++ 0#3 ++ c ++ 0#11) &&& (0#8 ++ 0#3 ++ 7#3 ++ 0#7 ++ 2047#11) = 0#8 ++ 0#3 ++ 0#3 ++ 0#7 ++ 0#11 := by
    simp only [append_mask, mask_none]
    rfl
  refine ⟨?_, fun _ h => absurd (hk.symm.trans h) (by decide)⟩
  refine (decodeOne_of_row _ _ hk (by decide) hb rfl).trans ?_
  unfold decodeFields
  rw [hk]
  show decodeMajorB 1 (177#8 ++ n ++ 0#3 ++ c ++ 0#11) none = _
  simp (disch := decide) only [decodeMajorB, ext_lo, ext_hi, ext_self, Nat.reduceSub]

theorem br (n : BitVec 3) : Statement (.br n) := by
  intro _ _
  have hk : major (178#8 ++ n ++ 0#21) = 178 := by
    simp (disch := decide) only [major, ext_hi, ext_self, Nat.reduceSub]
    rfl
  have hb : (178#8 ++ n ++ 0#21) &&& (0#8 ++ 0#3 ++ 2097151#21) = 0#8 ++ 0#3 ++ 0#21 := by
    simp only [append_mask, mask_none]
    rfl
  refine ⟨?_, fun _ h => absurd (hk.symm.trans h) (by decide)⟩
  refine (decodeOne_of_row _ _ hk (by decide) hb rfl).trans ?_
  unfold decodeFields
  rw [hk]
  show decodeMajorB 2 (178#8 ++ n ++ 0#21) none = _
  simp (disch := decide) only [decodeMajorB, ext_lo, ext_hi, ext_self, Nat.reduceSub]

theorem brt (n : BitVec 3) (c : BitVec 7) : Statement (.brt n c) := by
  intro _ _
  have hk : major (179#8 ++ n ++ 0#3 ++ c ++ 0#11) = 179 := by
    simp (disch := decide) only [major, ext_hi, ext_self, Nat.reduceSub]
    rfl
  have hb : (179#8 ++ n ++ 0#3 ++ c ++ 0#11) &&& (0#8 ++ 0#3 ++ 7#3 ++ 0#7 ++ 2047#11) = 0#8 ++ 0#3 ++ 0#3 ++ 0#7 ++ 0#11 := by
    simp only [append_mask, mask_none]
    rfl
  refine ⟨?_, fun _ h => absurd (hk.symm.trans h) (by decide)⟩
  refine (decodeOne_of_row _ _ hk (by decide) hb rfl).trans ?_
  unfold decodeFields
  rw [hk]
  show decodeMajorB 3 (179#8 ++ n ++ 0#3 ++ c ++ 0#11) none = _
  simp (disch := decide) only [decodeMajorB, ext_lo, ext_hi, ext_self, Nat.reduceSub]

theorem brf (n : BitVec 3) (c : BitVec 7) : Statement (.brf n c) := by
  intro _ _
  have hk : major (180#8 ++ n ++ 0#3 ++ c ++ 0#11) = 180 := by
    simp (disch := decide) only [major, ext_hi, ext_self, Nat.reduceSub]
    rfl
  have hb : (180#8 ++ n ++ 0#3 ++ c ++ 0#11) &&& (0#8 ++ 0#3 ++ 7#3 ++ 0#7 ++ 2047#11) = 0#8 ++ 0#3 ++ 0#3 ++ 0#7 ++ 0#11 := by
    simp only [append_mask, mask_none]
    rfl
  refine ⟨?_, fun _ h => absurd (hk.symm.trans h) (by decide)⟩
  refine (decodeOne_of_row _ _ hk (by decide) hb rfl).trans ?_
  unfold decodeFields
  rw [hk]
  show decodeMajorB 4 (180#8 ++ n ++ 0#3 ++ c ++ 0#11) none = _
  simp (disch := decide) only [decodeMajorB, ext_lo, ext_hi, ext_self, Nat.reduceSub]

theorem brnone (n : BitVec 3) : Statement (.brnone n) := by
  intro _ _
  have hk : major (181#8 ++ n ++ 0#21) = 181 := by
    simp (disch := decide) only [major, ext_hi, ext_self, Nat.reduceSub]
    rfl
  have hb : (181#8 ++ n ++ 0#21) &&& (0#8 ++ 0#3 ++ 2097151#21) = 0#8 ++ 0#3 ++ 0#21 := by
    simp only [append_mask, mask_none]
    rfl
  refine ⟨?_, fun _ h => absurd (hk.symm.trans h) (by decide)⟩
  refine (decodeOne_of_row _ _ hk (by decide) hb rfl).trans ?_
  unfold decodeFields
  rw [hk]
  show decodeMajorB 5 (181#8 ++ n ++ 0#21) none = _
  simp (disch := decide) only [decodeMajorB, ext_lo, ext_hi, ext_self, Nat.reduceSub]

theorem brany (n : BitVec 3) : Statement (.brany n) := by
  intro _ _
  have hk : major (182#8 ++ n ++ 0#21) = 182 := by
    simp (disch := decide) only [major, ext_hi, ext_self, Nat.reduceSub]
    rfl
  have hb : (182#8 ++ n ++ 0#21) &&& (0#8 ++ 0#3 ++ 2097151#21) = 0#8 ++ 0#3 ++ 0#21 := by
    simp only [append_mask, mask_none]
    rfl
  refine ⟨?_, fun _ h => absurd (hk.symm.trans h) (by decide)⟩
  refine (decodeOne_of_row _ _ hk (by decide) hb rfl).trans ?_
  unfold decodeFields
  rw [hk]
  show decodeMajorB 6 (182#8 ++ n ++ 0#21) none = _
  simp (disch := decide) only [decodeMajorB, ext_lo, ext_hi, ext_self, Nat.reduceSub]

theorem call (n : BitVec 3) (m : BitVec 3) : Statement (.call n m) := by
  intro _ _
  have hk : major (183#8 ++ n ++ m ++ 0#18) = 183 := by
    simp (disch := decide) only [major, ext_hi, ext_self, Nat.reduceSub]
    rfl
  have hb : (183#8 ++ n ++ m ++ 0#18) &&& (0#8 ++ 0#3 ++ 0#3 ++ 262143#18) = 0#8 ++ 0#3 ++ 0#3 ++ 0#18 := by
    simp only [append_mask, mask_none]
    rfl
  refine ⟨?_, fun _ h => absurd (hk.symm.trans h) (by decide)⟩
  refine (decodeOne_of_row _ _ hk (by decide) hb rfl).trans ?_
  unfold decodeFields
  rw [hk]
  show decodeMajorB 7 (183#8 ++ n ++ m ++ 0#18) none = _
  simp (disch := decide) only [decodeMajorB, ext_lo, ext_hi, ext_self, Nat.reduceSub]

theorem bloop (n : BitVec 3) (c : BitVec 7) : Statement (.bloop n c) := by
  intro _ _
  have hk : major (184#8 ++ n ++ 0#3 ++ c ++ 0#11) = 184 := by
    simp (disch := decide) only [major, ext_hi, ext_self, Nat.reduceSub]
    rfl
  have hb : (184#8 ++ n ++ 0#3 ++ c ++ 0#11) &&& (0#8 ++ 0#3 ++ 7#3 ++ 0#7 ++ 2047#11) = 0#8 ++ 0#3 ++ 0#3 ++ 0#7 ++ 0#11 := by
    simp only [append_mask, mask_none]
    rfl
  refine ⟨?_, fun _ h => absurd (hk.symm.trans h) (by decide)⟩
  refine (decodeOne_of_row _ _ hk (by decide) hb rfl).trans ?_
  unfold decodeFields
  rw [hk]
  show decodeMajorB 8 (184#8 ++ n ++ 0#3 ++ c ++ 0#11) none = _
  simp (disch := decide) only [decodeMajorB, ext_lo, ext_hi, ext_self, Nat.reduceSub]

theorem binv (n : BitVec 3) : Statement (.binv n) := by
  intro _ _
  have hk : major (185#8 ++ n ++ 0#21) = 185 := by
    simp (disch := decide) only [major, ext_hi, ext_self, Nat.reduceSub]
    rfl
  have hb : (185#8 ++ n ++ 0#21) &&& (0#8 ++ 0#3 ++ 2097151#21) = 0#8 ++ 0#3 ++ 0#21 := by
    simp only [append_mask, mask_none]
    rfl
  refine ⟨?_, fun _ h => absurd (hk.symm.trans h) (by decide)⟩
  refine (decodeOne_of_row _ _ hk (by decide) hb rfl).trans ?_
  unfold decodeFields
  rw [hk]
  show decodeMajorB 9 (185#8 ++ n ++ 0#21) none = _
  simp (disch := decide) only [decodeMajorB, ext_lo, ext_hi, ext_self, Nat.reduceSub]

theorem bmov (n : BitVec 3) (m : BitVec 3) : Statement (.bmov n m) := by
  intro _ _
  have hk : major (186#8 ++ n ++ m ++ 0#18) = 186 := by
    simp (disch := decide) only [major, ext_hi, ext_self, Nat.reduceSub]
    rfl
  have hb : (186#8 ++ n ++ m ++ 0#18) &&& (0#8 ++ 0#3 ++ 0#3 ++ 262143#18) = 0#8 ++ 0#3 ++ 0#3 ++ 0#18 := by
    simp only [append_mask, mask_none]
    rfl
  refine ⟨?_, fun _ h => absurd (hk.symm.trans h) (by decide)⟩
  refine (decodeOne_of_row _ _ hk (by decide) hb rfl).trans ?_
  unfold decodeFields
  rw [hk]
  show decodeMajorB 10 (186#8 ++ n ++ m ++ 0#18) none = _
  simp (disch := decide) only [decodeMajorB, ext_lo, ext_hi, ext_self, Nat.reduceSub]

theorem brd (n : BitVec 3) (c : BitVec 7) : Statement (.brd n c) := by
  intro _ _
  have hk : major (187#8 ++ n ++ 0#3 ++ c ++ 0#11) = 187 := by
    simp (disch := decide) only [major, ext_hi, ext_self, Nat.reduceSub]
    rfl
  have hb : (187#8 ++ n ++ 0#3 ++ c ++ 0#11) &&& (0#8 ++ 0#3 ++ 7#3 ++ 0#7 ++ 2047#11) = 0#8 ++ 0#3 ++ 0#3 ++ 0#7 ++ 0#11 := by
    simp only [append_mask, mask_none]
    rfl
  refine ⟨?_, fun _ h => absurd (hk.symm.trans h) (by decide)⟩
  refine (decodeOne_of_row _ _ hk (by decide) hb rfl).trans ?_
  unfold decodeFields
  rw [hk]
  show decodeMajorB 11 (187#8 ++ n ++ 0#3 ++ c ++ 0#11) none = _
  simp (disch := decide) only [decodeMajorB, ext_lo, ext_hi, ext_self, Nat.reduceSub]

theorem isync : Statement (.isync) := fun _ _ => ⟨by decide, fun _ => by decide⟩

theorem lexit : Statement (.lexit) := fun _ _ => ⟨by decide, fun _ => by decide⟩

theorem exit : Statement (.exit) := fun _ _ => ⟨by decide, fun _ => by decide⟩

theorem nop : Statement (.nop) := fun _ _ => ⟨by decide, fun _ => by decide⟩

theorem msave (d : BitVec 7) : Statement (.msave d) := by
  intro _ _
  have hk : major (1536#11 ++ d ++ 0#14) = 192 := by
    simp (disch := decide) only [major, ext_hi, Nat.reduceSub]
    rfl
  have hb : (1536#11 ++ d ++ 0#14) &&& (7#11 ++ 0#7 ++ 16383#14) = 0#11 ++ 0#7 ++ 0#14 := by
    simp only [append_mask, mask_none]
    rfl
  refine ⟨?_, fun _ h => absurd (hk.symm.trans h) (by decide)⟩
  refine (decodeOne_of_row _ _ hk (by decide) hb rfl).trans ?_
  unfold decodeFields
  rw [hk]
  show decodeMajorC 0 (1536#11 ++ d ++ 0#14) = _
  simp (disch := decide) only [decodeMajorC, ext_lo, ext_hi, ext_self, Nat.reduceSub]

theorem mload (a : BitVec 7) : Statement (.mload a) := by
  intro _ _
  have hk : major (197632#18 ++ a ++ 0#7) = 193 := by
    simp (disch := decide) only [major, ext_hi, Nat.reduceSub]
    rfl
  have hb : (197632#18 ++ a ++ 0#7) &&& (1023#18 ++ 0#7 ++ 127#7) = 0#18 ++ 0#7 ++ 0#7 := by
    simp only [append_mask, mask_none]
    rfl
  refine ⟨?_, fun _ h => absurd (hk.symm.trans h) (by decide)⟩
  refine (decodeOne_of_row _ _ hk (by decide) hb rfl).trans ?_
  unfold decodeFields
  rw [hk]
  show decodeMajorC 1 (197632#18 ++ a ++ 0#7) = _
  simp (disch := decide) only [decodeMajorC, ext_lo, ext_hi, ext_self, Nat.reduceSub]

theorem mand (d : BitVec 7) (a : BitVec 7) (b : BitVec 7) : Statement (.mand d a b) := by
  intro _ _
  have hk : major (1552#11 ++ d ++ a ++ b) = 194 := by
    simp (disch := decide) only [major, ext_hi, Nat.reduceSub]
    rfl
  have hb : (1552#11 ++ d ++ a ++ b) &&& (7#11 ++ 0#7 ++ 0#7 ++ 0#7) = 0#11 ++ 0#7 ++ 0#7 ++ 0#7 := by
    simp only [append_mask, mask_none]
    rfl
  refine ⟨?_, fun _ h => absurd (hk.symm.trans h) (by decide)⟩
  refine (decodeOne_of_row _ _ hk (by decide) hb rfl).trans ?_
  unfold decodeFields
  rw [hk]
  show decodeMajorC 2 (1552#11 ++ d ++ a ++ b) = _
  simp (disch := decide) only [decodeMajorC, ext_lo, ext_hi, ext_self, Nat.reduceSub]

theorem mandn (d : BitVec 7) (a : BitVec 7) (b : BitVec 7) : Statement (.mandn d a b) := by
  intro _ _
  have hk : major (1560#11 ++ d ++ a ++ b) = 195 := by
    simp (disch := decide) only [major, ext_hi, Nat.reduceSub]
    rfl
  have hb : (1560#11 ++ d ++ a ++ b) &&& (7#11 ++ 0#7 ++ 0#7 ++ 0#7) = 0#11 ++ 0#7 ++ 0#7 ++ 0#7 := by
    simp only [append_mask, mask_none]
    rfl
  refine ⟨?_, fun _ h => absurd (hk.symm.trans h) (by decide)⟩
  refine (decodeOne_of_row _ _ hk (by decide) hb rfl).trans ?_
  unfold decodeFields
  rw [hk]
  show decodeMajorC 3 (1560#11 ++ d ++ a ++ b) = _
  simp (disch := decide) only [decodeMajorC, ext_lo, ext_hi, ext_self, Nat.reduceSub]

theorem mor (d : BitVec 7) (a : BitVec 7) (b : BitVec 7) : Statement (.mor d a b) := by
  intro _ _
  have hk : major (1568#11 ++ d ++ a ++ b) = 196 := by
    simp (disch := decide) only [major, ext_hi, Nat.reduceSub]
    rfl
  have hb : (1568#11 ++ d ++ a ++ b) &&& (7#11 ++ 0#7 ++ 0#7 ++ 0#7) = 0#11 ++ 0#7 ++ 0#7 ++ 0#7 := by
    simp only [append_mask, mask_none]
    rfl
  refine ⟨?_, fun _ h => absurd (hk.symm.trans h) (by decide)⟩
  refine (decodeOne_of_row _ _ hk (by decide) hb rfl).trans ?_
  unfold decodeFields
  rw [hk]
  show decodeMajorC 4 (1568#11 ++ d ++ a ++ b) = _
  simp (disch := decide) only [decodeMajorC, ext_lo, ext_hi, ext_self, Nat.reduceSub]

theorem mrestore (a : BitVec 7) : Statement (.mrestore a) := by
  intro _ _
  have hk : major (201728#18 ++ a ++ 0#7) = 197 := by
    simp (disch := decide) only [major, ext_hi, Nat.reduceSub]
    rfl
  have hb : (201728#18 ++ a ++ 0#7) &&& (1023#18 ++ 0#7 ++ 127#7) = 0#18 ++ 0#7 ++ 0#7 := by
    simp only [append_mask, mask_none]
    rfl
  refine ⟨?_, fun _ h => absurd (hk.symm.trans h) (by decide)⟩
  refine (decodeOne_of_row _ _ hk (by decide) hb rfl).trans ?_
  unfold decodeFields
  rw [hk]
  show decodeMajorC 5 (201728#18 ++ a ++ 0#7) = _
  simp (disch := decide) only [decodeMajorC, ext_lo, ext_hi, ext_self, Nat.reduceSub]

theorem mall (d : BitVec 7) : Statement (.mall d) := by
  intro _ _
  have hk : major (1584#11 ++ d ++ 0#14) = 198 := by
    simp (disch := decide) only [major, ext_hi, Nat.reduceSub]
    rfl
  have hb : (1584#11 ++ d ++ 0#14) &&& (7#11 ++ 0#7 ++ 16383#14) = 0#11 ++ 0#7 ++ 0#14 := by
    simp only [append_mask, mask_none]
    rfl
  refine ⟨?_, fun _ h => absurd (hk.symm.trans h) (by decide)⟩
  refine (decodeOne_of_row _ _ hk (by decide) hb rfl).trans ?_
  unfold decodeFields
  rw [hk]
  show decodeMajorC 6 (1584#11 ++ d ++ 0#14) = _
  simp (disch := decide) only [decodeMajorC, ext_lo, ext_hi, ext_self, Nat.reduceSub]

theorem mcount (d : BitVec 7) (a : BitVec 7) : Statement (.mcount d a) := by
  intro _ _
  have hk : major (1592#11 ++ d ++ a ++ 0#7) = 199 := by
    simp (disch := decide) only [major, ext_hi, Nat.reduceSub]
    rfl
  have hb : (1592#11 ++ d ++ a ++ 0#7) &&& (7#11 ++ 0#7 ++ 0#7 ++ 127#7) = 0#11 ++ 0#7 ++ 0#7 ++ 0#7 := by
    simp only [append_mask, mask_none]
    rfl
  refine ⟨?_, fun _ h => absurd (hk.symm.trans h) (by decide)⟩
  refine (decodeOne_of_row _ _ hk (by decide) hb rfl).trans ?_
  unfold decodeFields
  rw [hk]
  show decodeMajorC 7 (1592#11 ++ d ++ a ++ 0#7) = _
  simp (disch := decide) only [decodeMajorC, ext_lo, ext_hi, ext_self, Nat.reduceSub]

theorem mfirst (d : BitVec 7) (a : BitVec 7) : Statement (.mfirst d a) := by
  intro _ _
  have hk : major (1600#11 ++ d ++ a ++ 0#7) = 200 := by
    simp (disch := decide) only [major, ext_hi, Nat.reduceSub]
    rfl
  have hb : (1600#11 ++ d ++ a ++ 0#7) &&& (7#11 ++ 0#7 ++ 0#7 ++ 127#7) = 0#11 ++ 0#7 ++ 0#7 ++ 0#7 := by
    simp only [append_mask, mask_none]
    rfl
  refine ⟨?_, fun _ h => absurd (hk.symm.trans h) (by decide)⟩
  refine (decodeOne_of_row _ _ hk (by decide) hb rfl).trans ?_
  unfold decodeFields
  rw [hk]
  show decodeMajorC 8 (1600#11 ++ d ++ a ++ 0#7) = _
  simp (disch := decide) only [decodeMajorC, ext_lo, ext_hi, ext_self, Nat.reduceSub]

theorem yield : Statement (.yield) := fun _ _ => ⟨by decide, fun _ => by decide⟩

theorem brk (i : BitVec 10) : Statement (.brk i) := by
  intro _ _
  have hk : major (3309568#22 ++ i) = 202 := by
    simp (disch := decide) only [major, ext_hi, Nat.reduceSub]
    rfl
  have hb : (3309568#22 ++ i) &&& (16383#22 ++ 0#10) = 0#22 ++ 0#10 := by
    simp only [append_mask, mask_none]
    rfl
  refine ⟨?_, fun _ h => absurd (hk.symm.trans h) (by decide)⟩
  refine (decodeOne_of_row _ _ hk (by decide) hb rfl).trans ?_
  unfold decodeFields
  rw [hk]
  show decodeMajorC 10 (3309568#22 ++ i) = _
  simp (disch := decide) only [decodeMajorC, ext_lo, ext_self]

theorem svc (i : BitVec 10) : Statement (.svc i) := by
  intro _ _
  have hk : major (3325952#22 ++ i) = 203 := by
    simp (disch := decide) only [major, ext_hi, Nat.reduceSub]
    rfl
  have hb : (3325952#22 ++ i) &&& (16383#22 ++ 0#10) = 0#22 ++ 0#10 := by
    simp only [append_mask, mask_none]
    rfl
  refine ⟨?_, fun _ h => absurd (hk.symm.trans h) (by decide)⟩
  refine (decodeOne_of_row _ _ hk (by decide) hb rfl).trans ?_
  unfold decodeFields
  rw [hk]
  show decodeMajorC 11 (3325952#22 ++ i) = _
  simp (disch := decide) only [decodeMajorC, ext_lo, ext_self]

theorem rett (a : BitVec 7) : Statement (.rett a) := by
  intro _ _
  have hk : major (208896#18 ++ a ++ 0#7) = 204 := by
    simp (disch := decide) only [major, ext_hi, Nat.reduceSub]
    rfl
  have hb : (208896#18 ++ a ++ 0#7) &&& (1023#18 ++ 0#7 ++ 127#7) = 0#18 ++ 0#7 ++ 0#7 := by
    simp only [append_mask, mask_none]
    rfl
  refine ⟨?_, fun _ h => absurd (hk.symm.trans h) (by decide)⟩
  refine (decodeOne_of_row _ _ hk (by decide) hb rfl).trans ?_
  unfold decodeFields
  rw [hk]
  show decodeMajorC 12 (208896#18 ++ a ++ 0#7) = _
  simp (disch := decide) only [decodeMajorC, ext_lo, ext_hi, ext_self, Nat.reduceSub]

theorem sysr (d : BitVec 7) (n : BitVec 12) : Statement (.sysr d n) := by
  intro _ _
  have hk : major (205#8 ++ d ++ 0#5 ++ n) = 205 := by
    simp (disch := decide) only [major, ext_hi, ext_self, Nat.reduceSub]
    rfl
  have hb : (205#8 ++ d ++ 0#5 ++ n) &&& (0#8 ++ 0#7 ++ 31#5 ++ 0#12) = 0#8 ++ 0#7 ++ 0#5 ++ 0#12 := by
    simp only [append_mask, mask_none]
    rfl
  refine ⟨?_, fun _ h => absurd (hk.symm.trans h) (by decide)⟩
  refine (decodeOne_of_row _ _ hk (by decide) hb rfl).trans ?_
  unfold decodeFields
  rw [hk]
  show decodeMajorC 13 (205#8 ++ d ++ 0#5 ++ n) = _
  simp (disch := decide) only [decodeMajorC, ext_lo, ext_hi, ext_self, Nat.reduceSub]

theorem sysw (d : BitVec 7) (n : BitVec 12) : Statement (.sysw d n) := by
  intro _ _
  have hk : major (206#8 ++ d ++ 0#5 ++ n) = 206 := by
    simp (disch := decide) only [major, ext_hi, ext_self, Nat.reduceSub]
    rfl
  have hb : (206#8 ++ d ++ 0#5 ++ n) &&& (0#8 ++ 0#7 ++ 31#5 ++ 0#12) = 0#8 ++ 0#7 ++ 0#5 ++ 0#12 := by
    simp only [append_mask, mask_none]
    rfl
  refine ⟨?_, fun _ h => absurd (hk.symm.trans h) (by decide)⟩
  refine (decodeOne_of_row _ _ hk (by decide) hb rfl).trans ?_
  unfold decodeFields
  rw [hk]
  show decodeMajorC 14 (206#8 ++ d ++ 0#5 ++ n) = _
  simp (disch := decide) only [decodeMajorC, ext_lo, ext_hi, ext_self, Nat.reduceSub]

theorem wline (d : BitVec 7) (a : BitVec 7) (b : BitVec 7) : Statement (.wline d a b) := by
  intro _ _
  have hk : major (1656#11 ++ d ++ a ++ b) = 207 := by
    simp (disch := decide) only [major, ext_hi, Nat.reduceSub]
    rfl
  have hb : (1656#11 ++ d ++ a ++ b) &&& (7#11 ++ 0#7 ++ 0#7 ++ 0#7) = 0#11 ++ 0#7 ++ 0#7 ++ 0#7 := by
    simp only [append_mask, mask_none]
    rfl
  refine ⟨?_, fun _ h => absurd (hk.symm.trans h) (by decide)⟩
  refine (decodeOne_of_row _ _ hk (by decide) hb rfl).trans ?_
  unfold decodeFields
  rw [hk]
  show decodeMajorC 15 (1656#11 ++ d ++ a ++ b) = _
  simp (disch := decide) only [decodeMajorC, ext_lo, ext_hi, ext_self, Nat.reduceSub]

theorem mmaBf16 (z : BitVec 1) (d : BitVec 7) (a : BitVec 7) (b : BitVec 7) : Statement (.mmaBf16 z d a b) := by
  intro _ _
  have hk : major (832#10 ++ z ++ d ++ a ++ b) = 208 := by
    simp (disch := decide) only [major, ext_hi, Nat.reduceSub]
    rfl
  have hb : (832#10 ++ z ++ d ++ a ++ b) &&& (3#10 ++ 0#1 ++ 0#7 ++ 0#7 ++ 0#7) = 0#10 ++ 0#1 ++ 0#7 ++ 0#7 ++ 0#7 := by
    simp only [append_mask, mask_none]
    rfl
  refine ⟨?_, fun _ h => absurd (hk.symm.trans h) (by decide)⟩
  refine (decodeOne_of_row _ _ hk (by decide) hb rfl).trans ?_
  unfold decodeFields
  rw [hk]
  show decodeMajorD 0 (832#10 ++ z ++ d ++ a ++ b) none = _
  simp (disch := decide) only [decodeMajorD, ext_lo, ext_hi, ext_self, Nat.reduceSub]

theorem mmaF16 (z : BitVec 1) (d : BitVec 7) (a : BitVec 7) (b : BitVec 7) : Statement (.mmaF16 z d a b) := by
  intro _ _
  have hk : major (836#10 ++ z ++ d ++ a ++ b) = 209 := by
    simp (disch := decide) only [major, ext_hi, Nat.reduceSub]
    rfl
  have hb : (836#10 ++ z ++ d ++ a ++ b) &&& (3#10 ++ 0#1 ++ 0#7 ++ 0#7 ++ 0#7) = 0#10 ++ 0#1 ++ 0#7 ++ 0#7 ++ 0#7 := by
    simp only [append_mask, mask_none]
    rfl
  refine ⟨?_, fun _ h => absurd (hk.symm.trans h) (by decide)⟩
  refine (decodeOne_of_row _ _ hk (by decide) hb rfl).trans ?_
  unfold decodeFields
  rw [hk]
  show decodeMajorD 1 (836#10 ++ z ++ d ++ a ++ b) none = _
  simp (disch := decide) only [decodeMajorD, ext_lo, ext_hi, ext_self, Nat.reduceSub]

theorem mmaT8 (z : BitVec 1) (d : BitVec 7) (a : BitVec 7) (b : BitVec 7) : Statement (.mmaT8 z d a b) := by
  intro _ _
  have hk : major (840#10 ++ z ++ d ++ a ++ b) = 210 := by
    simp (disch := decide) only [major, ext_hi, Nat.reduceSub]
    rfl
  have hb : (840#10 ++ z ++ d ++ a ++ b) &&& (3#10 ++ 0#1 ++ 0#7 ++ 0#7 ++ 0#7) = 0#10 ++ 0#1 ++ 0#7 ++ 0#7 ++ 0#7 := by
    simp only [append_mask, mask_none]
    rfl
  refine ⟨?_, fun _ h => absurd (hk.symm.trans h) (by decide)⟩
  refine (decodeOne_of_row _ _ hk (by decide) hb rfl).trans ?_
  unfold decodeFields
  rw [hk]
  show decodeMajorD 2 (840#10 ++ z ++ d ++ a ++ b) none = _
  simp (disch := decide) only [decodeMajorD, ext_lo, ext_hi, ext_self, Nat.reduceSub]

theorem mmaT6 (z : BitVec 1) (d : BitVec 7) (a : BitVec 7) (b : BitVec 7) : Statement (.mmaT6 z d a b) := by
  intro _ _
  have hk : major (844#10 ++ z ++ d ++ a ++ b) = 211 := by
    simp (disch := decide) only [major, ext_hi, Nat.reduceSub]
    rfl
  have hb : (844#10 ++ z ++ d ++ a ++ b) &&& (3#10 ++ 0#1 ++ 0#7 ++ 0#7 ++ 0#7) = 0#10 ++ 0#1 ++ 0#7 ++ 0#7 ++ 0#7 := by
    simp only [append_mask, mask_none]
    rfl
  refine ⟨?_, fun _ h => absurd (hk.symm.trans h) (by decide)⟩
  refine (decodeOne_of_row _ _ hk (by decide) hb rfl).trans ?_
  unfold decodeFields
  rw [hk]
  show decodeMajorD 3 (844#10 ++ z ++ d ++ a ++ b) none = _
  simp (disch := decide) only [decodeMajorD, ext_lo, ext_hi, ext_self, Nat.reduceSub]

theorem mmaI4 (z : BitVec 1) (d : BitVec 7) (a : BitVec 7) (b : BitVec 7) : Statement (.mmaI4 z d a b) := by
  intro _ _
  have hk : major (848#10 ++ z ++ d ++ a ++ b) = 212 := by
    simp (disch := decide) only [major, ext_hi, Nat.reduceSub]
    rfl
  have hb : (848#10 ++ z ++ d ++ a ++ b) &&& (3#10 ++ 0#1 ++ 0#7 ++ 0#7 ++ 0#7) = 0#10 ++ 0#1 ++ 0#7 ++ 0#7 ++ 0#7 := by
    simp only [append_mask, mask_none]
    rfl
  refine ⟨?_, fun _ h => absurd (hk.symm.trans h) (by decide)⟩
  refine (decodeOne_of_row _ _ hk (by decide) hb rfl).trans ?_
  unfold decodeFields
  rw [hk]
  show decodeMajorD 4 (848#10 ++ z ++ d ++ a ++ b) none = _
  simp (disch := decide) only [decodeMajorD, ext_lo, ext_hi, ext_self, Nat.reduceSub]

theorem mmas (n : BitVec 2) (z : BitVec 1) (d : BitVec 7) (a : BitVec 7) (b : BitVec 7) (x : Option (BitVec 24)) : Statement (.mmas n z d a b x) := by
  intro _ hw
  have hk : major (213#8 ++ n ++ z ++ d ++ a ++ b) = 213 := by
    simp (disch := decide) only [major, ext_hi, ext_self, Nat.reduceSub]
    rfl
  have hb : (213#8 ++ n ++ z ++ d ++ a ++ b) &&& (0#8 ++ 0#2 ++ 0#1 ++ 0#7 ++ 0#7 ++ 0#7) = 0#8 ++ 0#2 ++ 0#1 ++ 0#7 ++ 0#7 ++ 0#7 := by
    simp only [append_mask, mask_none]
  refine ⟨?_, fun _ h => absurd (hk.symm.trans h) (by decide)⟩
  refine (decodeOne_of_row _ _ hk (by decide) hb hw).trans ?_
  unfold decodeFields
  rw [hk]
  show decodeMajorD 5 (213#8 ++ n ++ z ++ d ++ a ++ b) x = _
  simp (disch := decide) only [decodeMajorD, ext_lo, ext_hi, ext_self, Nat.reduceSub]

theorem mmaqBf16 (z : BitVec 1) (d : BitVec 7) (a : BitVec 7) (b : BitVec 7) : Statement (.mmaqBf16 z d a b) := by
  intro _ _
  have hk : major (856#10 ++ z ++ d ++ a ++ b) = 214 := by
    simp (disch := decide) only [major, ext_hi, Nat.reduceSub]
    rfl
  have hb : (856#10 ++ z ++ d ++ a ++ b) &&& (3#10 ++ 0#1 ++ 0#7 ++ 0#7 ++ 0#7) = 0#10 ++ 0#1 ++ 0#7 ++ 0#7 ++ 0#7 := by
    simp only [append_mask, mask_none]
    rfl
  refine ⟨?_, fun _ h => absurd (hk.symm.trans h) (by decide)⟩
  refine (decodeOne_of_row _ _ hk (by decide) hb rfl).trans ?_
  unfold decodeFields
  rw [hk]
  show decodeMajorD 6 (856#10 ++ z ++ d ++ a ++ b) none = _
  simp (disch := decide) only [decodeMajorD, ext_lo, ext_hi, ext_self, Nat.reduceSub]

theorem mmaqF16 (z : BitVec 1) (d : BitVec 7) (a : BitVec 7) (b : BitVec 7) : Statement (.mmaqF16 z d a b) := by
  intro _ _
  have hk : major (860#10 ++ z ++ d ++ a ++ b) = 215 := by
    simp (disch := decide) only [major, ext_hi, Nat.reduceSub]
    rfl
  have hb : (860#10 ++ z ++ d ++ a ++ b) &&& (3#10 ++ 0#1 ++ 0#7 ++ 0#7 ++ 0#7) = 0#10 ++ 0#1 ++ 0#7 ++ 0#7 ++ 0#7 := by
    simp only [append_mask, mask_none]
    rfl
  refine ⟨?_, fun _ h => absurd (hk.symm.trans h) (by decide)⟩
  refine (decodeOne_of_row _ _ hk (by decide) hb rfl).trans ?_
  unfold decodeFields
  rw [hk]
  show decodeMajorD 7 (860#10 ++ z ++ d ++ a ++ b) none = _
  simp (disch := decide) only [decodeMajorD, ext_lo, ext_hi, ext_self, Nat.reduceSub]

theorem mmaqT8 (z : BitVec 1) (d : BitVec 7) (a : BitVec 7) (b : BitVec 7) : Statement (.mmaqT8 z d a b) := by
  intro _ _
  have hk : major (864#10 ++ z ++ d ++ a ++ b) = 216 := by
    simp (disch := decide) only [major, ext_hi, Nat.reduceSub]
    rfl
  have hb : (864#10 ++ z ++ d ++ a ++ b) &&& (3#10 ++ 0#1 ++ 0#7 ++ 0#7 ++ 0#7) = 0#10 ++ 0#1 ++ 0#7 ++ 0#7 ++ 0#7 := by
    simp only [append_mask, mask_none]
    rfl
  refine ⟨?_, fun _ h => absurd (hk.symm.trans h) (by decide)⟩
  refine (decodeOne_of_row _ _ hk (by decide) hb rfl).trans ?_
  unfold decodeFields
  rw [hk]
  show decodeMajorD 8 (864#10 ++ z ++ d ++ a ++ b) none = _
  simp (disch := decide) only [decodeMajorD, ext_lo, ext_hi, ext_self, Nat.reduceSub]

theorem mmaqT6 (z : BitVec 1) (d : BitVec 7) (a : BitVec 7) (b : BitVec 7) : Statement (.mmaqT6 z d a b) := by
  intro _ _
  have hk : major (868#10 ++ z ++ d ++ a ++ b) = 217 := by
    simp (disch := decide) only [major, ext_hi, Nat.reduceSub]
    rfl
  have hb : (868#10 ++ z ++ d ++ a ++ b) &&& (3#10 ++ 0#1 ++ 0#7 ++ 0#7 ++ 0#7) = 0#10 ++ 0#1 ++ 0#7 ++ 0#7 ++ 0#7 := by
    simp only [append_mask, mask_none]
    rfl
  refine ⟨?_, fun _ h => absurd (hk.symm.trans h) (by decide)⟩
  refine (decodeOne_of_row _ _ hk (by decide) hb rfl).trans ?_
  unfold decodeFields
  rw [hk]
  show decodeMajorD 9 (868#10 ++ z ++ d ++ a ++ b) none = _
  simp (disch := decide) only [decodeMajorD, ext_lo, ext_hi, ext_self, Nat.reduceSub]

theorem mmaqI4 (z : BitVec 1) (d : BitVec 7) (a : BitVec 7) (b : BitVec 7) : Statement (.mmaqI4 z d a b) := by
  intro _ _
  have hk : major (872#10 ++ z ++ d ++ a ++ b) = 218 := by
    simp (disch := decide) only [major, ext_hi, Nat.reduceSub]
    rfl
  have hb : (872#10 ++ z ++ d ++ a ++ b) &&& (3#10 ++ 0#1 ++ 0#7 ++ 0#7 ++ 0#7) = 0#10 ++ 0#1 ++ 0#7 ++ 0#7 ++ 0#7 := by
    simp only [append_mask, mask_none]
    rfl
  refine ⟨?_, fun _ h => absurd (hk.symm.trans h) (by decide)⟩
  refine (decodeOne_of_row _ _ hk (by decide) hb rfl).trans ?_
  unfold decodeFields
  rw [hk]
  show decodeMajorD 10 (872#10 ++ z ++ d ++ a ++ b) none = _
  simp (disch := decide) only [decodeMajorD, ext_lo, ext_hi, ext_self, Nat.reduceSub]

theorem mmaqs (n : BitVec 2) (z : BitVec 1) (d : BitVec 7) (a : BitVec 7) (b : BitVec 7) (x : Option (BitVec 24)) : Statement (.mmaqs n z d a b x) := by
  intro _ hw
  have hk : major (219#8 ++ n ++ z ++ d ++ a ++ b) = 219 := by
    simp (disch := decide) only [major, ext_hi, ext_self, Nat.reduceSub]
    rfl
  have hb : (219#8 ++ n ++ z ++ d ++ a ++ b) &&& (0#8 ++ 0#2 ++ 0#1 ++ 0#7 ++ 0#7 ++ 0#7) = 0#8 ++ 0#2 ++ 0#1 ++ 0#7 ++ 0#7 ++ 0#7 := by
    simp only [append_mask, mask_none]
  refine ⟨?_, fun _ h => absurd (hk.symm.trans h) (by decide)⟩
  refine (decodeOne_of_row _ _ hk (by decide) hb hw).trans ?_
  unfold decodeFields
  rw [hk]
  show decodeMajorD 11 (219#8 ++ n ++ z ++ d ++ a ++ b) x = _
  simp (disch := decide) only [decodeMajorD, ext_lo, ext_hi, ext_self, Nat.reduceSub]

theorem mscl (a : BitVec 7) : Statement (.mscl a) := by
  intro _ _
  have hk : major (225280#18 ++ a ++ 0#7) = 220 := by
    simp (disch := decide) only [major, ext_hi, Nat.reduceSub]
    rfl
  have hb : (225280#18 ++ a ++ 0#7) &&& (1023#18 ++ 0#7 ++ 127#7) = 0#18 ++ 0#7 ++ 0#7 := by
    simp only [append_mask, mask_none]
    rfl
  refine ⟨?_, fun _ h => absurd (hk.symm.trans h) (by decide)⟩
  refine (decodeOne_of_row _ _ hk (by decide) hb rfl).trans ?_
  unfold decodeFields
  rw [hk]
  show decodeMajorD 12 (225280#18 ++ a ++ 0#7) none = _
  simp (disch := decide) only [decodeMajorD, ext_lo, ext_hi, ext_self, Nat.reduceSub]

theorem mfence (d : BitVec 7) : Statement (.mfence d) := by
  intro _ _
  have hk : major (1768#11 ++ d ++ 0#14) = 221 := by
    simp (disch := decide) only [major, ext_hi, Nat.reduceSub]
    rfl
  have hb : (1768#11 ++ d ++ 0#14) &&& (7#11 ++ 0#7 ++ 16383#14) = 0#11 ++ 0#7 ++ 0#14 := by
    simp only [append_mask, mask_none]
    rfl
  refine ⟨?_, fun _ h => absurd (hk.symm.trans h) (by decide)⟩
  refine (decodeOne_of_row _ _ hk (by decide) hb rfl).trans ?_
  unfold decodeFields
  rw [hk]
  show decodeMajorD 13 (1768#11 ++ d ++ 0#14) none = _
  simp (disch := decide) only [decodeMajorD, ext_lo, ext_hi, ext_self, Nat.reduceSub]

theorem mwait (a : BitVec 7) : Statement (.mwait a) := by
  intro _ _
  have hk : major (227328#18 ++ a ++ 0#7) = 222 := by
    simp (disch := decide) only [major, ext_hi, Nat.reduceSub]
    rfl
  have hb : (227328#18 ++ a ++ 0#7) &&& (1023#18 ++ 0#7 ++ 127#7) = 0#18 ++ 0#7 ++ 0#7 := by
    simp only [append_mask, mask_none]
    rfl
  refine ⟨?_, fun _ h => absurd (hk.symm.trans h) (by decide)⟩
  refine (decodeOne_of_row _ _ hk (by decide) hb rfl).trans ?_
  unfold decodeFields
  rw [hk]
  show decodeMajorD 14 (227328#18 ++ a ++ 0#7) none = _
  simp (disch := decide) only [decodeMajorD, ext_lo, ext_hi, ext_self, Nat.reduceSub]

theorem mstat (d : BitVec 7) (s : BitVec 7) : Statement (.mstat d s) := by
  intro _ _
  have hk : major (1784#11 ++ d ++ 0#7 ++ s) = 223 := by
    simp (disch := decide) only [major, ext_hi, Nat.reduceSub]
    rfl
  have hb : (1784#11 ++ d ++ 0#7 ++ s) &&& (7#11 ++ 0#7 ++ 127#7 ++ 0#7) = 0#11 ++ 0#7 ++ 0#7 ++ 0#7 := by
    simp only [append_mask, mask_none]
    rfl
  refine ⟨?_, fun _ h => absurd (hk.symm.trans h) (by decide)⟩
  refine (decodeOne_of_row _ _ hk (by decide) hb rfl).trans ?_
  unfold decodeFields
  rw [hk]
  show decodeMajorD 15 (1784#11 ++ d ++ 0#7 ++ s) none = _
  simp (disch := decide) only [decodeMajorD, ext_lo, ext_hi, ext_self, Nat.reduceSub]

theorem cpy (d : BitVec 7) (a : BitVec 7) (b : BitVec 7) : Statement (.cpy d a b) := by
  intro _ _
  have hk : major (1792#11 ++ d ++ a ++ b) = 224 := by
    simp (disch := decide) only [major, ext_hi, Nat.reduceSub]
    rfl
  have hb : (1792#11 ++ d ++ a ++ b) &&& (7#11 ++ 0#7 ++ 0#7 ++ 0#7) = 0#11 ++ 0#7 ++ 0#7 ++ 0#7 := by
    simp only [append_mask, mask_none]
    rfl
  refine ⟨?_, fun _ h => absurd (hk.symm.trans h) (by decide)⟩
  refine (decodeOne_of_row _ _ hk (by decide) hb rfl).trans ?_
  unfold decodeFields
  rw [hk]
  show decodeMajorE 0 (1792#11 ++ d ++ a ++ b) none = _
  simp (disch := decide) only [decodeMajorE, ext_lo, ext_hi, ext_self, Nat.reduceSub]

theorem cpy2d (d : BitVec 7) (a : BitVec 7) (b : BitVec 7) (x : Option (BitVec 24)) : Statement (.cpy2d d a b x) := by
  intro _ hw
  have hk : major (1800#11 ++ d ++ a ++ b) = 225 := by
    simp (disch := decide) only [major, ext_hi, Nat.reduceSub]
    rfl
  have hb : (1800#11 ++ d ++ a ++ b) &&& (7#11 ++ 0#7 ++ 0#7 ++ 0#7) = 0#11 ++ 0#7 ++ 0#7 ++ 0#7 := by
    simp only [append_mask, mask_none]
    rfl
  refine ⟨?_, fun _ h => absurd (hk.symm.trans h) (by decide)⟩
  refine (decodeOne_of_row _ _ hk (by decide) hb hw).trans ?_
  unfold decodeFields
  rw [hk]
  show decodeMajorE 1 (1800#11 ++ d ++ a ++ b) x = _
  simp (disch := decide) only [decodeMajorE, ext_lo, ext_hi, ext_self, Nat.reduceSub]

theorem cpyx (d : BitVec 7) (a : BitVec 7) (b : BitVec 7) : Statement (.cpyx d a b) := by
  intro _ _
  have hk : major (1808#11 ++ d ++ a ++ b) = 226 := by
    simp (disch := decide) only [major, ext_hi, Nat.reduceSub]
    rfl
  have hb : (1808#11 ++ d ++ a ++ b) &&& (7#11 ++ 0#7 ++ 0#7 ++ 0#7) = 0#11 ++ 0#7 ++ 0#7 ++ 0#7 := by
    simp only [append_mask, mask_none]
    rfl
  refine ⟨?_, fun _ h => absurd (hk.symm.trans h) (by decide)⟩
  refine (decodeOne_of_row _ _ hk (by decide) hb rfl).trans ?_
  unfold decodeFields
  rw [hk]
  show decodeMajorE 2 (1808#11 ++ d ++ a ++ b) none = _
  simp (disch := decide) only [decodeMajorE, ext_lo, ext_hi, ext_self, Nat.reduceSub]

theorem cpyk (d : BitVec 7) (a : BitVec 7) (b : BitVec 7) (x : Option (BitVec 24)) : Statement (.cpyk d a b x) := by
  intro _ hw
  have hk : major (1816#11 ++ d ++ a ++ b) = 227 := by
    simp (disch := decide) only [major, ext_hi, Nat.reduceSub]
    rfl
  have hb : (1816#11 ++ d ++ a ++ b) &&& (7#11 ++ 0#7 ++ 0#7 ++ 0#7) = 0#11 ++ 0#7 ++ 0#7 ++ 0#7 := by
    simp only [append_mask, mask_none]
    rfl
  refine ⟨?_, fun _ h => absurd (hk.symm.trans h) (by decide)⟩
  refine (decodeOne_of_row _ _ hk (by decide) hb hw).trans ?_
  unfold decodeFields
  rw [hk]
  show decodeMajorE 3 (1816#11 ++ d ++ a ++ b) x = _
  simp (disch := decide) only [decodeMajorE, ext_lo, ext_hi, ext_self, Nat.reduceSub]

theorem freeze : Statement (.freeze) := fun _ _ => ⟨by decide, fun _ => by decide⟩

theorem freezeKeep (d : BitVec 7) : Statement (.freezeKeep d) := by
  intro _ _
  have hk : major (1824#11 ++ d ++ 1#14) = 228 := by
    simp (disch := decide) only [major, ext_hi, Nat.reduceSub]
    rfl
  have hb : (1824#11 ++ d ++ 1#14) &&& (7#11 ++ 0#7 ++ 16383#14) = 0#11 ++ 0#7 ++ 1#14 := by
    simp only [append_mask, mask_none]
    rfl
  refine ⟨?_, fun _ h => absurd (hk.symm.trans h) (by decide)⟩
  refine (decodeOne_of_row _ _ hk (by decide) hb rfl).trans ?_
  unfold decodeFields
  rw [hk]
  show decodeMajorE 4 (1824#11 ++ d ++ 1#14) none = _
  simp (disch := decide) only [decodeMajorE, ext_lo, ext_hi, ext_self, Nat.reduceSub]
  rfl

theorem stemend (a : BitVec 7) : Statement (.stemend a) := by
  intro _ _
  have hk : major (234496#18 ++ a ++ 0#7) = 229 := by
    simp (disch := decide) only [major, ext_hi, Nat.reduceSub]
    rfl
  have hb : (234496#18 ++ a ++ 0#7) &&& (1023#18 ++ 0#7 ++ 127#7) = 0#18 ++ 0#7 ++ 0#7 := by
    simp only [append_mask, mask_none]
    rfl
  refine ⟨?_, fun _ h => absurd (hk.symm.trans h) (by decide)⟩
  refine (decodeOne_of_row _ _ hk (by decide) hb rfl).trans ?_
  unfold decodeFields
  rw [hk]
  show decodeMajorE 5 (234496#18 ++ a ++ 0#7) none = _
  simp (disch := decide) only [decodeMajorE, ext_lo, ext_hi, ext_self, Nat.reduceSub]

theorem spawn (n : BitVec 3) (c : BitVec 7) : Statement (.spawn n c) := by
  intro _ _
  have hk : major (230#8 ++ n ++ 0#3 ++ c ++ 0#11) = 230 := by
    simp (disch := decide) only [major, ext_hi, ext_self, Nat.reduceSub]
    rfl
  have hb : (230#8 ++ n ++ 0#3 ++ c ++ 0#11) &&& (0#8 ++ 0#3 ++ 7#3 ++ 0#7 ++ 2047#11) = 0#8 ++ 0#3 ++ 0#3 ++ 0#7 ++ 0#11 := by
    simp only [append_mask, mask_none]
    rfl
  refine ⟨?_, fun _ h => absurd (hk.symm.trans h) (by decide)⟩
  refine (decodeOne_of_row _ _ hk (by decide) hb rfl).trans ?_
  unfold decodeFields
  rw [hk]
  show decodeMajorE 6 (230#8 ++ n ++ 0#3 ++ c ++ 0#11) none = _
  simp (disch := decide) only [decodeMajorE, ext_lo, ext_hi, ext_self, Nat.reduceSub]

theorem spawnf (n : BitVec 3) (c : BitVec 7) : Statement (.spawnf n c) := by
  intro _ _
  have hk : major (231#8 ++ n ++ 0#3 ++ c ++ 0#11) = 231 := by
    simp (disch := decide) only [major, ext_hi, ext_self, Nat.reduceSub]
    rfl
  have hb : (231#8 ++ n ++ 0#3 ++ c ++ 0#11) &&& (0#8 ++ 0#3 ++ 7#3 ++ 0#7 ++ 2047#11) = 0#8 ++ 0#3 ++ 0#3 ++ 0#7 ++ 0#11 := by
    simp only [append_mask, mask_none]
    rfl
  refine ⟨?_, fun _ h => absurd (hk.symm.trans h) (by decide)⟩
  refine (decodeOne_of_row _ _ hk (by decide) hb rfl).trans ?_
  unfold decodeFields
  rw [hk]
  show decodeMajorE 7 (231#8 ++ n ++ 0#3 ++ c ++ 0#11) none = _
  simp (disch := decide) only [decodeMajorE, ext_lo, ext_hi, ext_self, Nat.reduceSub]

theorem launch (a : BitVec 7) : Statement (.launch a) := by
  intro _ _
  have hk : major (237568#18 ++ a ++ 0#7) = 232 := by
    simp (disch := decide) only [major, ext_hi, Nat.reduceSub]
    rfl
  have hb : (237568#18 ++ a ++ 0#7) &&& (1023#18 ++ 0#7 ++ 127#7) = 0#18 ++ 0#7 ++ 0#7 := by
    simp only [append_mask, mask_none]
    rfl
  refine ⟨?_, fun _ h => absurd (hk.symm.trans h) (by decide)⟩
  refine (decodeOne_of_row _ _ hk (by decide) hb rfl).trans ?_
  unfold decodeFields
  rw [hk]
  show decodeMajorE 8 (237568#18 ++ a ++ 0#7) none = _
  simp (disch := decide) only [decodeMajorE, ext_lo, ext_hi, ext_self, Nat.reduceSub]

theorem bar (a : BitVec 7) (b : BitVec 7) : Statement (.bar a b) := by
  intro _ _
  have hk : major (238592#18 ++ a ++ b) = 233 := by
    simp (disch := decide) only [major, ext_hi, Nat.reduceSub]
    rfl
  have hb : (238592#18 ++ a ++ b) &&& (1023#18 ++ 0#7 ++ 0#7) = 0#18 ++ 0#7 ++ 0#7 := by
    simp only [append_mask, mask_none]
    rfl
  refine ⟨?_, fun _ h => absurd (hk.symm.trans h) (by decide)⟩
  refine (decodeOne_of_row _ _ hk (by decide) hb rfl).trans ?_
  unfold decodeFields
  rw [hk]
  show decodeMajorE 9 (238592#18 ++ a ++ b) none = _
  simp (disch := decide) only [decodeMajorE, ext_lo, ext_hi, ext_self, Nat.reduceSub]

theorem arrive (d : BitVec 7) (a : BitVec 7) (b : BitVec 7) : Statement (.arrive d a b) := by
  intro _ _
  have hk : major (1872#11 ++ d ++ a ++ b) = 234 := by
    simp (disch := decide) only [major, ext_hi, Nat.reduceSub]
    rfl
  have hb : (1872#11 ++ d ++ a ++ b) &&& (7#11 ++ 0#7 ++ 0#7 ++ 0#7) = 0#11 ++ 0#7 ++ 0#7 ++ 0#7 := by
    simp only [append_mask, mask_none]
    rfl
  refine ⟨?_, fun _ h => absurd (hk.symm.trans h) (by decide)⟩
  refine (decodeOne_of_row _ _ hk (by decide) hb rfl).trans ?_
  unfold decodeFields
  rw [hk]
  show decodeMajorE 10 (1872#11 ++ d ++ a ++ b) none = _
  simp (disch := decide) only [decodeMajorE, ext_lo, ext_hi, ext_self, Nat.reduceSub]

theorem waitb (a : BitVec 7) (b : BitVec 7) : Statement (.waitb a b) := by
  intro _ _
  have hk : major (240640#18 ++ a ++ b) = 235 := by
    simp (disch := decide) only [major, ext_hi, Nat.reduceSub]
    rfl
  have hb : (240640#18 ++ a ++ b) &&& (1023#18 ++ 0#7 ++ 0#7) = 0#18 ++ 0#7 ++ 0#7 := by
    simp only [append_mask, mask_none]
    rfl
  refine ⟨?_, fun _ h => absurd (hk.symm.trans h) (by decide)⟩
  refine (decodeOne_of_row _ _ hk (by decide) hb rfl).trans ?_
  unfold decodeFields
  rw [hk]
  show decodeMajorE 11 (240640#18 ++ a ++ b) none = _
  simp (disch := decide) only [decodeMajorE, ext_lo, ext_hi, ext_self, Nat.reduceSub]

theorem quota (a : BitVec 7) : Statement (.quota a) := by
  intro _ _
  have hk : major (241664#18 ++ a ++ 0#7) = 236 := by
    simp (disch := decide) only [major, ext_hi, Nat.reduceSub]
    rfl
  have hb : (241664#18 ++ a ++ 0#7) &&& (1023#18 ++ 0#7 ++ 127#7) = 0#18 ++ 0#7 ++ 0#7 := by
    simp only [append_mask, mask_none]
    rfl
  refine ⟨?_, fun _ h => absurd (hk.symm.trans h) (by decide)⟩
  refine (decodeOne_of_row _ _ hk (by decide) hb rfl).trans ?_
  unfold decodeFields
  rw [hk]
  show decodeMajorE 12 (241664#18 ++ a ++ 0#7) none = _
  simp (disch := decide) only [decodeMajorE, ext_lo, ext_hi, ext_self, Nat.reduceSub]

theorem energy (d : BitVec 7) (a : BitVec 7) : Statement (.energy d a) := by
  intro _ _
  have hk : major (1896#11 ++ d ++ a ++ 0#7) = 237 := by
    simp (disch := decide) only [major, ext_hi, Nat.reduceSub]
    rfl
  have hb : (1896#11 ++ d ++ a ++ 0#7) &&& (7#11 ++ 0#7 ++ 0#7 ++ 127#7) = 0#11 ++ 0#7 ++ 0#7 ++ 0#7 := by
    simp only [append_mask, mask_none]
    rfl
  refine ⟨?_, fun _ h => absurd (hk.symm.trans h) (by decide)⟩
  refine (decodeOne_of_row _ _ hk (by decide) hb rfl).trans ?_
  unfold decodeFields
  rw [hk]
  show decodeMajorE 13 (1896#11 ++ d ++ a ++ 0#7) none = _
  simp (disch := decide) only [decodeMajorE, ext_lo, ext_hi, ext_self, Nat.reduceSub]

theorem bist (d : BitVec 7) (a : BitVec 7) : Statement (.bist d a) := by
  intro _ _
  have hk : major (1904#11 ++ d ++ a ++ 0#7) = 238 := by
    simp (disch := decide) only [major, ext_hi, Nat.reduceSub]
    rfl
  have hb : (1904#11 ++ d ++ a ++ 0#7) &&& (7#11 ++ 0#7 ++ 0#7 ++ 127#7) = 0#11 ++ 0#7 ++ 0#7 ++ 0#7 := by
    simp only [append_mask, mask_none]
    rfl
  refine ⟨?_, fun _ h => absurd (hk.symm.trans h) (by decide)⟩
  refine (decodeOne_of_row _ _ hk (by decide) hb rfl).trans ?_
  unfold decodeFields
  rw [hk]
  show decodeMajorE 14 (1904#11 ++ d ++ a ++ 0#7) none = _
  simp (disch := decide) only [decodeMajorE, ext_lo, ext_hi, ext_self, Nat.reduceSub]

theorem trc (a : BitVec 7) : Statement (.trc a) := by
  intro _ _
  have hk : major (244736#18 ++ a ++ 0#7) = 239 := by
    simp (disch := decide) only [major, ext_hi, Nat.reduceSub]
    rfl
  have hb : (244736#18 ++ a ++ 0#7) &&& (1023#18 ++ 0#7 ++ 127#7) = 0#18 ++ 0#7 ++ 0#7 := by
    simp only [append_mask, mask_none]
    rfl
  refine ⟨?_, fun _ h => absurd (hk.symm.trans h) (by decide)⟩
  refine (decodeOne_of_row _ _ hk (by decide) hb rfl).trans ?_
  unfold decodeFields
  rw [hk]
  show decodeMajorE 15 (244736#18 ++ a ++ 0#7) none = _
  simp (disch := decide) only [decodeMajorE, ext_lo, ext_hi, ext_self, Nat.reduceSub]

theorem send (d : BitVec 7) (a : BitVec 7) (b : BitVec 7) : Statement (.send d a b) := by
  intro _ _
  have hk : major (1920#11 ++ d ++ a ++ b) = 240 := by
    simp (disch := decide) only [major, ext_hi, Nat.reduceSub]
    rfl
  have hb : (1920#11 ++ d ++ a ++ b) &&& (7#11 ++ 0#7 ++ 0#7 ++ 0#7) = 0#11 ++ 0#7 ++ 0#7 ++ 0#7 := by
    simp only [append_mask, mask_none]
    rfl
  refine ⟨?_, fun _ h => absurd (hk.symm.trans h) (by decide)⟩
  refine (decodeOne_of_row _ _ hk (by decide) hb rfl).trans ?_
  unfold decodeFields
  rw [hk]
  show decodeMajorF 0 (1920#11 ++ d ++ a ++ b) = _
  simp (disch := decide) only [decodeMajorF, ext_lo, ext_hi, ext_self, Nat.reduceSub]

theorem recv (d : BitVec 7) (a : BitVec 7) (b : BitVec 7) : Statement (.recv d a b) := by
  intro _ _
  have hk : major (1928#11 ++ d ++ a ++ b) = 241 := by
    simp (disch := decide) only [major, ext_hi, Nat.reduceSub]
    rfl
  have hb : (1928#11 ++ d ++ a ++ b) &&& (7#11 ++ 0#7 ++ 0#7 ++ 0#7) = 0#11 ++ 0#7 ++ 0#7 ++ 0#7 := by
    simp only [append_mask, mask_none]
    rfl
  refine ⟨?_, fun _ h => absurd (hk.symm.trans h) (by decide)⟩
  refine (decodeOne_of_row _ _ hk (by decide) hb rfl).trans ?_
  unfold decodeFields
  rw [hk]
  show decodeMajorF 1 (1928#11 ++ d ++ a ++ b) = _
  simp (disch := decide) only [decodeMajorF, ext_lo, ext_hi, ext_self, Nat.reduceSub]

theorem probe (d : BitVec 7) (a : BitVec 7) (b : BitVec 7) : Statement (.probe d a b) := by
  intro _ _
  have hk : major (1936#11 ++ d ++ a ++ b) = 242 := by
    simp (disch := decide) only [major, ext_hi, Nat.reduceSub]
    rfl
  have hb : (1936#11 ++ d ++ a ++ b) &&& (7#11 ++ 0#7 ++ 0#7 ++ 0#7) = 0#11 ++ 0#7 ++ 0#7 ++ 0#7 := by
    simp only [append_mask, mask_none]
    rfl
  refine ⟨?_, fun _ h => absurd (hk.symm.trans h) (by decide)⟩
  refine (decodeOne_of_row _ _ hk (by decide) hb rfl).trans ?_
  unfold decodeFields
  rw [hk]
  show decodeMajorF 2 (1936#11 ++ d ++ a ++ b) = _
  simp (disch := decide) only [decodeMajorF, ext_lo, ext_hi, ext_self, Nat.reduceSub]

theorem rwait (d : BitVec 7) (a : BitVec 7) : Statement (.rwait d a) := by
  intro _ _
  have hk : major (1944#11 ++ d ++ a ++ 0#7) = 243 := by
    simp (disch := decide) only [major, ext_hi, Nat.reduceSub]
    rfl
  have hb : (1944#11 ++ d ++ a ++ 0#7) &&& (7#11 ++ 0#7 ++ 0#7 ++ 127#7) = 0#11 ++ 0#7 ++ 0#7 ++ 0#7 := by
    simp only [append_mask, mask_none]
    rfl
  refine ⟨?_, fun _ h => absurd (hk.symm.trans h) (by decide)⟩
  refine (decodeOne_of_row _ _ hk (by decide) hb rfl).trans ?_
  unfold decodeFields
  rw [hk]
  show decodeMajorF 3 (1944#11 ++ d ++ a ++ 0#7) = _
  simp (disch := decide) only [decodeMajorF, ext_lo, ext_hi, ext_self, Nat.reduceSub]

theorem collRed (d : BitVec 7) (a : BitVec 7) (b : BitVec 7) : Statement (.collRed d a b) := by
  intro _ _
  have hk : major (1952#11 ++ d ++ a ++ b) = 244 := by
    simp (disch := decide) only [major, ext_hi, Nat.reduceSub]
    rfl
  have hb : (1952#11 ++ d ++ a ++ b) &&& (7#11 ++ 0#7 ++ 0#7 ++ 0#7) = 0#11 ++ 0#7 ++ 0#7 ++ 0#7 := by
    simp only [append_mask, mask_none]
    rfl
  refine ⟨?_, fun _ h => absurd (hk.symm.trans h) (by decide)⟩
  refine (decodeOne_of_row _ _ hk (by decide) hb rfl).trans ?_
  unfold decodeFields
  rw [hk]
  show decodeMajorF 4 (1952#11 ++ d ++ a ++ b) = _
  simp (disch := decide) only [decodeMajorF, ext_lo, ext_hi, ext_self, Nat.reduceSub]

theorem collBcast (d : BitVec 7) (a : BitVec 7) (b : BitVec 7) : Statement (.collBcast d a b) := by
  intro _ _
  have hk : major (1960#11 ++ d ++ a ++ b) = 245 := by
    simp (disch := decide) only [major, ext_hi, Nat.reduceSub]
    rfl
  have hb : (1960#11 ++ d ++ a ++ b) &&& (7#11 ++ 0#7 ++ 0#7 ++ 0#7) = 0#11 ++ 0#7 ++ 0#7 ++ 0#7 := by
    simp only [append_mask, mask_none]
    rfl
  refine ⟨?_, fun _ h => absurd (hk.symm.trans h) (by decide)⟩
  refine (decodeOne_of_row _ _ hk (by decide) hb rfl).trans ?_
  unfold decodeFields
  rw [hk]
  show decodeMajorF 5 (1960#11 ++ d ++ a ++ b) = _
  simp (disch := decide) only [decodeMajorF, ext_lo, ext_hi, ext_self, Nat.reduceSub]

theorem collGath (d : BitVec 7) (a : BitVec 7) (b : BitVec 7) : Statement (.collGath d a b) := by
  intro _ _
  have hk : major (1968#11 ++ d ++ a ++ b) = 246 := by
    simp (disch := decide) only [major, ext_hi, Nat.reduceSub]
    rfl
  have hb : (1968#11 ++ d ++ a ++ b) &&& (7#11 ++ 0#7 ++ 0#7 ++ 0#7) = 0#11 ++ 0#7 ++ 0#7 ++ 0#7 := by
    simp only [append_mask, mask_none]
    rfl
  refine ⟨?_, fun _ h => absurd (hk.symm.trans h) (by decide)⟩
  refine (decodeOne_of_row _ _ hk (by decide) hb rfl).trans ?_
  unfold decodeFields
  rw [hk]
  show decodeMajorF 6 (1968#11 ++ d ++ a ++ b) = _
  simp (disch := decide) only [decodeMajorF, ext_lo, ext_hi, ext_self, Nat.reduceSub]

theorem cwait (a : BitVec 7) : Statement (.cwait a) := by
  intro _ _
  have hk : major (252928#18 ++ a ++ 0#7) = 247 := by
    simp (disch := decide) only [major, ext_hi, Nat.reduceSub]
    rfl
  have hb : (252928#18 ++ a ++ 0#7) &&& (1023#18 ++ 0#7 ++ 127#7) = 0#18 ++ 0#7 ++ 0#7 := by
    simp only [append_mask, mask_none]
    rfl
  refine ⟨?_, fun _ h => absurd (hk.symm.trans h) (by decide)⟩
  refine (decodeOne_of_row _ _ hk (by decide) hb rfl).trans ?_
  unfold decodeFields
  rw [hk]
  show decodeMajorF 7 (252928#18 ++ a ++ 0#7) = _
  simp (disch := decide) only [decodeMajorF, ext_lo, ext_hi, ext_self, Nat.reduceSub]

theorem grun (d : BitVec 7) (a : BitVec 7) : Statement (.grun d a) := by
  intro _ _
  have hk : major (1984#11 ++ d ++ a ++ 0#7) = 248 := by
    simp (disch := decide) only [major, ext_hi, Nat.reduceSub]
    rfl
  have hb : (1984#11 ++ d ++ a ++ 0#7) &&& (7#11 ++ 0#7 ++ 0#7 ++ 127#7) = 0#11 ++ 0#7 ++ 0#7 ++ 0#7 := by
    simp only [append_mask, mask_none]
    rfl
  refine ⟨?_, fun _ h => absurd (hk.symm.trans h) (by decide)⟩
  refine (decodeOne_of_row _ _ hk (by decide) hb rfl).trans ?_
  unfold decodeFields
  rw [hk]
  show decodeMajorF 8 (1984#11 ++ d ++ a ++ 0#7) = _
  simp (disch := decide) only [decodeMajorF, ext_lo, ext_hi, ext_self, Nat.reduceSub]

theorem gset (a : BitVec 7) (b : BitVec 7) : Statement (.gset a b) := by
  intro _ _
  have hk : major (254976#18 ++ a ++ b) = 249 := by
    simp (disch := decide) only [major, ext_hi, Nat.reduceSub]
    rfl
  have hb : (254976#18 ++ a ++ b) &&& (1023#18 ++ 0#7 ++ 0#7) = 0#18 ++ 0#7 ++ 0#7 := by
    simp only [append_mask, mask_none]
    rfl
  refine ⟨?_, fun _ h => absurd (hk.symm.trans h) (by decide)⟩
  refine (decodeOne_of_row _ _ hk (by decide) hb rfl).trans ?_
  unfold decodeFields
  rw [hk]
  show decodeMajorF 9 (254976#18 ++ a ++ b) = _
  simp (disch := decide) only [decodeMajorF, ext_lo, ext_hi, ext_self, Nat.reduceSub]

theorem gwait (d : BitVec 7) (a : BitVec 7) : Statement (.gwait d a) := by
  intro _ _
  have hk : major (2000#11 ++ d ++ a ++ 0#7) = 250 := by
    simp (disch := decide) only [major, ext_hi, Nat.reduceSub]
    rfl
  have hb : (2000#11 ++ d ++ a ++ 0#7) &&& (7#11 ++ 0#7 ++ 0#7 ++ 127#7) = 0#11 ++ 0#7 ++ 0#7 ++ 0#7 := by
    simp only [append_mask, mask_none]
    rfl
  refine ⟨?_, fun _ h => absurd (hk.symm.trans h) (by decide)⟩
  refine (decodeOne_of_row _ _ hk (by decide) hb rfl).trans ?_
  unfold decodeFields
  rw [hk]
  show decodeMajorF 10 (2000#11 ++ d ++ a ++ 0#7) = _
  simp (disch := decide) only [decodeMajorF, ext_lo, ext_hi, ext_self, Nat.reduceSub]

theorem tlbinv (a : BitVec 7) (b : BitVec 7) : Statement (.tlbinv a b) := by
  intro _ _
  have hk : major (257024#18 ++ a ++ b) = 251 := by
    simp (disch := decide) only [major, ext_hi, Nat.reduceSub]
    rfl
  have hb : (257024#18 ++ a ++ b) &&& (1023#18 ++ 0#7 ++ 0#7) = 0#18 ++ 0#7 ++ 0#7 := by
    simp only [append_mask, mask_none]
    rfl
  refine ⟨?_, fun _ h => absurd (hk.symm.trans h) (by decide)⟩
  refine (decodeOne_of_row _ _ hk (by decide) hb rfl).trans ?_
  unfold decodeFields
  rw [hk]
  show decodeMajorF 11 (257024#18 ++ a ++ b) = _
  simp (disch := decide) only [decodeMajorF, ext_lo, ext_hi, ext_self, Nat.reduceSub]

theorem fence (k : BitVec 2) (s : BitVec 3) : Statement (.fence k s) := by
  intro _ _
  have hk : major (132120576#27 ++ k ++ s) = 252 := by
    simp (disch := decide) only [major, ext_hi, Nat.reduceSub]
    rfl
  have hb : (132120576#27 ++ k ++ s) &&& (524287#27 ++ 0#2 ++ 0#3) = 0#27 ++ 0#2 ++ 0#3 := by
    simp only [append_mask, mask_none]
    rfl
  refine ⟨?_, fun _ h => absurd (hk.symm.trans h) (by decide)⟩
  refine (decodeOne_of_row _ _ hk (by decide) hb rfl).trans ?_
  unfold decodeFields
  rw [hk]
  show decodeMajorF 12 (132120576#27 ++ k ++ s) = _
  simp (disch := decide) only [decodeMajorF, ext_lo, ext_hi, ext_self, Nat.reduceSub]

theorem registerCopyReexecute : Statement (.registerCopyReexecute) := fun h => nomatch h
theorem mailboxPost : Statement (.mailboxPost) := fun h => nomatch h
theorem dieReset : Statement (.dieReset) := fun h => nomatch h
theorem groupEnd : Statement (.groupEnd) := fun h => nomatch h
theorem teamDispatch : Statement (.teamDispatch) := fun h => nomatch h
theorem gridPrologueDispatch : Statement (.gridPrologueDispatch) := fun h => nomatch h
theorem binTimerExpiry : Statement (.binTimerExpiry) := fun h => nomatch h
theorem quantumSwap : Statement (.quantumSwap) := fun h => nomatch h
theorem groupFrameWrite : Statement (.groupFrameWrite) := fun h => nomatch h
theorem teamRestore : Statement (.teamRestore) := fun h => nomatch h
theorem groupFrameRestore : Statement (.groupFrameRestore) := fun h => nomatch h
theorem energyWindow : Statement (.energyWindow) := fun h => nomatch h
theorem clockThrottle : Statement (.clockThrottle) := fun h => nomatch h
theorem launchCompletion : Statement (.launchCompletion) := fun h => nomatch h
theorem launchFailureReport : Statement (.launchFailureReport) := fun h => nomatch h
theorem launchEndNotice : Statement (.launchEndNotice) := fun h => nomatch h
theorem matrixOpComplete : Statement (.matrixOpComplete) := fun h => nomatch h
theorem copyRequestStart : Statement (.copyRequestStart) := fun h => nomatch h
theorem copyRequestComplete : Statement (.copyRequestComplete) := fun h => nomatch h
theorem pageRequestPost : Statement (.pageRequestPost) := fun h => nomatch h
theorem prqDone : Statement (.prqDone) := fun h => nomatch h
theorem atsCompletion : Statement (.atsCompletion) := fun h => nomatch h
theorem prgResponse : Statement (.prgResponse) := fun h => nomatch h
theorem atsInvalidation : Statement (.atsInvalidation) := fun h => nomatch h
theorem hostRead : Statement (.hostRead) := fun h => nomatch h
theorem hostWrite : Statement (.hostWrite) := fun h => nomatch h
theorem hostAtomicop : Statement (.hostAtomicop) := fun h => nomatch h
theorem tdispMessage : Statement (.tdispMessage) := fun h => nomatch h
theorem stopInterface : Statement (.stopInterface) := fun h => nomatch h
theorem ideKm : Statement (.ideKm) := fun h => nomatch h
theorem spdmMeasurements : Statement (.spdmMeasurements) := fun h => nomatch h
theorem storageRequest : Statement (.storageRequest) := fun h => nomatch h
theorem migGo : Statement (.migGo) := fun h => nomatch h
theorem migrationRecall : Statement (.migrationRecall) := fun h => nomatch h
theorem migrationCopy : Statement (.migrationCopy) := fun h => nomatch h
theorem migrationRemap : Statement (.migrationRemap) := fun h => nomatch h
theorem migrationForward : Statement (.migrationForward) := fun h => nomatch h
theorem migrationRelease : Statement (.migrationRelease) := fun h => nomatch h
theorem rebalancePeriod : Statement (.rebalancePeriod) := fun h => nomatch h
theorem bucketWrite : Statement (.bucketWrite) := fun h => nomatch h
theorem bucketDrain : Statement (.bucketDrain) := fun h => nomatch h
theorem homeGets : Statement (.homeGets) := fun h => nomatch h
theorem homeGetm : Statement (.homeGetm) := fun h => nomatch h
theorem homeUpgrade : Statement (.homeUpgrade) := fun h => nomatch h
theorem writeNotice : Statement (.writeNotice) := fun h => nomatch h
theorem putm : Statement (.putm) := fun h => nomatch h
theorem pute : Statement (.pute) := fun h => nomatch h
theorem homeAtomic : Statement (.homeAtomic) := fun h => nomatch h
theorem uncachedRead : Statement (.uncachedRead) := fun h => nomatch h
theorem uncachedWrite : Statement (.uncachedWrite) := fun h => nomatch h

end Laws.Encoding

theorem Laws.Encoding.recall : Laws.Encoding.Statement (.recall) := fun h => nomatch h

namespace Laws.Encoding

theorem invalidate : Statement (.invalidate) := fun h => nomatch h
theorem cacheEvict : Statement (.cacheEvict) := fun h => nomatch h
theorem responseData : Statement (.responseData) := fun h => nomatch h
theorem responseGrant : Statement (.responseGrant) := fun h => nomatch h
theorem responseAcknowledge : Statement (.responseAcknowledge) := fun h => nomatch h
theorem responseRefused : Statement (.responseRefused) := fun h => nomatch h
theorem responsePoisoned : Statement (.responsePoisoned) := fun h => nomatch h
theorem bulkPacket : Statement (.bulkPacket) := fun h => nomatch h
theorem keyCopyPacket : Statement (.keyCopyPacket) := fun h => nomatch h
theorem transactionTimeout : Statement (.transactionTimeout) := fun h => nomatch h
theorem dieEdgeFlit : Statement (.dieEdgeFlit) := fun h => nomatch h
theorem dieEdgeRetrain : Statement (.dieEdgeRetrain) := fun h => nomatch h
theorem d2dRetrain : Statement (.d2dRetrain) := fun h => nomatch h
theorem fabricPortRetrain : Statement (.fabricPortRetrain) := fun h => nomatch h
theorem fabRetrain : Statement (.fabRetrain) := fun h => nomatch h
theorem messageAnnouncement : Statement (.messageAnnouncement) := fun h => nomatch h
theorem announcementReply : Statement (.announcementReply) := fun h => nomatch h
theorem messageRetry : Statement (.messageRetry) := fun h => nomatch h
theorem messageDataPacket : Statement (.messageDataPacket) := fun h => nomatch h
theorem collectivePacket : Statement (.collectivePacket) := fun h => nomatch h
theorem collectiveDrainReport : Statement (.collectiveDrainReport) := fun h => nomatch h
theorem collectiveDrainedNotice : Statement (.collectiveDrainedNotice) := fun h => nomatch h
theorem clauseLaunch : Statement (.clauseLaunch) := fun h => nomatch h
theorem clauseCopy : Statement (.clauseCopy) := fun h => nomatch h
theorem clauseCollective : Statement (.clauseCollective) := fun h => nomatch h
theorem clauseConditional : Statement (.clauseConditional) := fun h => nomatch h
theorem clauseWhile : Statement (.clauseWhile) := fun h => nomatch h
theorem galIdWrite : Statement (.galIdWrite) := fun h => nomatch h
theorem recDeclare : Statement (.recDeclare) := fun h => nomatch h
theorem recoveryFence : Statement (.recoveryFence) := fun h => nomatch h
theorem recoveryResolve : Statement (.recoveryResolve) := fun h => nomatch h
theorem recoverySweep : Statement (.recoverySweep) := fun h => nomatch h
theorem recoveryReport : Statement (.recoveryReport) := fun h => nomatch h
theorem recReadmit : Statement (.recReadmit) := fun h => nomatch h
theorem firewallWrite : Statement (.firewallWrite) := fun h => nomatch h
theorem rdirQuery : Statement (.rdirQuery) := fun h => nomatch h
theorem registerWrite : Statement (.registerWrite) := fun h => nomatch h
theorem dbgStop : Statement (.dbgStop) := fun h => nomatch h
theorem teamStopEffect : Statement (.teamStopEffect) := fun h => nomatch h
theorem dbgAttach : Statement (.dbgAttach) := fun h => nomatch h
theorem dbgStep : Statement (.dbgStep) := fun h => nomatch h
theorem dbgResume : Statement (.dbgResume) := fun h => nomatch h
theorem dbgTerminate : Statement (.dbgTerminate) := fun h => nomatch h
theorem holdLimitExpiry : Statement (.holdLimitExpiry) := fun h => nomatch h
theorem sampleTick : Statement (.sampleTick) := fun h => nomatch h
theorem traceEnable : Statement (.traceEnable) := fun h => nomatch h
theorem margVolt : Statement (.margVolt) := fun h => nomatch h
theorem margLrun : Statement (.margLrun) := fun h => nomatch h
theorem marginRunDone : Statement (.marginRunDone) := fun h => nomatch h
theorem laneSpareSteer : Statement (.laneSpareSteer) := fun h => nomatch h
theorem instructionFetchFault (cls : BitVec 4) (code : BitVec 8) (addr : BitVec 64) (info : BitVec 64) : Statement (.instructionFetchFault cls code addr info) := fun h => nomatch h
theorem bistTestComplete : Statement (.bistTestComplete) := fun h => nomatch h
theorem cellFailure : Statement (.cellFailure) := fun h => nomatch h
theorem fabricLinkTraining : Statement (.fabricLinkTraining) := fun h => nomatch h

end Laws.Encoding

end Sys2Proof
end

