-- ==== Sys2Proof/Tests/Slice0.lean ====
section
/-! SUPPORT. Tests of the model against words and values worked out by hand from the tables of the spec, and for each obligation
states and operands that meet its hypotheses. -/

namespace Sys2Proof.Tests

set_option Elab.async false

open Sys2Proof Sys2Proof.Machine

/-! ### Well-formedness -/

/-- For each instruction that takes a prefix, one whose KIND Table 2-3 does not give it. -/
def wrongPrefixes : List Instr :=
  [.sel 0 0 0 (some 0x000000#24), .addi 0 0 0 (some 0x400000#24), .andi 0 0 0 (some 0x400000#24),
   .ori 0 0 0 (some 0x400000#24), .xori 0 0 0 (some 0x400000#24), .muli 0 0 0 (some 0x400000#24),
   .shfl 0 0 0 0 (some 0x000000#24), .perm 0 0 0 (some 0x000000#24), .clre 0 0 (some 0x400000#24),
   .tagld 0 0 0 (some 0x400000#24), .tagst 0 0 0 (some 0x400000#24), .pclr 0 0 (some 0x400000#24),
   .cwb 0 0 0 (some 0x400000#24), .cinv 0 0 0 (some 0x400000#24), .cflush 0 0 0 (some 0x400000#24),
   .pref 0 0 0 (some 0x400000#24), .ldf 0 0 0 0 0 (some 0x400000#24), .stf 0 0 0 0 0 (some 0x400000#24),
   .ldS8 0 0 0 0 0 (some 0x400000#24), .ldN8 0 0 0 0 0 (some 0x400000#24), .ldS16 0 0 0 0 0 (some 0x400000#24),
   .ldN16 0 0 0 0 0 (some 0x400000#24), .ld32 0 0 0 0 0 (some 0x400000#24), .ld64 0 0 0 0 0 (some 0x400000#24),
   .ld128 0 0 0 0 0 (some 0x400000#24), .atom32 0 0 0 0 0 (some 0x000000#24), .st8 0 0 0 0 0 (some 0x400000#24),
   .st16 0 0 0 0 0 (some 0x400000#24), .st32 0 0 0 0 0 (some 0x400000#24), .st64 0 0 0 0 0 (some 0x400000#24)] ++
  [.st128 0 0 0 0 0 (some 0x400000#24), .atom64 0 0 0 0 0 (some 0x000000#24), .atom128 0 0 0 0 0 (some 0x000000#24),
   .ldc32 0 0 0 0 (some 0x400000#24), .ldc64 0 0 0 0 (some 0x400000#24), .ldc128 0 0 0 0 (some 0x400000#24),
   .ldcWK32 0 0 0 0 (some 0x400000#24), .ldcWK64 0 0 0 0 (some 0x400000#24), .ldcWK128 0 0 0 0 (some 0x400000#24),
   .ldcWC32 0 0 0 0 (some 0x400000#24), .ldcWC64 0 0 0 0 (some 0x400000#24), .ldcWC128 0 0 0 0 (some 0x400000#24),
   .stc32 0 0 0 0 (some 0x400000#24), .stc64 0 0 0 0 (some 0x400000#24), .stc128 0 0 0 0 (some 0x400000#24),
   .stcF32 0 0 0 0 (some 0x400000#24), .stcF64 0 0 0 0 (some 0x400000#24), .stcF128 0 0 0 0 (some 0x400000#24),
   .stcT128 0 0 0 (some 0x400000#24), .usel 0 0 0 (some 0x000000#24), .uaddi 0 0 0 (some 0x400000#24),
   .uandi 0 0 0 (some 0x400000#24), .uori 0 0 0 (some 0x400000#24), .li 0 0 (some 0x400000#24),
   .prep 0 0 (some 0x400000#24), .mmas 0 0 0 0 0 (some 0x000000#24), .mmaqs 0 0 0 0 0 (some 0x000000#24),
   .cpy2d 0 0 0 (some 0x000000#24), .cpyk 0 0 0 (some 0x000000#24)]

/-- The same instructions with a KIND that Table 2-3 gives them. -/
def rightPrefixes : List Instr :=
  [.sel 0 0 0 (some 0x400000#24), .addi 0 0 0 (some 0x000000#24), .andi 0 0 0 (some 0x000000#24),
   .ori 0 0 0 (some 0x000000#24), .xori 0 0 0 (some 0x000000#24), .muli 0 0 0 (some 0x000000#24),
   .shfl 0 0 0 0 (some 0x400000#24), .perm 0 0 0 (some 0x400000#24), .clre 0 0 (some 0x000000#24),
   .tagld 0 0 0 (some 0x000000#24), .tagst 0 0 0 (some 0x000000#24), .pclr 0 0 (some 0x000000#24),
   .cwb 0 0 0 (some 0x000000#24), .cinv 0 0 0 (some 0x000000#24), .cflush 0 0 0 (some 0x000000#24),
   .pref 0 0 0 (some 0x000000#24), .ldf 0 0 0 0 0 (some 0x000000#24), .stf 0 0 0 0 0 (some 0x000000#24),
   .ldS8 0 0 0 0 0 (some 0x000000#24), .ldN8 0 0 0 0 0 (some 0x000000#24), .ldS16 0 0 0 0 0 (some 0x000000#24),
   .ldN16 0 0 0 0 0 (some 0x000000#24), .ld32 0 0 0 0 0 (some 0x000000#24), .ld64 0 0 0 0 0 (some 0x000000#24),
   .ld128 0 0 0 0 0 (some 0x000000#24), .atom32 0 0 0 0 0 (some 0x800000#24), .st8 0 0 0 0 0 (some 0x000000#24),
   .st16 0 0 0 0 0 (some 0x000000#24), .st32 0 0 0 0 0 (some 0x000000#24), .st64 0 0 0 0 0 (some 0x000000#24)] ++
  [.st128 0 0 0 0 0 (some 0x000000#24), .atom64 0 0 0 0 0 (some 0x800000#24), .atom128 0 0 0 0 0 (some 0x800000#24),
   .ldc32 0 0 0 0 (some 0x000000#24), .ldc64 0 0 0 0 (some 0x000000#24), .ldc128 0 0 0 0 (some 0x000000#24),
   .ldcWK32 0 0 0 0 (some 0x000000#24), .ldcWK64 0 0 0 0 (some 0x000000#24), .ldcWK128 0 0 0 0 (some 0x000000#24),
   .ldcWC32 0 0 0 0 (some 0x000000#24), .ldcWC64 0 0 0 0 (some 0x000000#24), .ldcWC128 0 0 0 0 (some 0x000000#24),
   .stc32 0 0 0 0 (some 0x000000#24), .stc64 0 0 0 0 (some 0x000000#24), .stc128 0 0 0 0 (some 0x000000#24),
   .stcF32 0 0 0 0 (some 0x000000#24), .stcF64 0 0 0 0 (some 0x000000#24), .stcF128 0 0 0 0 (some 0x000000#24),
   .stcT128 0 0 0 (some 0x000000#24), .usel 0 0 0 (some 0x400000#24), .uaddi 0 0 0 (some 0x000000#24),
   .uandi 0 0 0 (some 0x000000#24), .uori 0 0 0 (some 0x000000#24), .li 0 0 (some 0x000000#24),
   .prep 0 0 (some 0x000000#24), .mmas 0 0 0 0 0 (some 0x400000#24), .mmaqs 0 0 0 0 0 (some 0x400000#24),
   .cpy2d 0 0 0 (some 0x400000#24), .cpyk 0 0 0 (some 0x400000#24)]

theorem test_wf_refuses_wrong_prefixes : (wrongPrefixes.all fun i => !i.wf) = true := by decide +kernel
theorem test_wf_takes_right_prefixes : (rightPrefixes.all Instr.wf) = true := by decide +kernel
/-- `ext` is no term where the second word takes the prefix: here KIND 0 before `addi`. -/
theorem test_wf_refuses_accepted_pair : (Instr.ext 0x000001 0x20000000).wf = false := by decide +kernel
theorem test_wf_takes_refused_pair : (Instr.ext 0x400001 0x20000000).wf = true := by decide +kernel
/-- A word of the table is not `wordNotAnInstruction`, nor is an `ext` word. -/
theorem test_wf_refuses_row_word : (Instr.wordNotAnInstruction 0xBC000000).wf = false := by decide +kernel
theorem test_wf_refuses_ext_word : (Instr.wordNotAnInstruction 0xFF000000).wf = false := by decide +kernel
theorem test_wf_takes_unassigned_word : (Instr.wordNotAnInstruction 0xFE000000).wf = true := by decide +kernel

/-! ### Decoding (Tables 2-1 to 2-7): one word of every row, its fields set apart as the table numbers them -/

def decodesAll (ws : List (Nat × Instr)) : Bool :=
  ws.all fun (p : Nat × Instr) => decodeTableWord 32 p.1 == some p.2

def words0 : List (Nat × Instr) := [
    (0b00000000_011_1111000_0010101_0110010, .add 3 120 21 50),
    (0b00000001_010_1111111_0011100_0111001, .sub 2 127 28 57),
    (0b00000010_001_0000110_0100011_1000000, .mul 1 6 35 64),
    (0b00000011_000_0001101_0101010_1000111, .mulh 0 13 42 71),
    (0b00000100_111_0010100_0110001_1001110, .mad 7 20 49 78),
    (0b00000101_110_0011011_0111000_1010101, .div 6 27 56 85),
    (0b00000110_101_0100010_0111111_1011100, .rem 5 34 63 92),
    (0b00000111_100_0101001_1000110_1100011, .min 4 41 70 99),
    (0b00001000_011_0110000_1001101_1101010, .max 3 48 77 106),
    (0b00001001_010_0110111_1010100_0000000, .abs 2 55 84),
    (0b00001010_001_0111110_1011011_0000000, .neg 1 62 91),
    (0b00001011_000_1000101_1100010_1111111, .cmp 0 69 98 127),
    (0b00001100_111_1001100_1101001_0000110, .add64 7 76 105 6),
    (0b00001101_110_1010011_1110000_0001101, .sub64 6 83 112 13),
    (0b00001110_101_1011010_1110111_0010100, .cmp64 5 90 119 20),
    (0b00001111_100_1100001_1111110_0011011, .lea 4 97 126 27),
    (0b00010000_000_1001011_1101000_0000101, .and 75 104 5),
    (0b00010001_000_1010010_1101111_0001100, .or 82 111 12),
    (0b00010010_000_1011001_1110110_0010011, .xor 89 118 19),
    (0b00010011_000_1100000_1111101_0011010, .andn 96 125 26),
    (0b00010100_000_1100111_0000100_0100001, .shl 103 4 33),
    (0b00010101_000_1101110_0001011_0101000, .shr 110 11 40),
    (0b00010110_000_1110101_0010010_0101111, .sar 117 18 47),
    (0b00010111_000_1111100_0011001_0110110, .rol 124 25 54),
    (0b00011000_000_0000011_0100000_0111101, .ror 3 32 61),
    (0b00011001_000_0001010_0100111_0000000, .popc 10 39),
    (0b00011010_000_0010001_0101110_0000000, .clz 17 46),
    (0b00011011_000_0011000_0110101_0000000, .ctz 24 53),
    (0b00011100_000_0011111_0111100_0000000, .brev 31 60),
    (0b00011101_00_1_1000011_1100000_1111101, .bfx 1 67 96 125),
    (0b00011110_000_0101101_1001010_1100111, .bfi 45 74 103)]

def words1 : List (Nat × Instr) := [
    (0b00011111_000_0110100_1010001_1101110, .sel 52 81 110 none),
    (0b00100000_0111011_1011000_0101110101, .addi 59 88 373 none),
    (0b00100001_1000010_1011111_0101111100, .andi 66 95 380 none),
    (0b00100010_1001001_1100110_0110000011, .ori 73 102 387 none),
    (0b00100011_1010000_1101101_0110001010, .xori 80 109 394 none),
    (0b00100100_1010111_1110100_00000_10001, .shli 87 116 17),
    (0b00100101_1011110_1111011_00000_11000, .shri 94 123 24),
    (0b00100110_1100101_0000010_00000_11111, .sari 101 2 31),
    (0b00100111_1101100_0001001_0110100110, .muli 108 9 422 none),
    (0b00101000_011_0010000_0101101_1001010, .shfl 3 16 45 74 none),
    (0b00101001_010_0010111_0110100_1010001, .vote 2 23 52 81),
    (0b00101010_001_0011110_0111011_1011000, .red 1 30 59 88),
    (0b00101011_000_0100101_1000010_1011111, .scan 0 37 66 95),
    (0b00101100_000_0001111_0101100_1001001, .perm 15 44 73 none),
    (0b00110000_110_0110011_1010000_1101101, .faddF32 6 51 80 109),
    (0b00110001_101_0111010_1010111_1110100, .fsubF32 5 58 87 116),
    (0b00110010_100_1000001_1011110_1111011, .fmulF32 4 65 94 123),
    (0b00110011_011_1001000_1100101_0000010, .fmacF32 3 72 101 2),
    (0b00110100_000_0110010_1001111_1101100, .fminF32 50 79 108),
    (0b00110101_000_0111001_1010110_1110011, .fmaxF32 57 86 115),
    (0b00110110_000_1011101_1111010_0010111, .cmpF32 0 93 122 23),
    (0b00110111_000_1000111_1100100_0000000, .rcpF32 71 100),
    (0b00110111_001_1001110_1101011_0000000, .rsqF32 78 107),
    (0b00110111_010_1010101_1110010_0000000, .sqrtF32 85 114),
    (0b00110111_011_1011100_1111001_0000000, .exp2F32 92 121),
    (0b00110111_100_1100011_0000000_0000000, .log2F32 99 0),
    (0b00110111_101_1101010_0000111_0000000, .tanhF32 106 7),
    (0b00111000_001_0001110_0101011_1001000, .faddF64 1 14 43 72),
    (0b00111001_000_0010101_0110010_1001111, .fsubF64 0 21 50 79),
    (0b00111010_111_0011100_0111001_1010110, .fmulF64 7 28 57 86),
    (0b00111011_110_0100011_1000000_1011101, .fmacF64 6 35 64 93)]

def words2 : List (Nat × Instr) := [
    (0b00111100_000_0001101_0101010_1000111, .fminF64 13 42 71),
    (0b00111101_000_0010100_0110001_1001110, .fmaxF64 20 49 78),
    (0b00111110_011_0111000_1010101_1110010, .cmpF64 3 56 85 114),
    (0b01000000_010_0111111_1011100_1111001, .faddF16 2 63 92 121),
    (0b01000001_001_1000110_1100011_0000000, .fmulF16 1 70 99 0),
    (0b01000010_000_1001101_1101010_0000111, .fmacF16 0 77 106 7),
    (0b01000011_111_1010100_1110001_0001110, .faddBf16 7 84 113 14),
    (0b01000100_110_1011011_1111000_0010101, .fmulBf16 6 91 120 21),
    (0b01000101_101_1100010_1111111_0011100, .fmacBf16 5 98 127 28),
    (0b01000110_100_1101001_0000110_0100011, .faddF16x2 4 105 6 35),
    (0b01000111_011_1110000_0001101_0101010, .fmulF16x2 3 112 13 42),
    (0b01001000_010_1110111_0010100_0110001, .fmacF16x2 2 119 20 49),
    (0b01001001_001_1111110_0011011_0111000, .faddBf16x2 1 126 27 56),
    (0b01001010_000_0000101_0100010_0111111, .fmulBf16x2 0 5 34 63),
    (0b01001011_111_0001100_0101001_1000110, .fmacBf16x2 7 12 41 70),
    (0b01001100_10_1_0110000_1001101_1101010, .fminFmaxHalf 2 1 48 77 106),
    (0b01001101_101_0011010_0110111_1010100, .cmpF16 5 26 55 84),
    (0b01001110_100_0100001_0111110_1011011, .cmpBf16 4 33 62 91),
    (0b01010000_011_0101000_1000101_0010_0_11, .cvtToFloat 3 40 69 2 3),
    (0b01010001_010_0101111_1001100_1001_110, .cvtToInteger 2 47 76 9 6),
    (0b01010010_001_0110110_1010011_0000_0_01, .cvtToNarrow 1 54 83 0 1),
    (0b01010011_000_0111101_1011010_1110111, .cvtBf16x2F32 0 61 90 119),
    (0b01010100_111_1000100_1100001_1111110, .cvtF16x2F32 7 68 97 126),
    (0b01010101_110_1001011_1101000_0000101, .atomc 6 75 104 5),
    (0b01010110_000000000000_0110101_10010, .clre 53 18 none),
    (0b01010111_00000_0111100_1011001_10110, .tagld 60 89 22 none),
    (0b01011000_00000_1000011_1100000_11101, .tagst 67 96 29 none),
    (0b01011001_000000000000_1001010_00111, .pclr 74 7 none),
    (0b01011010_00_001_0000000_1101110_01011, .cwb 1 110 11 none),
    (0b01011011_00_000_0000000_1110101_10010, .cinv 0 117 18 none),
    (0b01011100_00_111_0000000_1111100_11001, .cflush 7 124 25 none)]

def words3 : List (Nat × Instr) := [
    (0b01011101_00_110_0000000_0000011_00000, .pref 6 3 0 none),
    (0b01011110_01_010_0100111_1000100_00001, .ldf 1 2 39 68 1 none),
    (0b01011111_00_001_0101110_1001011_01000, .stf 0 1 46 75 8 none),
    (0b01100000_11_000_0110101_1010010_01111, .ldS8 3 0 53 82 15 none),
    (0b01100001_10_111_0111100_1011001_10110, .ldN8 2 7 60 89 22 none),
    (0b01100010_01_110_1000011_1100000_11101, .ldS16 1 6 67 96 29 none),
    (0b01100011_00_101_1001010_1100111_00100, .ldN16 0 5 74 103 4 none),
    (0b01100100_11_100_1010001_1101110_01011, .ld32 3 4 81 110 11 none),
    (0b01100101_10_011_1011000_1110101_10010, .ld64 2 3 88 117 18 none),
    (0b01100110_01_010_1011111_1111100_11001, .ld128 1 2 95 124 25 none),
    (0b01100111_00_001_1100110_0000011_00000, .atom32 0 1 102 3 0 none),
    (0b01101000_11_000_1101101_0001010_00111, .st8 3 0 109 10 7 none),
    (0b01101001_10_111_1110100_0010001_01110, .st16 2 7 116 17 14 none),
    (0b01101010_01_110_1111011_0011000_10101, .st32 1 6 123 24 21 none),
    (0b01101011_00_101_0000010_0011111_11100, .st64 0 5 2 31 28 none),
    (0b01101100_11_100_0001001_0100110_00011, .st128 3 4 9 38 3 none),
    (0b01101101_10_011_0010000_0101101_01010, .atom64 2 3 16 45 10 none),
    (0b01101110_01_010_0010111_0110100_10001, .atom128 1 2 23 52 17 none),
    (0b01110000_00_000_0000001_0011110_11011, .ldc32 0 1 30 27 none),
    (0b01110001_11_000_0001000_0100101_00010, .ldc64 3 8 37 2 none),
    (0b01110010_10_000_0001111_0101100_01001, .ldc128 2 15 44 9 none),
    (0b01110011_01_000_0010110_0110011_10000, .ldcWK32 1 22 51 16 none),
    (0b01110100_00_000_0011101_0111010_10111, .ldcWK64 0 29 58 23 none),
    (0b01110101_11_000_0100100_1000001_11110, .ldcWK128 3 36 65 30 none),
    (0b01110110_10_000_0101011_1001000_00101, .ldcWC32 2 43 72 5 none),
    (0b01110111_01_000_0110010_1001111_01100, .ldcWC64 1 50 79 12 none),
    (0b01111000_00_000_0111001_1010110_10011, .ldcWC128 0 57 86 19 none),
    (0b01111001_11_000_1000000_1011101_11010, .stc32 3 64 93 26 none),
    (0b01111010_10_000_1000111_1100100_00001, .stc64 2 71 100 1 none),
    (0b01111011_01_000_1001110_1101011_01000, .stc128 1 78 107 8 none),
    (0b01111100_00_000_1010101_1110010_01111, .stcF32 0 85 114 15 none)]

def words4 : List (Nat × Instr) := [
    (0b01111101_11_000_1011100_1111001_10110, .stcF64 3 92 121 22 none),
    (0b01111110_10_000_1100011_0000000_11101, .stcF128 2 99 0 29 none),
    (0b01111111_00000_1001101_1101010_00111, .stcT128 77 106 7 none),
    (0b10000000_100_1110001_0001110_0101011, .uadd 4 113 14 43),
    (0b10000001_011_1111000_0010101_0110010, .usub 3 120 21 50),
    (0b10000010_010_1111111_0011100_0111001, .umul 2 127 28 57),
    (0b10000100_001_0000110_0100011_1000000, .umad 1 6 35 64),
    (0b10000101_000_0001101_0101010_1000111, .udiv 0 13 42 71),
    (0b10000110_111_0010100_0110001_1001110, .urem 7 20 49 78),
    (0b10000111_110_0011011_0111000_1010101, .umin 6 27 56 85),
    (0b10001000_101_0100010_0111111_1011100, .umax 5 34 63 92),
    (0b10001011_100_0101001_1000110_1100011, .ucmp 4 41 70 99),
    (0b10001100_011_0110000_1001101_1101010, .uadd64 3 48 77 106),
    (0b10001101_010_0110111_1010100_1110001, .usub64 2 55 84 113),
    (0b10001110_001_0111110_1011011_1111000, .ucmp64 1 62 91 120),
    (0b10001111_000_1000101_1100010_1111111, .ulea 0 69 98 127),
    (0b10010000_000_0101111_1001100_1101001, .uand 47 76 105),
    (0b10010001_000_0110110_1010011_1110000, .uor 54 83 112),
    (0b10010010_000_0111101_1011010_1110111, .uxor 61 90 119),
    (0b10010011_000_1000100_1100001_1111110, .uandn 68 97 126),
    (0b10010100_000_1001011_1101000_0000101, .ushl 75 104 5),
    (0b10010101_000_1010010_1101111_0001100, .ushr 82 111 12),
    (0b10010110_000_1011001_1110110_0010011, .usar 89 118 19),
    (0b10011001_000_1100000_1111101_0000000, .upopc 96 125),
    (0b10011010_000_1100111_0000100_0000000, .uclz 103 4),
    (0b10011011_000_1101110_0001011_0000000, .uctz 110 11),
    (0b10011101_00_1_0010010_0101111_1001100, .ubfx 1 18 47 76),
    (0b10011111_000_1111100_0011001_0110110, .usel 124 25 54 none),
    (0b10100000_0000011_0100000_0010111101, .uaddi 3 32 189 none),
    (0b10100001_0001010_0100111_0011000100, .uandi 10 39 196 none),
    (0b10100010_0010001_0101110_0011001011, .uori 17 46 203 none)]

def words5 : List (Nat × Instr) := [
    (0b10100100_0011000_0110101_00000_10010, .ushli 24 53 18),
    (0b10100101_0011111_0111100_00000_11001, .ushri 31 60 25),
    (0b10100110_0100110_1000011_00000_00000, .usari 38 67 0),
    (0b10101000_0101101_00000010011001010, .li 45 1226 none),
    (0b10101001_100_1010001_1101110_0001011, .ufaddF32 4 81 110 11),
    (0b10101010_011_1011000_1110101_0010010, .ufmulF32 3 88 117 18),
    (0b10101011_010_1011111_1111100_0011001, .ufmacF32 2 95 124 25),
    (0b10101100_001_1100110_0000011_0100000, .ucmpF32 1 102 3 32),
    (0b10101101_000_1101101_0001010_0111_0_00, .ucvtToFloat 0 109 10 7 0),
    (0b10101110_111_1110100_0010001_1110_011, .ucvtToInteger 7 116 17 14 3),
    (0b10110000_110_000000000010011111011, .prep 6 1275 none),
    (0b10110001_101_000_0000010_00000000000, .prepv 5 2),
    (0b10110010_100_000000000000000000000, .br 4),
    (0b10110011_011_000_0010000_00000000000, .brt 3 16),
    (0b10110100_010_000_0010111_00000000000, .brf 2 23),
    (0b10110101_001_000000000000000000000, .brnone 1),
    (0b10110110_000_000000000000000000000, .brany 0),
    (0b10110111_111_100_000000000000000000, .call 7 4),
    (0b10111000_110_000_0110011_00000000000, .bloop 6 51),
    (0b10111001_101_000000000000000000000, .binv 5),
    (0b10111010_100_001_000000000000000000, .bmov 4 1),
    (0b10111011_011_000_1001000_00000000000, .brd 3 72),
    (0b10111100_000000000000000000000000, .isync),
    (0b10111101_000000000000000000000000, .lexit),
    (0b10111110_000000000000000000000000, .exit),
    (0b10111111_000000000000000000000000, .nop),
    (0b11000000_000_1001110_00000000000000, .msave 78),
    (0b11000001_0000000000_1010101_0000000, .mload 85),
    (0b11000010_000_1011100_1111001_0010110, .mand 92 121 22),
    (0b11000011_000_1100011_0000000_0011101, .mandn 99 0 29),
    (0b11000100_000_1101010_0000111_0100100, .mor 106 7 36)]

def words6 : List (Nat × Instr) := [
    (0b11000101_0000000000_1110001_0000000, .mrestore 113),
    (0b11000110_000_1111000_00000000000000, .mall 120),
    (0b11000111_000_1111111_0011100_0000000, .mcount 127 28),
    (0b11001000_000_0000110_0100011_0000000, .mfirst 6 35),
    (0b11001001_000000000000000000000000, .yield),
    (0b11001010_00000000000000_0110010100, .brk 404),
    (0b11001011_00000000000000_0110011011, .svc 411),
    (0b11001100_0000000000_0100010_0000000, .rett 34),
    (0b11001101_0101001_00000_010111000110, .sysr 41 1478),
    (0b11001110_0110000_00000_010111001101, .sysw 48 1485),
    (0b11001111_000_0110111_1010100_1110001, .wline 55 84 113),
    (0b11010000_00_1_1011011_1111000_0010101, .mmaBf16 1 91 120 21),
    (0b11010001_00_1_1100010_1111111_0011100, .mmaF16 1 98 127 28),
    (0b11010010_00_1_1101001_0000110_0100011, .mmaT8 1 105 6 35),
    (0b11010011_00_1_1110000_0001101_0101010, .mmaT6 1 112 13 42),
    (0b11010100_00_1_1110111_0010100_0110001, .mmaI4 1 119 20 49),
    (0b11010101_01_1_0011011_0111000_1010101, .mmas 1 1 27 56 85 none),
    (0b11010110_00_1_0000101_0100010_0111111, .mmaqBf16 1 5 34 63),
    (0b11010111_00_1_0001100_0101001_1000110, .mmaqF16 1 12 41 70),
    (0b11011000_00_1_0010011_0110000_1001101, .mmaqT8 1 19 48 77),
    (0b11011001_00_1_0011010_0110111_1010100, .mmaqT6 1 26 55 84),
    (0b11011010_00_1_0100001_0111110_1011011, .mmaqI4 1 33 62 91),
    (0b11011011_11_1_1000101_1100010_1111111, .mmaqs 3 1 69 98 127 none),
    (0b11011100_0000000000_0010010_0000000, .mscl 18),
    (0b11011101_000_0011001_00000000000000, .mfence 25),
    (0b11011110_0000000000_0100000_0000000, .mwait 32),
    (0b11011111_000_0100111_0000000_1000100, .mstat 39 68),
    (0b11100000_000_0101110_1001011_1101000, .cpy 46 75 104),
    (0b11100001_000_0110101_1010010_1101111, .cpy2d 53 82 111 none),
    (0b11100010_000_0111100_1011001_1110110, .cpyx 60 89 118),
    (0b11100011_000_1000011_1100000_1111101, .cpyk 67 96 125 none)]

def words7 : List (Nat × Instr) := [
    (0b11100100_000000000000000000000000, .freeze),
    (0b11100100_000_1010001_00000000000001, .freezeKeep 81),
    (0b11100101_0000000000_1011000_0000000, .stemend 88),
    (0b11100110_111_000_1111100_00000000000, .spawn 7 124),
    (0b11100111_110_000_0000011_00000000000, .spawnf 6 3),
    (0b11101000_0000000000_1101101_0000000, .launch 109),
    (0b11101001_0000000000_1110100_0010001, .bar 116 17),
    (0b11101010_000_1111011_0011000_0110101, .arrive 123 24 53),
    (0b11101011_0000000000_0000010_0011111, .waitb 2 31),
    (0b11101100_0000000000_0001001_0000000, .quota 9),
    (0b11101101_000_0010000_0101101_0000000, .energy 16 45),
    (0b11101110_000_0010111_0110100_0000000, .bist 23 52),
    (0b11101111_0000000000_0011110_0000000, .trc 30),
    (0b11110000_000_0100101_1000010_1011111, .send 37 66 95),
    (0b11110001_000_0101100_1001001_1100110, .recv 44 73 102),
    (0b11110010_000_0110011_1010000_1101101, .probe 51 80 109),
    (0b11110011_000_0111010_1010111_0000000, .rwait 58 87),
    (0b11110100_000_1000001_1011110_1111011, .collRed 65 94 123),
    (0b11110101_000_1001000_1100101_0000010, .collBcast 72 101 2),
    (0b11110110_000_1001111_1101100_0001001, .collGath 79 108 9),
    (0b11110111_0000000000_1010110_0000000, .cwait 86),
    (0b11111000_000_1011101_1111010_0000000, .grun 93 122),
    (0b11111001_0000000000_1100100_0000001, .gset 100 1),
    (0b11111010_000_1101011_0001000_0000000, .gwait 107 8),
    (0b11111011_0000000000_1110010_0001111, .tlbinv 114 15),
    (0b11111100_0000000000000000000_01_110, .fence 1 6),
    (0b11111111_00_0000000000011100011101, .ext 1821 0)]

theorem test_decodes_words0 : decodesAll words0 = true := by decide +kernel
theorem test_decodes_words1 : decodesAll words1 = true := by decide +kernel
theorem test_decodes_words2 : decodesAll words2 = true := by decide +kernel
theorem test_decodes_words3 : decodesAll words3 = true := by decide +kernel
theorem test_decodes_words4 : decodesAll words4 = true := by decide +kernel
theorem test_decodes_words5 : decodesAll words5 = true := by decide +kernel
theorem test_decodes_words6 : decodesAll words6 = true := by decide +kernel
theorem test_decodes_words7 : decodesAll words7 = true := by decide +kernel

/-- Each takes its prefix, KIND and payload as Table 2-3 gives them. -/
theorem test_decodes_pairs :
    decodeTableWord 64 (0b11111111_00_0000000000000000000101 + 0b00100000_0000001_0000010_0000000011 * 2 ^ 32) =
      some (.addi 1 2 3 (some 5)) ∧
    decodeTableWord 64 (0b11111111_01_0000000000000000000101 + 0b00011111_000_0000001_0000010_0000011 * 2 ^ 32) =
      some (.sel 1 2 3 (some 0x400005)) ∧
    decodeTableWord 64 (0b11111111_10_0000000000000000000101 + 0b01100111_00_000_0000001_0000010_00011 * 2 ^ 32) =
      some (.atom32 0 0 1 2 3 (some 0x800005)) := by decide +kernel
/-- A field that Table 2-4 fixes at zero makes the word no instruction (R59). -/
theorem test_rejects_nonzero_fixed_field :
    decodeTableWord 32 0b00010000_001_0000011_0000001_0000010 = some (.wordNotAnInstruction 0x1020C082) := by decide +kernel
theorem test_rejects_short_bytes : decode [0, 0, 0] = .error .truncatedWord ∧ decode [0, 0, 0, 0xFF, 0] = .error .truncatedPair :=
  ⟨rfl, rfl⟩

/-! ### Results, worked out by hand from Tables 3-1 to 5-9 -/

/-- The group in hand with values in registers, the same in every lane. -/
def State.put (s : State) (ws : List (Nat × Word)) : State :=
  { s with g := { s.g with
    regs := ws.foldl (fun (r : Vector Lanes 128) (w : Nat × Word) => r.setIfInBounds w.1 (Lanes.uni w.2)) s.g.regs } }

/-- The supervisor group at reset with values in v4 to v30. -/
def vals : State := State.put State.reset [(4, 7), (5, 0xFFFFFFFD), (6, 0x7FFFFFFF), (7, 1), (8, 0x80000001), (9, 0x50),
  (10, 0xFFFFFFFF), (11, 1), (12, 1), (14, 0x3FC00000), (15, 0xC0000000), (17, 0x3FF80000), (19, 0xC0000000),
  (20, 0x3E003E00), (21, 0xC000C000), (22, 0x3FC03FC0), (24, 0x404), (25, 0x3F803F80), (26, 0x3F800000),
  (27, 0x3C003C00), (29, 0x3FF00000), (30, 10)]

/-- Lanes 5 and 127 execute. -/
def few : State := { vals with g := { vals.g with exec := 0x80000000000000000000000000000020 } }

/-- Register `r` of lane `j` after the instruction. -/
def lane (s : State) (i : Instr) (r : Nat) (j : Fin 128) : Option Word :=
  match exec i s with
  | .next t => some (t.g.rd r)[j]
  | _ => none

def allGive (s : State) (j : Fin 128) (ts : List (Instr × Nat × Word)) : Bool :=
  ts.all fun (t : Instr × Nat × Word) => lane s t.1 t.2.1 j == some t.2.2

theorem test_vals : (vals.g.rd 30)[3] = 10#32 ∧ (vals.g.rd 10)[0] = 0xFFFFFFFF#32 := by decide +kernel

/-- v4 = 7, v5 = −3, v7 = 1: wrapping, clamping, quotients toward zero, the signed and unsigned order. -/
theorem test_lane_integers : allGive few 5 [
    (.add 0 30 5 7, 30, 0xFFFFFFFE), (.add 1 30 6 7, 30, 0x7FFFFFFF), (.sub 3 30 7 4, 30, 0), (.mul 0 30 4 5, 30, 0xFFFFFFEB),
    (.mulh 0 30 4 5, 30, 0xFFFFFFFF), (.mulh 2 30 4 5, 30, 6), (.mad 0 30 4 5, 30, 0xFFFFFFF5), (.div 0 30 4 5, 30, 0xFFFFFFFE),
    (.div 0 30 4 0, 30, 0xFFFFFFFF), (.div 1 30 5 0, 30, 0x80000000), (.rem 0 30 5 4, 30, 0xFFFFFFFD), (.rem 0 30 4 5, 30, 1),
    (.min 0 30 4 5, 30, 0xFFFFFFFD), (.max 2 30 4 5, 30, 0xFFFFFFFD), (.abs 0 30 5, 30, 3), (.neg 0 30 4, 30, 0xFFFFFFF9),
    (.cmp 2 30 5 4, 30, 1), (.cmp 4 30 5 4, 30, 0)] = true := by decide +kernel
theorem test_lane_pairs : allGive few 127 [
    (.add64 0 30 10 12, 31, 2), (.add64 0 30 10 12, 30, 0), (.sub64 0 30 10 12, 30, 0xFFFFFFFE), (.cmp64 2 30 12 10, 30, 1),
    (.lea 2 30 10 5, 30, 0xFFFFFFF3), (.lea 2 30 10 5, 31, 1)] = true := by decide +kernel
theorem test_lane_logic : allGive few 127 [
    (.and 30 4 5, 30, 5), (.or 30 4 5, 30, 0xFFFFFFFF), (.xor 30 4 5, 30, 0xFFFFFFFA), (.andn 30 4 5, 30, 2),
    (.shl 30 4 7, 30, 14), (.shl 30 4 5, 30, 0), (.shr 30 5 7, 30, 0x7FFFFFFE), (.sar 30 5 7, 30, 0xFFFFFFFE),
    (.sar 30 5 5, 30, 0xFFFFFFFF), (.rol 30 8 7, 30, 3), (.ror 30 8 7, 30, 0xC0000000), (.popc 30 5, 30, 31), (.clz 30 4, 30, 29),
    (.ctz 30 9, 30, 4), (.clz 30 0, 30, 32), (.brev 30 4, 30, 0xE0000000)] = true := by decide +kernel
theorem test_lane_fields_and_immediates : allGive few 5 [
    (.bfx 0 30 9 24, 30, 5), (.bfx 1 30 5 24, 30, 0xFFFFFFFF), (.bfi 30 4 24, 30, 0x7A), (.sel 30 4 5 none, 30, 0xFFFFFFFD),
    (.sel 30 4 5 (some 0x400007), 30, 7), (.addi 30 4 0x3FF none, 30, 6), (.addi 30 4 3 (some 1), 30, 0x40A),
    (.andi 30 5 0x3FF none, 30, 0x3FD), (.ori 30 9 1 none, 30, 0x51), (.xori 30 4 7 none, 30, 0), (.shli 30 4 4, 30, 0x70),
    (.shri 30 5 4, 30, 0x0FFFFFFF), (.sari 30 5 1, 30, 0xFFFFFFFE), (.muli 30 4 0x3FE none, 30, 0xFFFFFFF2)] = true := by
  decide +kernel
/-- 1.5 and −2.0 in each format; 1.0 as the addend of a multiply-accumulate. -/
theorem test_lane_f32 : allGive few 5 [
    (.faddF32 0 30 14 15, 30, 0xBF000000), (.fsubF32 0 30 14 15, 30, 0x40600000), (.fmulF32 0 30 14 15, 30, 0xC0400000),
    (.fmacF32 0 26 14 15, 26, 0xC0000000), (.fminF32 30 14 15, 30, 0xC0000000), (.fmaxF32 30 14 15, 30, 0x3FC00000),
    (.cmpF32 2 30 15 14, 30, 1), (.rcpF32 30 15, 30, 0xBF000000), (.rsqF32 30 26, 30, 0x3F800000),
    (.sqrtF32 30 15, 30, 0x7FC00000), (.exp2F32 30 15, 30, 0x3E800000), (.log2F32 30 26, 30, 0), (.tanhF32 30 0, 30, 0)] = true := by
  decide +kernel
theorem test_lane_f64 : allGive few 5 [
    (.faddF64 0 30 16 18, 31, 0xBFE00000), (.fsubF64 0 30 16 18, 31, 0x400C0000), (.fmulF64 0 30 16 18, 31, 0xC0080000),
    (.fmacF64 0 28 16 18, 29, 0xC0000000), (.fminF64 30 16 18, 31, 0xC0000000), (.fmaxF64 30 16 18, 31, 0x3FF80000),
    (.cmpF64 2 30 18 16, 30, 1)] = true := by decide +kernel
theorem test_lane_halves : allGive few 127 [
    (.faddF16 0 30 20 21, 30, 0xB800), (.fmulF16 0 30 20 21, 30, 0xC200), (.fmacF16 0 27 20 21, 27, 0xC000),
    (.faddBf16 0 30 22 21, 30, 0xBF00), (.fmulBf16 0 30 22 21, 30, 0xC040), (.fmacBf16 0 25 22 21, 25, 0xC000),
    (.faddF16x2 0 30 20 21, 30, 0xB800B800), (.fmulF16x2 0 30 20 21, 30, 0xC200C200), (.fmacF16x2 0 27 20 21, 27, 0xC000C000),
    (.faddBf16x2 0 30 22 21, 30, 0xBF00BF00), (.fmulBf16x2 0 30 22 21, 30, 0xC040C040), (.fmacBf16x2 0 25 22 21, 25, 0xC000C000),
    (.fminFmaxHalf 2 1 30 20 21, 30, 0x3E003E00), (.cmpF16 2 30 21 20, 30, 1), (.cmpBf16 2 30 22 21, 30, 0)] = true := by
  decide +kernel
/-- Source code 9 is f32 and 2 is s32 (R72); the packed conversion is the example of R117. -/
theorem test_conversions : allGive few 5 [
    (.cvtToFloat 0 30 5 2 1, 30, 0xC0400000), (.cvtToInteger 1 30 14 9 2, 30, 1), (.cvtToNarrow 0 30 0 9 0, 30, 0),
    (.cvtF16x2F32 0 30 14 15, 30, 0xC0003E00), (.cvtBf16x2F32 0 30 14 15, 30, 0xC0003FC0)] = true ∧
    packTo bf16 0#3 0x3F808000#32 0x3F818000#32 = 0x3F823F80#32 := by decide +kernel
/-- v1 holds the lane numbers: 0 + … + 127 = 8128, and lanes 0 to 5 add up to 15. -/
theorem test_cross_lane : allGive few 5 [
    (.shfl 0 30 1 7 (some 0x400007), 30, 1), (.shfl 1 30 1 7 (some 0x400007), 30, 6), (.shfl 2 30 1 7 (some 0x400007), 30, 122),
    (.shfl 0 30 1 7 none, 30, 5), (.vote 0 30 7 7, 30, 128), (.vote 0 30 7 0, 30, 2), (.vote 1 30 7 7, 30, 5),
    (.red 0 30 1 7, 30, 8128), (.scan 0 30 1 7, 30, 15), (.perm 30 1 1 (some 0x400007), 30, 5)] = true := by
  decide +kernel
theorem test_uniform : allGive few 64 [
    (.uadd 0 30 5 7, 30, 0xFFFFFFFE), (.usub 3 30 7 4, 30, 0), (.umul 0 30 4 5, 30, 0xFFFFFFEB), (.udiv 0 30 4 5, 30, 0xFFFFFFFE),
    (.urem 0 30 4 5, 30, 1), (.umin 0 30 4 5, 30, 0xFFFFFFFD), (.umax 2 30 4 5, 30, 0xFFFFFFFD), (.umad 0 30 4 5, 30, 0xFFFFFFF5),
    (.ucmp 2 30 5 4, 30, 1), (.uadd64 0 30 10 12, 31, 2), (.usub64 0 30 10 12, 30, 0xFFFFFFFE), (.ucmp64 2 30 12 10, 30, 1),
    (.ulea 2 30 10 5, 30, 0xFFFFFFF3), (.uadd 0 30 1 0, 30, 5)] = true := by decide +kernel
theorem test_uniform_logic : allGive few 64 [
    (.uand 30 4 5, 30, 5), (.uor 30 4 5, 30, 0xFFFFFFFF), (.uxor 30 4 5, 30, 0xFFFFFFFA), (.uandn 30 4 5, 30, 2),
    (.ushl 30 4 7, 30, 14), (.ushr 30 5 7, 30, 0x7FFFFFFE), (.usar 30 5 7, 30, 0xFFFFFFFE), (.upopc 30 5, 30, 31), (.uclz 30 4, 30, 29),
    (.uctz 30 9, 30, 4), (.ubfx 1 30 5 24, 30, 0xFFFFFFFF), (.usel 30 4 5 none, 30, 0xFFFFFFFD), (.uaddi 30 4 0x3FF none, 30, 6),
    (.uandi 30 5 0x3FF none, 30, 0x3FD), (.uori 30 9 1 none, 30, 0x51), (.ushli 30 4 4, 30, 0x70), (.ushri 30 5 4, 30, 0x0FFFFFFF),
    (.usari 30 5 1, 30, 0xFFFFFFFE), (.li 30 0x1FFFF none, 30, 0xFFFFFFFF)] = true := by decide +kernel
theorem test_uniform_floats : allGive few 64 [
    (.ufaddF32 0 30 14 15, 30, 0xBF000000), (.ufmulF32 0 30 14 15, 30, 0xC0400000), (.ufmacF32 0 26 14 15, 26, 0xC0000000),
    (.ucmpF32 2 30 15 14, 30, 1), (.ucvtToFloat 0 30 5 2 1, 30, 0xC0400000), (.ucvtToInteger 1 30 14 9 2, 30, 1)] = true := by
  decide +kernel
theorem test_mask_reads : allGive vals 3 [
    (.msave 30, 30, 1), (.mcount 30 7, 30, 128), (.mfirst 30 0, 30, 128), (.mfirst 30 7, 30, 0), (.mall 30, 30, 1),
    (.mand 30 7 0, 30, 0), (.mandn 30 7 0, 30, 1), (.mor 30 7 0, 30, 1)] = true := by decide +kernel

/-! ### States and operands that meet the hypotheses of the obligations

A witness names the obligation and, where it has several clauses, meets the hypotheses of each. -/

/-- One lane executes; v4:v5 points to address 0x1000, v8:v9 to a code address, v30 holds 1. -/
def solo : State :=
  let s := State.put State.reset [(4, 0x1000), (6, 0xAABBCCDD), (7, 1), (8, 0x2000), (10, 0x40), (30, 1)]
  { s with g := { s.g with exec := 1 } }

/-- The same group as a user group of the first team. -/
def user : State := { solo with g := { solo.g with priv := false, tid := firstTeam } }

def issuesB (i : Instr) (ops : List Opnd) (s : State) : Bool :=
  @decide (Issues i ops s) (by unfold Issues; infer_instance)
def roomyB (s : State) (ws : List (Nat × Lanes)) : Bool := @decide (Roomy s ws) (by unfold Roomy; infer_instance)
def reachesB (s : State) (m : MemOp) (qs : List LaneReq) (accs : List LaneAcc) : Bool :=
  @decide (Reaches s m qs accs) (by unfold Reaches; infer_instance)
def inMemoryB (accs : List LaneAcc) : Bool := @decide (InMemory accs) (by unfold InMemory InRam; infer_instance)
def inRamB (ga n : Nat) : Bool := (List.range n).all fun j => gaRegion (ga + j) != 15
def inOrderB (s : State) : Bool := @decide (InOrder s) (by unfold InOrder; infer_instance)
def settledB (s : State) : Bool := inOrderB s && s.snoop.isEmpty

/-- The accesses that stage 1 finds. -/
def accsOf (s : State) (m : MemOp) (qs : List LaneReq) : List LaneAcc :=
  (qs.map (s.laneCheck m)).filterMap fun r => match r with
    | .ok a => some a
    | _ => none

/-- The first piece of a translation. -/
def firstPiece (r : ARes) : Piece :=
  match r with
  | .ok (p :: _) => p
  | _ => ⟨0, 0, 0, ⟨0, 0, 0, 0, false, 0, none⟩⟩

theorem witness_DecodeOfEncode : (Instr.add 1 2 3 127).encodable = true ∧ (Instr.add 1 2 3 127).wf = true ∧
    (Instr.sel 1 2 3 (some 0x400007)).encodable = true ∧ (Instr.sel 1 2 3 (some 0x400007)).wf = true := by decide +kernel
theorem witness_DecodedIsWellFormed : decode [0x82, 0xC0, 0x00, 0x00] = .ok (.add 0 3 1 2, []) := by rfl
theorem test_encode_pair : encode (.addi 1 2 3 (some 5)) = [0xFF000005#32, 0x20020803#32] := by decide +kernel

/-- The word at the pc is fetched; or it stands in the run, alone or as the pair of an `ext`. -/
theorem witness_StepRunsDecoded :
    (let s := State.reset
     let e := s.enter
     let r := e.xlat e.g.ctx (e.g.pc.toNat / 16 * 16) 16 .fetch
     let p := firstPiece r
     s.agenda = [] ∧ s.beat = false ∧ s.mayRun s.g.key = true ∧ Store.find (e.g.pc.toNat / 16) e.g.run = none ∧ r = .ok [p] ∧
     gaRegion p.x.ga ≠ 15 ∧ e.markRefused p.x = false ∧
     e.lineState .fetch ⟨0, e.g.pc.toNat / 16 * 16, p.x.ga, e.g.pc.toNat / 16 * 16, p.x.home, 16⟩ = .ok ∧
     e.isPoison (p.x.ga / 128) = false ∧ e.isBad (p.x.ga / 16) = false ∧
     lastExt (((e.mark [p]).establish (p.x.ga / 16)).bytes p.x.ga 16) = false) ∧
    (let s := { State.reset with g := { State.reset.g with
        run := [(0, [0x01, 0x00, 0x00, 0xFF, 0x03, 0x08, 0x02, 0x20, 0, 0, 0, 0, 0, 0, 0, 0])] } }
     s.agenda = [] ∧ s.beat = false ∧ s.mayRun s.g.key = true ∧ (Store.find (s.enter.g.pc.toNat / 16) s.enter.g.run).isSome = true ∧
     s.enter.g.pc.toNat % 16 ≤ 8 ∧ decodeTableWord 64 0x20020803FF000001 = some (.addi 1 2 3 (some 1))) := by decide +kernel

theorem witness_MemoryLaws : Memory.wf [(5, 1), (9, 2)] = true ∧ Memory.wf [] = true ∧ Memory.wf [(5, 0)] = false := by
  decide +kernel

/-- Whether the effect of an instruction exists and its instruction issues and finds its rows. -/
def effectMeets (s : State) (e : Option Effect) (i : Instr) : Bool :=
  match e with
  | some e => issuesB i e.ops s && roomyB s e.ws
  | none => false

/-- One term of each constructor of the lane families. -/
def laneInts : List Instr := [.add 0 30 4 6, .sub 3 30 4 6, .mul 1 30 4 6, .mulh 2 30 4 6, .mad 0 30 4 6, .div 1 30 4 6, .rem 2 30 4 6,
  .min 0 30 4 6, .max 2 30 4 6, .abs 0 30 4, .neg 1 30 4, .cmp 5 30 4 6, .add64 3 30 4 6, .sub64 0 30 4 6, .cmp64 0 30 4 6,
  .lea 7 30 4 6, .and 30 4 6, .or 30 4 6, .xor 30 4 6, .andn 30 4 6, .shl 30 6 4, .shr 30 6 4, .sar 30 6 4, .rol 30 6 4,
  .ror 30 6 4, .popc 30 6] ++ [.clz 30 6, .ctz 30 6, .brev 30 6, .bfx 1 30 4 6, .bfi 127 4 6, .sel 30 4 6 (some 0x400007), .addi 30 4 1 none,
  .andi 30 4 1 none, .ori 30 4 1 (some 1), .xori 30 4 1 none, .muli 30 4 1 none, .shli 30 4 31, .shri 30 4 1, .sari 30 4 1]
def laneFloats : List Instr := [.faddF32 7 30 4 6, .fsubF32 0 30 4 6, .fmulF32 0 30 4 6, .fmacF32 0 30 4 6, .fminF32 30 4 6,
  .fmaxF32 30 4 6, .cmpF32 5 30 4 6, .rcpF32 30 0, .rsqF32 30 0, .sqrtF32 30 4, .exp2F32 30 0, .log2F32 30 0, .tanhF32 30 0,
  .faddF64 0 30 4 6, .fsubF64 0 30 4 6, .fmulF64 0 30 4 6, .fmacF64 0 30 4 6, .fminF64 30 4 6, .fmaxF64 30 4 6] ++
  [.cmpF64 5 30 4 6, .faddF16 0 30 4 6, .fmulF16 0 30 4 6, .fmacF16 0 30 4 6, .faddBf16 0 30 4 6, .fmulBf16 0 30 4 6,
  .fmacBf16 0 30 4 6, .faddF16x2 0 30 4 6, .fmulF16x2 0 30 4 6, .fmacF16x2 0 30 4 6, .faddBf16x2 0 30 4 6, .fmulBf16x2 0 30 4 6,
  .fmacBf16x2 0 30 4 6, .fminFmaxHalf 3 1 30 4 6, .cmpF16 5 30 4 6, .cmpBf16 0 30 4 6, .cvtToFloat 0 30 4 2 1, .cvtToInteger 1 30 4 9 2,
  .cvtToNarrow 0 30 4 9 0, .cvtBf16x2F32 0 30 4 6, .cvtF16x2F32 0 30 4 6]
def crossLanes : List Instr := [.shfl 3 30 4 6 none, .vote 2 30 7 0, .red 7 30 4 0, .scan 0 30 4 0, .perm 30 4 0 none]
def uniforms : List Instr := [.uadd 0 30 4 6, .usub 3 30 4 6, .umul 0 30 4 6, .udiv 1 30 4 6, .urem 0 30 4 6, .umin 0 30 4 6, .umax 2 30 4 6,
  .umad 0 30 4 6, .ucmp 5 30 4 6, .uadd64 0 30 4 6, .usub64 0 30 4 6, .ucmp64 0 30 4 6, .ulea 7 30 4 6, .uand 30 4 6, .uor 30 4 6,
  .uxor 30 4 6, .uandn 30 4 6, .ushl 30 6 4, .ushr 30 6 4, .usar 30 6 4, .upopc 30 4, .uclz 30 4, .uctz 30 4, .ubfx 1 30 4 6,
  .usel 30 4 6 none] ++ [.uaddi 30 4 1 none, .uandi 30 4 1 none, .uori 30 4 1 none, .ushli 30 4 31, .ushri 30 4 1, .usari 30 4 1,
  .li 30 1 (some 1), .ufaddF32 0 30 4 6, .ufmulF32 0 30 4 6, .ufmacF32 0 30 4 6, .ucmpF32 0 30 4 6, .ucvtToFloat 0 30 4 2 1,
  .ucvtToInteger 1 30 4 9 2, .brd 7 30, .msave 30, .mcount 30 4, .mfirst 30 4, .mstat 30 0]

theorem witness_LaneResult_integers : (laneInts.all fun i => effectMeets solo (laneIntEffect i solo.g) i) = true ∧ solo.g.exec ≠ 0 := by
  decide +kernel
theorem witness_LaneResult_floats : (laneFloats.all fun i => effectMeets solo (laneFloatEffect i solo.g) i) = true := by
  decide +kernel
theorem witness_LaneResult_cross : (crossLanes.all fun i => effectMeets solo (crossLaneEffect i solo.g) i) = true := by
  decide +kernel
/-- With EXEC all zeros. -/
theorem witness_LaneResult_idle :
    (let s := { solo with g := { solo.g with exec := 0 } }
     effectMeets s (laneIntEffect (.add 0 30 4 6) s.g) (.add 0 30 4 6) = true ∧ s.g.exec = 0) := by decide +kernel
theorem witness_UniformResult : (uniforms.all fun i => effectMeets solo (uniformEffect i solo) i) = true ∧ 2 ≤ solo.freeRows := by
  decide +kernel
/-- No row is left: the group holds all 1024, and a value that needs a wider slot. -/
theorem witness_UniformResult_noRow :
    (let s := { solo with g := { solo.g with rows := List.replicate 1024 ⟨4, [77]⟩ } }
     match uniformEffect (.li 30 1 none) s with
     | some e => issuesB (.li 30 1 none) e.ops s && !roomyB s e.ws
     | none => false) = true := by decide +kernel
theorem witness_ArithmeticValues : (0#3).getLsbD 0 = false ∧ (1#3).getLsbD 0 = true ∧ (1#3).getLsbD 1 = false ∧ (3#3).getLsbD 1 = true ∧
    (5#32 : Word) ≠ 0 ∧ 2 ^ 32 - 1 < 2 ^ (8 * 4) := by decide
theorem witness_ZeroRegister :
    (match laneIntEffect (.add 0 0 4 6) solo.g, uniformEffect (.uadd 0 0 4 6) solo with
     | some e, some f => issuesB (.add 0 0 4 6) e.ops solo && issuesB (.uadd 0 0 4 6) f.ops solo &&
         e.ws.all (fun w => w.1 == 0) && f.ws.all (fun w => w.1 == 0)
     | _, _ => false) = true := by decide +kernel

/-- A reserved modifier; a register one past the budget; an odd pair; each with the checks before it passed. -/
theorem witness_IllegalInstruction :
    (let s := { solo with g := { solo.g with budget := 40 } }
     Instr.reserved (.cmp 6 30 4 6) = true ∧ (laneIntEffect (.cmp 6 30 4 6) s.g).isSome = true ∧
     Instr.reserved (.add 0 40 4 6) = false ∧ (match laneIntEffect (.add 0 40 4 6) s.g with
       | some e => e.ops.any fun o => s.g.budget < o.base + o.count
       | none => false) = true ∧
     (match laneIntEffect (.add64 0 30 4 7) s.g with
       | some e => (e.ops.all fun o => o.base + o.count ≤ s.g.budget) && e.ops.any fun o => 1 < o.align && o.base % o.align != 0
       | none => false) = true) := by decide +kernel

/-- A frame pool on the die. -/
def pooled (s : State) : State := s.setDev 0 0x0408 0x100000

/-- A user group whose trap is a `svc`, its mailbox slot empty; a group whose die has a page-request ring and a frame pool; and the
supervisor group. -/
theorem witness_TrapEntry :
    (let s := user
     let c := s.core (coreKey s.g.dk s.g.core)
     s.g.priv = false ∧ (11 : Nat) ≠ 3 ∧ s.traced s.g = false ∧ c.posts = [] ∧
     s.isFull (coreAddr s.g.dk s.g.core (64 * (c.seq.toNat % 64)) / 16) = false) ∧
    (let s := pooled (user.setDev 0 0x0018 16)
     s.g.priv = false ∧ s.ringCount s.g.dk ≠ 0 ∧ s.poolRoom s.g.dk frameBytes = true ∧ 0x5000 ≠ hostVa) ∧
    user.ringCount user.g.dk = 0 ∧ solo.g.priv = true ∧ solo.traced solo.g = false := by decide +kernel

/-- A group suspended under token 1 and its record in mailbox slot 0. -/
def suspended : State :=
  let g := { user.g with status := .trapped, token := 1, core := 0 }
  { (solo.setBytes (coreAddr 0 0 0x1C) [1]) with
    groups := [(g.key, g)], full := [(coreAddr 0 0 0 / 16, true)] }

theorem witness_ServiceAndReturn :
    issuesB (.svc 1023) [] solo = true ∧ issuesB (.brk 5) [] solo = true ∧ issuesB (.rett 0) [one 0] suspended = true ∧
    suspended.g.priv = true ∧ suspended.isFull (coreAddr 0 0 0 / 16) = true ∧ suspended.rdN (coreAddr 0 0 0x38) 4 = 0 ∧
    inOrderB suspended = true ∧
    (match suspended.suspended 0 0 (BitVec.ofNat 32 (suspended.rdN (coreAddr 0 0 0x1C) 4)) with
     | some g => g.key != suspended.g.key && !suspended.traced g
     | none => false) = true ∧ solo.isFull (coreAddr 0 0 0 / 16) = false := by decide +kernel
/-- Its ACTION is not 0, and its team, of a launch, has not retired; a record whose token no group bears. -/
theorem witness_ServiceAndReturn_action :
    (let s := { suspended.setBytes (coreAddr 0 0 0x38) [1] with
       teams := [(firstTeam, { supervisorTeam 0 0 with kind := .grid, lk := 7, base := 4096 })] }
     issuesB (.rett 0) [one 0] s = true ∧ s.g.priv = true ∧ inOrderB s = true ∧ s.isFull (coreAddr 0 0 0 / 16) = true ∧
     s.rdN (coreAddr 0 0 0x38) 4 ≠ 0 ∧
     (match s.suspended 0 0 (BitVec.ofNat 32 (s.rdN (coreAddr 0 0 0x1C) 4)) with
      | some g => g.key != s.g.key && decide (firstTeam ≤ g.tid) && (s.team g.tid).status != .retired
      | none => false) = true) ∧
    (let s := suspended.setBytes (coreAddr 0 0 0x1C) [9]
     issuesB (.rett 0) [one 0] s = true ∧ s.isFull (coreAddr 0 0 0 / 16) = true ∧
     (s.suspended 0 0 (BitVec.ofNat 32 (s.rdN (coreAddr 0 0 0x1C) 4))).isNone = true) := by decide +kernel
theorem witness_ServiceAndReturn_privileged :
    user.g.priv = false ∧ issuesB (.rett 4) [one 4] user = true ∧ issuesB (.bist 30 4) [pair 30, one 4] user = true ∧
    issuesB (.tlbinv 4 6) [pair 4, one 6] user = true ∧ issuesB (.launch 4) [pair 4] user = true ∧
    issuesB (.pclr 4 0 none) ([pair 4] ++ opX none) user = true ∧ issuesB (.sysw 30 0x301) [pair 30] user = true ∧
    sysWidth 0x301 = some 64 ∧ issuesB (.sysr 30 0x301) [pair 30] user = true := by decide +kernel

/-- t2 valid, the others not; v8:v9 holds a code address, v10:v11 one with bit 1 set. -/
def aimed : State :=
  { (State.put solo [(10, 0x2002)]) with g := ({ (State.put solo [(10, 0x2002)]).g with budget := 128 }).setTarget 2 ⟨0x800, true, []⟩ }

theorem witness_ControlTransfer_targets :
    issuesB (.prep 7 1 none) [] aimed = true ∧ issuesB (.prepv 1 8) [pair 8] aimed = true ∧ (aimed.g.u64 8).getLsbD 1 = false ∧
    (aimed.g.u64 8).extractLsb' 56 4 = 0#4 ∧ issuesB (.prepv 1 10) [pair 10] aimed = true ∧ (aimed.g.u64 10).getLsbD 1 = true ∧
    issuesB (.bmov 1 2) [] aimed = true ∧ issuesB (.binv 2) [] aimed = true := by decide +kernel
theorem witness_ControlTransfer_transfers :
    (aimed.g.target 2).v = true ∧ (aimed.g.target 3).v = false ∧ aimed.traced aimed.g = false ∧
    ([Instr.br 2, .brt 2 7, .brf 2 0, .brnone 2, .brany 2, .br 3, .brt 2 0].all fun i => match transferOf i aimed.g with
      | some (ops, _, _) => issuesB i ops aimed
      | none => false) = true ∧
    issuesB (.call 2 2) [] aimed = true ∧ issuesB (.call 3 1) [] aimed = true ∧ issuesB (.bloop 2 7) [one 7] aimed = true ∧
    roomyB aimed [(7, Lanes.uni (aimed.g.u 7 - 1))] = true ∧ aimed.g.u 7 = 1 := by decide +kernel
theorem witness_TargetInvalidated : issuesB (.binv 2) [] aimed = true ∧ transferOf (.br 2) aimed.g = some ([], 2, true) ∧
    issuesB (.br 2) [] aimed = true ∧ issuesB (.call 2 1) [] aimed = true ∧ issuesB (.bloop 2 7) [one 7] aimed = true := by
  decide +kernel
theorem witness_MaskResult :
    ([Instr.mload 7, .mrestore 7, .mand 30 7 4, .mandn 30 7 4, .mor 30 7 4, .mall 30].all fun i => match maskEffect i solo.g with
      | some (e, _) => issuesB i e.ops solo && roomyB solo e.ws
      | none => false) = true ∧ issuesB (.mrestore 7) [one 7] solo = true ∧ inOrderB solo = true := by decide +kernel

/-- An uncounted fault of a batch, and an operation that is not complete. -/
def oneFault : EngFault := ⟨none, 0, 8, 1, some 3, 0, 0, 0, false⟩
def oneMatrix : MatOp := ⟨⟨none, 0, 0, 0⟩, 0x50, 0, 0, 16, [], [], [], [], 0, [], [], 0⟩

theorem witness_EndingAndPassing :
    issuesB .exit [] user = true ∧ issuesB .lexit [] user = true ∧ user.g.priv = false ∧ user.g.mat = [] ∧
    user.pendingWork user.g.key = false ∧ user.g.faults = [] ∧ user.g.colls = [] ∧ user.traced user.g = false ∧
    user.g.live &&& ~~~user.g.exec ≠ 0 ∧ solo.g.priv = true ∧
    (let s := { user with g := { user.g with live := 1 } }
     issuesB .lexit [] s = true ∧ s.g.live &&& ~~~s.g.exec = 0 ∧ s.pendingWork s.g.key = false ∧ s.traced s.g = false) ∧
    (let s := { user with g := { user.g with faults := [oneFault] } }
     issuesB .exit [] s = true ∧ oneFault.voids = false ∧ s.pendingWork s.g.key = false) ∧
    (let s := { user with g := { user.g with mat := [oneMatrix] } }
     issuesB .exit [] s = true ∧ s.g.mat ≠ []) := by decide +kernel
theorem witness_EndingAndPassing_passing :
    issuesB .nop [] solo = true ∧ ([0#2, 1, 2, 3].all fun k => issuesB (.fence k 2) [] solo && issuesB (.fence k 1) [] solo) = true ∧
    inOrderB solo = true ∧ solo.g.mo.pend = [] ∧ issuesB (.pref 3 4 31 none) ([pair 4] ++ opX none) solo = true ∧
    issuesB .isync [] solo = true ∧ issuesB .yield [] user = true := by decide +kernel
theorem witness_SupervisorEnding : issuesB .exit [] solo = true ∧ issuesB .lexit [] solo = true ∧ solo.g.priv = true := by decide +kernel

/-! ### Memory -/

def loads : List Instr := [.ldS8 0 0 30 4 0 none, .ldN8 0 0 30 4 31 none, .ldS16 0 0 30 4 0 none, .ldN16 0 0 30 4 1 none,
  .ld32 0 0 30 4 0 none, .ld64 0 0 30 4 1 (some 1), .ld128 0 0 28 4 0 none]
def stores : List Instr := [.st8 0 0 30 4 31 none, .st16 0 0 30 4 0 none, .st32 0 0 30 4 0 none, .st64 0 0 30 4 0 none,
  .st128 0 0 28 4 0 none]

def loadMeets (s : State) (held : Bool) (i : Instr) : Bool :=
  match loadForm i with
  | some (n, sg, d, a, k, x) =>
    let qs := s.g.reqs a n n (memK k x) x
    let accs := accsOf s loadOp qs
    let s' := s.ready accs
    let r := s'.loadLanes (orderForm i).1.toNat (orderForm i).2.toNat accs
    issuesB i ([opndOf n d, pair a] ++ opX x) s && reachesB s loadOp qs accs && inMemoryB accs &&
      s'.holds (orderForm i).1.toNat ((lanePieces accs).map (·.2)) == held &&
      if held then (s.g.reserve s.freeRows d.toNat (regsOf n)).isSome
      else roomyB r.1 (s.g.resRegs d.toNat (regsOf n) (r.2.map fun v => (v.1, if sg then signExt n v.2 else v.2)))
  | none => false
def storeMeets (s : State) (i : Instr) : Bool :=
  match storeForm i with
  | some (n, d, a, k, x) =>
    let qs := s.g.reqs a n n (memK k x) x
    let accs := accsOf s storeOp qs
    issuesB i ([opndOf n d, pair a] ++ opX x) s && reachesB s storeOp qs accs && inMemoryB accs && accs.length == 1 &&
      (accs.all fun c => c.ps.length == 1 && (s.defer.isEmpty || (s.defer.head?.getD []).contains (2 * c.lane.val))) &&
      accs.all fun c => c.ps.all fun p => p.off == 0 && p.len == n && decide (p.x.ga % 16 + n ≤ 16) &&
        ((s.ready accs).loose p.x.home p.x.ga || s.defer.isEmpty)
  | none => false

/-- The group under address space 1, which maps page 0 without a format, its next relaxed access held back. -/
def holding : State :=
  { solo with
    defer := [[0]]
    g := { solo.g with asn := 1 }
    tlb := [⟨0, 1, 0, 65536, 0xFF, 0⟩] }
/-- A store of another instruction that is not performed, of 2 bytes at 0x1000. -/
def aPend : Pend := ⟨0, 0, 0x1000, [1, 2], false, true, 0, 0, [], false, false⟩
theorem witness_LoadResult : (loads.all (loadMeets solo false)) = true ∧ solo.g.exec ≠ 0 ∧ inOrderB solo = true ∧
    (loads.all (loadMeets holding true)) = true ∧ holding.g.mo.loads = [] := by decide +kernel
theorem witness_StoreResult : (stores.all (storeMeets solo)) = true ∧ inOrderB solo = true ∧
    (stores.all (storeMeets holding)) = true ∧
    (let ps := [aPend, { aPend with ga := 0x2000, id := 1 }]
     mayPerform ps 0 = true ∧ mayPerform ps 1 = true) := by decide +kernel
/-- The address space 1 maps page 0 with an element format, every permission, and checks tags. -/
def paged : State :=
  { solo with
    g := { solo.g with asn := 1 }
    tlb := [⟨0, 1, 0, 65536, BitVec.ofNat 64 (0xFF + 1 * 2 ^ 11 + 2 ^ 15), 0⟩] }

theorem witness_TypedResult :
    (let k := memK 0 none
     let qa := paged.typedReqs .read 4 k none
     let qb := paged.typedReqs .write 4 k none
     let h := { paged with defer := [[0]] }
     let a := accsOf paged loadOp qa
     let b := accsOf paged storeOp qb
     issuesB (.ldf 0 0 28 4 0 none) ([quad 28, pair 4] ++ opX none) paged && reachesB paged loadOp qa a && a.length == 1 &&
     inMemoryB a && inOrderB paged && !(paged.ready a).holds 0 ((lanePieces a).map (·.2)) &&
     reachesB h loadOp qa a && (h.ready a).holds 0 ((lanePieces a).map (·.2)) && (h.g.reserve h.freeRows 28 4).isSome &&
     roomyB ((paged.ready a).readLanes 0 0 a).1
       (paged.g.resRegs 28 4 (a.map fun c => (c.lane, unpackFmt c.fmt (natLE ((paged.ready a).laneBytes c))))) &&
     issuesB (.stf 0 0 28 4 0 none) ([quad 28, pair 4] ++ opX none) paged && reachesB paged storeOp qb b && inMemoryB b &&
     b.length == 1 && b.all fun c => c.ps.all fun p => p.off == 0 && p.len == fmtBytes c.fmt && decide (p.x.ga % 16 + p.len ≤ 16)) =
      true := by decide +kernel

/-- A user group whose team has 8 KiB of core memory, granule 4 of it full; and the v registers of `solo`. -/
def cored : State :=
  { user with
    teams := [(firstTeam, { supervisorTeam 0 0 with kind := .grid, base := 4096, bytes := 8192 })]
    full := [((coreAddr 0 0 4096 + 0x40) / 16, true)]
    g := { user.g with regs := user.g.regs } }

def coreLoads : List Instr := [.ldc32 0 30 10 0 none, .ldc64 0 30 10 0 none, .ldc128 0 28 10 0 none, .ldcWK32 0 30 10 1 none, .ldcWK64 0 30 10 0 none,
  .ldcWK128 0 28 10 0 none, .ldcWC32 0 30 10 0 none, .ldcWC64 0 30 10 0 none, .ldcWC128 0 28 10 0 none]
def coreStores : List Instr := [.stc32 0 30 10 0 none, .stc64 0 30 10 0 none, .stc128 0 28 10 0 none, .stcF32 0 30 10 0 none, .stcF64 0 30 10 0 none,
  .stcF128 0 28 10 0 none]
def coreB (s : State) (size n : Nat) (offs : List (Fin 128 × Nat)) : Bool :=
  @decide (CoreReaches s size n offs) (by unfold CoreReaches; infer_instance)
def coreLoadMeets (s : State) (i : Instr) : Bool :=
  match coreLoadForm i with
  | some (n, waits, _, d, a, k, x) =>
    let offs := s.g.offs a n (memK k x) x
    let r := (if waits then s.flushCore offs else s).coreVals (orderForm i).1.toNat n (!waits) offs
    issuesB i ([opndOf n d, one a] ++ opX x) s && coreB s s.myTeam.cmem n offs && roomyB r.1 (s.g.resRegs d.toNat (regsOf n) r.2)
  | none => false
def coreStoreMeets (s : State) (i : Instr) : Bool :=
  match coreStoreForm i with
  | some (n, _, d, a, k, x) =>
    issuesB i ([opndOf n d, one a] ++ opX x) s && coreB s s.myTeam.cmem n (s.g.offs a n (memK k x) x)
  | none => false

theorem witness_CoreMemory : (coreLoads.all (coreLoadMeets cored)) = true ∧ (coreStores.all (coreStoreMeets cored)) = true ∧
    inOrderB cored = true ∧ ((cored.coreGranules (cored.g.offs 10 4 0 none)).all cored.isFull) = true ∧
    ((user.coreGranules (cored.g.offs 10 4 0 none)).any fun q => !user.isFull q) = true ∧
    coreLoadMeets { cored with full := [] } (.ldcWK32 0 30 10 1 none) = true ∧
    (let s := { cored with defer := [[0]] }
     coreLoadMeets s (.ldc32 0 30 10 0 none) = true ∧ s.holds 0 (s.coreGets 4 (s.g.offs 10 4 (memK 0 none) none)) = true ∧
     (s.g.reserve s.freeRows 30 1).isSome = true ∧ cored.holds 0 (cored.coreGets 4 (cored.g.offs 10 4 (memK 0 none) none)) = false) := by
  decide +kernel
theorem witness_ImageAndEmpty :
    issuesB (.stcT128 28 10 0 none) ([quad 28, one 10] ++ opX none) cored = true ∧
    issuesB (.clre 10 0 none) ([one 10] ++ opX none) cored = true ∧
    ((cored.g.offs 10 16 (memK 0 none) none).all fun o => decide (o.2 + 16 ≤ cored.myTeam.cmem) && o.2 % 16 == 0 &&
      !cored.engineOwns ((cored.teamBase cored.myTeam + o.2) / 128)) = true ∧
    ((solo.g.offs 10 16 (memK 0 none) none).all fun o => decide (o.2 + 16 ≤ solo.kernelBytes) && o.2 % 16 == 0) = true ∧
    issuesB (.stcT128 28 10 0 none) ([quad 28, one 10] ++ opX none) solo = true := by decide +kernel

def atomMeets (s : State) (i : Instr) : Bool :=
  match atomForm i with
  | some (n, d, a, k, x) =>
    let qs := (s.g.reqs a n n 0 x).map fun q => { q with more := if q.ptr % n = 0 then [] else [(3, 10)] }
    let m : MemOp := ⟨.rmw, true, true, s.hostAtom n k, false⟩
    let accs := accsOf s m qs
    let cas := k.toNat == 9
    let w := n / 4
    let opnd := fun (l : Fin 128) => s.g.laneWords (if cas then d.toNat + w else d.toNat) l w
    let cmp := fun (l : Fin 128) => s.g.laneWords d.toNat l w
    let r := (s.ready accs).atomicLanes (orderForm i).1.toNat (orderForm i).2.toNat accs n (fun l old => !cas || old == cmp l)
      fun l old => atomNew n k old (opnd l) (cmp l)
    issuesB i ([atomOpnd n cas d, pair a] ++ opX x) s && reachesB s m qs accs && inMemoryB accs && accs.length == 1 &&
      roomyB r.1 (s.g.resRegs d.toNat w r.2) && accs.all fun c => c.ps.length == 1 &&
        c.ps.all fun p => p.off == 0 && p.len == n && decide (p.x.ga % 16 + n ≤ 16) && p.x.mark.isNone
  | none => false
theorem witness_AtomicResult :
    ([Instr.atom32 0 0 30 4 0 none, .atom32 0 0 28 4 9 none, .atom64 0 0 30 4 8 none, .atom128 0 0 24 4 9 none].all (atomMeets solo)) = true ∧
    settledB solo = true ∧ (solo.holds 0 []) = false ∧
    (let i : Instr := .atom32 0 0 30 4 0 none
     let m : MemOp := ⟨.rmw, true, true, holding.hostAtom 4 0, false⟩
     let accs := accsOf holding m ((holding.g.reqs 4 4 4 0 none).map fun q => { q with more := [] })
     atomMeets holding i = true ∧ (holding.ready accs).holds 0 ((lanePieces accs).map (·.2)) = true ∧
     (holding.g.reserve holding.freeRows 30 1).isSome = true) ∧ inOrderB cored = true ∧ 2 ≤ cored.freeRows ∧ issuesB (.atomc 0 30 10 7) [one 30, one 10, one 7] cored = true ∧
    coreB cored cored.myTeam.cmem 4 ((lanesIn cored.g.exec).map fun l => (l, ((cored.g.rd 10)[l]).toNat)) = true := by decide +kernel

theorem witness_CacheAndTags :
    (let q := solo.g.unitReqs 4 128 (memK 0 none) none
     let t := solo.g.unitReqs 4 32 (memK 0 none) none
     let r : MemOp := ⟨.read, false, false, true, false⟩
     let h : MemOp := ⟨.cache, false, false, true, false⟩
     let w : MemOp := ⟨.write, false, false, true, false⟩
     let c : MemOp := ⟨.clear, false, false, true, false⟩
     ([Instr.cwb 3 4 0 none, .cinv 0 4 0 none, .cflush 2 4 0 none].all fun i => issuesB i ([pair 4] ++ opX none) solo) &&
     reachesB solo h q (accsOf solo h q) && (accsOf solo h q).length == 1 && reachesB solo r t (accsOf solo r t) && reachesB solo w t (accsOf solo w t) &&
     reachesB solo c q (accsOf solo c q) && (accsOf solo c q).length == 1 &&
     reachesB { solo with poison := [(32, true)] } c q (accsOf { solo with poison := [(32, true)] } c q) &&
     issuesB (.tagld 30 4 0 none) ([one 30, pair 4] ++ opX none) solo && issuesB (.tagst 30 4 0 none) ([one 30, pair 4] ++ opX none) solo &&
     roomyB (solo.ready (accsOf solo r t)) (solo.g.resRegs 30 1 ((accsOf solo r t).map fun c => (c.lane, 0))) && issuesB (.pclr 4 0 none) ([pair 4] ++ opX none) solo) = true ∧
    { solo with poison := [(32, true)] }.isPoison (0x1000 / 128) = true ∧ solo.isPoison (0x1000 / 128) = false := by decide +kernel

/-- v5:v4 with bit 56 set; an offset past the team's core memory; a misaligned one. -/
theorem witness_AccessFault :
    (let s := State.put solo [(5, 0x01000000)]
     issuesB (.ld32 0 0 30 4 0 none) ([opndOf 4 30, pair 4] ++ opX none) s = true ∧ lanesIn s.g.exec = [0] ∧
     bits (s.g.ea false 4 4 (memK 0 none) none 0) 59 56 ≠ 0) ∧
    (let s := State.put cored [(10, 8190)]
     let t := State.put cored [(10, 0x42)]
     issuesB (.ldc32 0 30 10 0 none) ([opndOf 4 30, one 10] ++ opX none) s = true ∧ lanesIn s.g.exec = [0] ∧
     s.myTeam.cmem < s.g.ea true 10 4 (memK 0 none) none 0 + 4 ∧
     t.g.ea true 10 4 (memK 0 none) none 0 + 4 ≤ t.myTeam.cmem ∧ t.g.ea true 10 4 (memK 0 none) none 0 % 4 ≠ 0) := by decide +kernel

/-- The fault is met by a lane, and comes first among all of them. -/
def faultB (s : State) (i : Instr) (t : Trap) : Bool :=
  match laneForm i s with
  | some (ops, m, qs) =>
    issuesB i ops s && s.g.exec != 0 && (qs.any fun q => s.laneCheck m q == .bad t) &&
      (qs.map (s.laneCheck m)).all fun r => match r with
        | .bad u => u == t || @decide (t.before u) (by unfold Trap.before; infer_instance)
        | _ => true
  | none => false
/-- Lane 0 of two points to 0x1002, lane 1 has bit 56 of its pointer set. -/
def twoLanes : State :=
  let s := State.put solo [(4, 0x1002)]
  { s with g := ({ s.g with exec := 3 }).wr 5 (Vector.ofFn fun l => if l.val = 1 then 0x01000000 else 0) }
theorem witness_AccessFault_lanes :
    ([(Instr.ld32 0 0 30 4 0 none, 0), (.st32 0 0 30 4 0 none, 1), (.atom32 0 0 30 4 0 none, 2)].all fun (p : Instr × Nat) =>
      faultB twoLanes p.1 ⟨3, 8, some 1, false, 0x0100000000001002, BitVec.ofNat 64 p.2, 0x1002⟩) = true := by decide +kernel
/-- Translations that fault: none, bit 56, across the heap's edge, a misaligned atomic, a leaf that denies reading, writing, a user. -/
theorem witness_AccessFault_translation :
    (let s := { solo with g := { solo.g with heap := { Heap.zero with attr := 1, base := 0x2000, limit := 0x3000 } } }
     let q : LaneReq := ⟨0, 0x1FFE, 0x1FFE, 4, []⟩
     solo.g.hostFail = none ∧ s.g.heap.holds 0x1FFE ≠ s.g.heap.holds (0x1FFE + 4 - 1) ∧ bits q.at_ 59 56 = 0 ∧
     bits (2 ^ 56) 59 56 ≠ 0) ∧
    (let q : LaneReq := ⟨0, 0x1002, 0x1002, 4, [(3, 10)]⟩
     (match solo.xlat solo.g.ctx q.at_ q.n .rmw with
      | .ok ps => (solo.pieceHits ⟨.rmw, true, true, true, false⟩ q ps).isEmpty
      | _ => false) = true) ∧
    ([(0xFD, Kind.read, true), (0xFB, .write, true), (0xFB, .rmw, true), (0xEF, .read, false)].all fun (p : Nat × Kind × Bool) =>
      let s := { paged.setDev 0 0x0008 2 with
        tlb := [⟨0, 1, 0, 65536, BitVec.ofNat 64 p.1, 0⟩], g := { paged.g with priv := p.2.2 } }
      bits (s.dev 0 0x0008).toNat 12 0 != 0 && !s.g.heap.attr.getLsbD 0 &&
      (match s.leafFor s.g.ctx 0x1000 p.2.1 with
       | (.leaf w, _) => w.lo == p.1
       | _ => false) && match s.xlat s.g.ctx 0x1000 4 p.2.1 with
       | .bad c k at_ _ => c == 3 && at_ == 0x1000 && k == (if p.1 = 0xFD then 2 else if p.1 = 0xFB then 3 else 5) &&
         (s.okPieces s.g.ctx 0x1000 4 p.2.1).isEmpty
       | _ => false) = true := by decide +kernel

/-- A store of 0xAABBCCDD at 0x1001 puts DD first (R55's byte order), and a signed byte load at 0x1004 reads AA. -/
theorem test_store_bytes :
    (match exec (.st32 0 0 6 4 0 none) (State.put solo [(4, 0x1001)]) with
     | .next t => t.bytes 0x1000 6 == [0, 0xDD, 0xCC, 0xBB, 0xAA, 0] && lane t (.ldS8 0 0 30 4 3 none) 30 0 == some 0xFFFFFFAA#32
     | _ => false) = true := by decide +kernel
/-- A relaxed store at die scope that is held back: memory keeps its zeros, its own lane reads the new bytes (R287), and
`fence.ar.die` performs it (R297). -/
theorem test_store_held :
    (match exec (.st32 0 2 6 4 0 none) holding with
     | .next t => t.bytes 0x1000 4 == [0, 0, 0, 0] && lane t (.ld32 0 2 30 4 0 none) 30 0 == some 0xAABBCCDD#32 &&
       (match exec (.fence 2 2) t with
         | .next u => u.bytes 0x1000 4 == [0xDD, 0xCC, 0xBB, 0xAA]
         | _ => false)
     | _ => false) = true := by decide +kernel
/-- An atomic add of 1 returns the old value and leaves the sum. -/
theorem test_atomic_add :
    (match exec (.atom32 0 0 30 4 0 none) (solo.setBytes 0x1000 [0xFF, 0xFF, 0xFF, 0xFF]) with
     | .next t => (t.g.rd 30)[0] == 0xFFFFFFFF#32 && t.rdN 0x1000 4 == 0
     | _ => false) = true := by decide +kernel
/-- `stc.f` fills its granule, `ldc.w.c` empties it. -/
theorem test_core_memory :
    (match exec (.stcF32 0 6 10 0 none) { cored with full := [] } with
     | .next t => t.isFull ((coreAddr 0 0 4096 + 0x40) / 16) && (match exec (.ldcWC32 0 28 10 0 none) t with
       | .next u => (u.g.rd 28)[0] == 0xAABBCCDD#32 && !u.isFull ((coreAddr 0 0 4096 + 0x40) / 16)
       | _ => false)
     | _ => false) = true := by decide +kernel

/-! ### Matrix operations, teams, stems -/

/-- A user group of a quad. -/
def quad4 : State :=
  { user with teams := [(firstTeam, { supervisorTeam 0 0 with kind := .grid, roles := [(4, 128)], size := 4, base := 4096 })] }

def matrices : List Instr := [.mmaBf16 0 16 8 4, .mmaF16 1 16 8 4, .mmaT8 0 16 8 4, .mmaT6 0 16 8 4, .mmas 0 0 16 8 4 (some 0x400020),
  .mmas 2 1 32 8 4 (some 0x4000A0), .mmaqBf16 0 64 8 4, .mmaqF16 1 64 8 4, .mmaqT8 0 64 8 4, .mmaqT6 0 64 8 4,
  .mmaqs 1 0 64 8 4 (some 0x400020)]
def matrixMeets (s : State) (i : Instr) : Bool :=
  match matrixForm i with
  | some (op, m, sel, d, a, b, e) =>
    let f := matForm op m sel
    issuesB i (matrixOps f s.g.mscl d a b e) s && scaleFits f s.g.mscl && (!f.quad || (s.g.quadOf s.myTeam).isSome) &&
      (s.g.reserve s.freeRows d.toNat f.wc).isSome
  | none => false
/-- Scale mode 4 for the `i4` forms, its B scale registers from v96. -/
def scaled4 : State := { quad4 with g := { quad4.g with mscl := 4 + 96 * 2 ^ 11 } }

theorem witness_MatrixIssue : (matrices.all (matrixMeets quad4)) = true ∧
    ([Instr.mmaI4 0 32 16 4, .mmaqI4 0 32 16 4].all (matrixMeets scaled4)) = true := by decide +kernel
/-- A mode that does not fit; a quad operation of the supervisor group, which is in no quad; no row left for the result. -/
theorem witness_MatrixIssue_faults :
    scaleFits (matForm 0x50 0 0) scaled4.g.mscl = false ∧
    issuesB (.mmaBf16 0 16 8 4) [⟨16, 16, 4⟩, ⟨8, 8, 4⟩, ⟨4, 1, 4⟩] scaled4 = true ∧
    (scaled4.g.reserve scaled4.freeRows 16 16).isSome = true ∧ (solo.g.reserve solo.freeRows 64 64).isSome = true ∧
    (let s := { solo with g := { solo.g with rows := List.replicate 1024 ⟨4, [77]⟩ } }
     issuesB (.mmaBf16 0 16 8 4) (matrixOps (matForm 0x50 0 0) s.g.mscl 16 8 4 0) s = true ∧
     scaleFits (matForm 0x50 0 0) s.g.mscl = true ∧ s.g.reserve s.freeRows 16 16 = none) ∧
    solo.g.quadOf solo.myTeam = none ∧ scaleFits (matForm 0x56 0 0) solo.g.mscl = true ∧
    issuesB (.mmaqBf16 0 64 8 4) (matrixOps (matForm 0x56 0 0) solo.g.mscl 64 8 4 0) solo = true := by decide +kernel
theorem witness_MatrixComplete :
    (let s := { solo with arg := { Arg.zero with key := solo.g.key }, g := { solo.g with mat := [oneMatrix] } }
     s.arg.key = s.g.key ∧ s.g.mat = [oneMatrix] ∧ oneMatrix.op < 0x56 ∧ oneMatrix.badLane oneMatrix.form = none) ∧
    (let o : MatOp := { oneMatrix with op := 0x55, m := 2, e := [Lanes.uni 0] }
     (o.badLane o.form).isSome = true) := by decide +kernel
/-- The four groups of a quad with their parts of step 0: alike, one with other modifiers, one with bad metadata. -/
theorem witness_MatrixComplete_quad :
    (let o : MatOp := { oneMatrix with op := 0x56 }
     let bad : MatOp := { oneMatrix with op := 0x5B, m := 2, e := [Lanes.uni 0] }
     let quad := fun (p : Nat → MatOp) => { quad4 with
       arg := { Arg.zero with key := quad4.g.key }, g := { quad4.g with mat := [p 0] }
       groups := [1, 2, 3].map fun n => (quad4.g.key + n, { quad4.g with gidx := n, ridx := n, mat := [p n] }) }
     ([(fun _ => o), (fun n => { o with m := if n = 3 then 1 else 0 }), (fun _ => bad)].all fun p =>
       let s := quad p
       let ps := s.quadParts s.g 0
       s.arg.key == s.g.key && s.g.mat == [p 0] && decide (0x56 ≤ (p 0).op) && ps.map (·.1) == [0, 1, 2, 3].map (quad4.g.key + ·)) = true ∧
     o.badLane o.form = none ∧ (bad.badLane bad.form).isSome = true) := by decide +kernel

theorem witness_ScaleAndBatches :
    issuesB (.mscl 10) [pair 10] solo = true ∧ scaleMode (solo.g.u64 10) ≤ 4 ∧ (solo.g.u64 10).extractLsb' 32 32 = 0#32 ∧
    5 ≤ scaleMode ((State.put solo [(10, 5)]).g.u64 10) ∧ issuesB (.mscl 10) [pair 10] (State.put solo [(10, 5)]) = true ∧
    issuesB (.mfence 30) [one 30] solo = true ∧ (solo.g.issued - solo.g.done).toNat < 64 ∧ 2 ≤ solo.freeRows ∧ solo.g.mat = [] ∧
    solo.myTeam.queues = Vector.replicate 16 Queue.zero ∧ issuesB (.mwait 0) [one 0] solo = true ∧
    (let s := { solo with g := { solo.g with issued := 1 } }
     let v := s.g.u 30
     let n := if 2 ^ 31 ≤ (s.g.issued - v).toNat then s.g.issued else v
     issuesB (.mwait 30) [one 30] s = true ∧ 2 ^ 31 ≤ (s.g.done - n).toNat) ∧
    (let f : EngFault := { oneFault with num := some 0 }
     issuesB (.mwait 0) [one 0] { solo with g := { solo.g with faults := [f] } } = true ∧ f.upTo 0 = true ∧ f.voids = false) := by
  decide +kernel

theorem witness_BarriersAndQuota :
    issuesB (.bar 10 7) [one 10, one 7] user = true ∧ issuesB (.arrive 30 10 7) [one 30, one 10, one 7] user = true ∧
    2 ≤ user.freeRows ∧ issuesB (.waitb 10 7) [one 10, one 7] user = true ∧ issuesB (.quota 10) [one 10] user = true ∧
    user.g.mat = [] ∧ user.myTeam.quotaBad (user.g.u 4) = true ∧
    (let s := State.put cored [(10, 32)]
     issuesB (.quota 10) [one 10] s = true ∧ s.g.mat = [] ∧ s.myTeam.quotaBad (s.g.u 10) = false ∧ s.g.gidx = 0 ∧ s.myTeam.size = 1 ∧ s.g.running = true ∧ s.myTeam.quota = []) ∧
    (let q := State.put quad4 [(10, 32)]
     let s := { q with groups := [(q.g.key + 1, { q.g with gidx := 1 })] }
     issuesB (.quota 10) [one 10] s = true ∧      s.myTeam.quotaBad (s.g.u 10) = false ∧ ((s.teamGroups s.g.tid).any fun h => h.running && h.gidx != s.g.gidx) = true) := by
  decide +kernel

theorem witness_FreezingStems :
    (let s := pooled user
     issuesB (.freezeKeep 30) [one 30] s = true ∧ s.g.mat = [] ∧ s.pendingWork s.g.key = false ∧ s.g.faults = [] ∧ s.g.colls = [] ∧
     s.g.depth ≠ 3 ∧ s.freeStem s.g.dk = some 0 ∧ s.poolRoom s.g.dk frameBytes = true ∧ 2 ≤ s.freeRows ∧ issuesB .freeze [] s = true ∧
     ((List.range 4).all fun p => decide (s.rowsUsed s.g.dk s.g.core p + 256 ≤ 1024)) = true ∧ s.g.shared.length + s.g.rows.length ≤ 128 ∧
     s.myTeam.prologue = false) ∧
    (let s := { user with g := { user.g with depth := 3 } }
     let t := { solo with g := { solo.g with depth := 3, rows := List.replicate 1024 ⟨4, [77]⟩ } }
     issuesB (.freezeKeep 30) [one 30] s = true ∧ s.pendingWork s.g.key = false ∧ roomyB s [(30, Lanes.uni 1)] = true ∧
     issuesB (.freezeKeep 30) [one 30] t = true ∧ t.pendingWork t.g.key = false ∧ roomyB t [(30, Lanes.uni 1)] = false) := by
  decide +kernel

/-- An open stem of number 0 and generation 1, whose handle stands in v10; target register 2 is valid. -/
def stemmed : State :=
  let s := { user with g := (user.g).setTarget 2 ⟨0x800, true, []⟩ }
  let s := s.setDie 0 { s.die 0 with
    gens := [(0, 1)]
    stems := [(0, ⟨true, 1, s.g.regs, [], s.g.targets, 1, 1, 0, [], 0x2000, 128, 4096, 0⟩)] }
  let s := State.put s [(10, (s.stemHandle 0 0)), (11, (s.stemHandle 0 0)), (7, 5)]
  { s with g := { s.g with stem := 0, depth := 1 } }

theorem witness_StemsAndSpawns :
    issuesB (.stemend 4) [one 4] stemmed = true ∧ stemmed.stemOf 0 (stemmed.g.u 4) = none ∧
    (let s := { stemmed with g := { stemmed.g with depth := 0 } }
     issuesB (.stemend 10) [one 10] s = true ∧ s.stemOf 0 (s.g.u 10) = some 0 ∧ ((s.stemAt 0 0).map Stem.isOpen) = some true ∧
     (s.die 0).bins = [] ∧ s.stemBusy 0 0 = false) ∧
    issuesB (.spawn 2 7) [one 7] stemmed = true ∧ issuesB (.spawnf 2 10) [pair 10] stemmed = true ∧ lanesIn stemmed.g.exec = [0] ∧
    (stemmed.g.target 2).v = true ∧ (stemmed.g.target 3).v = false ∧ stemmed.spawnStem none 0 = some 0 ∧
    stemmed.spawnStem (some fun l => (stemmed.g.rd 11)[l]) 0 = some 0 ∧
    stemmed.spawnStem (some fun l => (stemmed.g.rd 5)[l]) 0 = none ∧ (stemmed.die 0).bins.length < 256 := by decide +kernel
/-- A closed stem; a bin of the key with 1 item and with 127 items; 256 bins of other keys. -/
theorem witness_StemsAndSpawns_bins :
    (let s := stemmed.setDie 0 { stemmed.die 0 with stems := (stemmed.die 0).stems.map fun x => (x.1, { x.2 with isOpen := false }) }
     issuesB (.stemend 10) [one 10] s = true ∧ s.stemOf 0 (s.g.u 10) = some 0 ∧ ((s.stemAt 0 0).map Stem.isOpen) = some false) ∧
    ([1, 127].all fun n =>
      let b : Bin := ⟨0, (stemmed.g.target 2).addr, List.replicate n 3, 0, []⟩
      let s := stemmed.setDie 0 { stemmed.die 0 with bins := [b] }
      issuesB (.spawn 2 7) [one 7] s && lanesIn s.g.exec == [0] && (s.g.target 2).v && s.spawnStem none 0 == some 0 &&
        (s.die 0).bins == [b] && (s.stemAt 0 0).isSome) = true ∧
    (let bs : List Bin := (List.range 256).map fun n => ⟨0, BitVec.ofNat 54 n, [3], 0, []⟩
     (bs.all fun b => b.target != (stemmed.g.target 2).addr) = true ∧ bs.length = 256 ∧
     (bs.map fun b => b.target.toNat) = List.range 256 ∧
     issuesB (.spawn 2 7) [one 7] (stemmed.setDie 0 { stemmed.die 0 with bins := bs }) = true) ∧
    Store.find 0 stemmed.launches = none := by decide +kernel

/-! ### System registers, waits, units -/

def sysNumbers : List (BitVec 12) := [0x000, 0x001, 0x002, 0x003, 0x004, 0x005, 0x006, 0x007, 0x008, 0x100, 0x103, 0x200, 0x201, 0x203,
  0x301, 0x303, 0x400, 0x404, 0x502, 0x503, 0x600, 0x602, 0x700, 0x707, 0x710, 0x73F]
theorem witness_SystemRegisterRead :
    (sysNumbers.all fun n => issuesB (.sysr 30 n) [if sysWidth n.toNat = some 64 then pair 30 else one 30] solo &&
      (sysWidth n.toNat).isSome && roomyB solo (if sysWidth n.toNat = some 64 then uniPair 30 (solo.sysRead n.toNat)
        else [(30, Lanes.uni ((solo.sysRead n.toNat).extractLsb' 0 32))])) = true ∧ solo.g.priv = true ∧
    issuesB (.sysr 30 0x009) [one 30] solo = true ∧ sysWidth 0x009 = none := by decide +kernel
theorem witness_SystemRegisterWrite :
    solo.g.priv = true ∧ issuesB (.sysw 30 0x100) [pair 30] solo = true ∧ sysReadOnly 0x100 = false ∧ issuesB (.sysw 30 0x502) [pair 30] solo = true ∧
    sysReadOnly 0x502 = false ∧ issuesB (.sysw 30 0x601) [one 30] solo = true ∧ (sysWidth 0x601).isSome = true ∧ sysReadOnly 0x601 = false ∧
    ({ solo with g := { solo.g with dk := 1 } }).g.dk % 4 ≠ 0 ∧ issuesB (.sysw 30 0x008) [pair 30] solo = true ∧ sysReadOnly 0x008 = true ∧
    issuesB (.sysw 30 0x999) [one 30] solo = true ∧ sysWidth 0x999 = none := by decide +kernel

def lineReq (s : State) (a n : Nat) : LaneReq :=
  let p := (s.g.u64 a).toNat
  ⟨s.g.ulane, p, p, n, if p % n = 0 then [] else [(3, 10)]⟩
def lineOp : MemOp := ⟨.read, true, true, true, true⟩
theorem witness_WaitOnMemory :
    (let accs := accsOf solo lineOp [lineReq solo 4 4]
     let r := (solo.ready accs).readLanes 1 6 accs
     let v := BitVec.ofNat 32 (natLE (r.2.flatMap (·.2)))
     inOrderB solo = true ∧ inMemoryB accs = true ∧ issuesB (.wline 30 4 7) [one 30, pair 4, one 7] solo = true ∧ reachesB solo lineOp [lineReq solo 4 4] accs = true ∧
     v ≠ solo.g.u 7 ∧ roomyB r.1 [(30, Lanes.uni v)] = true ∧ v = solo.g.u 0 ∧
     issuesB (.wline 30 4 0) [one 30, pair 4, one 0] solo = true ∧ solo.mailHeld 0 0 = false) := by decide +kernel

/-- The core's trace is on for the group, in a ring of 64 KiB. -/
def tracing : State :=
  { solo with cores := [(0, { Core.reset with sys := [(0x400, 1), (0x401, BitVec.allOnes 64), (0x402, 0x10000), (0x403, 65536)] })] }
/-- The example of R464: the SYNC takes bytes 0 to 31 once, the TAKEN of the first transfer bytes 32 to 40. -/
theorem test_trace_first :
    (let s := tracing.syncFirst
     let t := s.syncFirst.emit 3 (bytesLE 0x401024 7)
     s.coreSys 0 0x404 = 32 ∧ s.byte 0x10000 = 1 ∧ t.coreSys 0 0x404 = 41 ∧ t.byte 0x10020 = 3 ∧ t.byte 0x10022 = 0x24) := by
  decide +kernel
/-- A copy of 16 bytes from 0x1000 to 0x2000. -/
def aCopy : CopyReq :=
  ⟨0, ⟨none, 0, 0, 0⟩, .cpy, 0x2000, 0x1000, 16, 0, Heap.zero, 0, true, false, false, false, 0, false, none, none, [], [], [], false⟩
/-- What a granule at 0x2000 receives from 0x1000. -/
def aUnit : CopyUnit := ⟨0, 0x2000, 16, 0x1000, 0x2000, [(0, 0x1000, 16)], []⟩
theorem witness_DropsTraceEnergy :
    issuesB (.tlbinv 4 7) [pair 4, one 7] solo = true ∧ solo.g.priv = true ∧
    ([0, 1, 2, 3].all fun k => [1, 2, 5, 6].all fun c => !solo.transInUse 0 k c 0) = true ∧ inOrderB solo = true ∧
    (solo.tlb.all fun l => !l.pinned) = true ∧
    (let s := { solo with teams := [(0, { supervisorTeam 0 0 with
       queues := (Vector.replicate 16 Queue.zero).set 0 { Queue.zero with reqs := [{ aCopy with started := true, units := [aUnit] }] } })] }
     issuesB (.tlbinv 4 7) [pair 4, one 7] s = true ∧ s.transInUse 0 0 2 0 = true) ∧ issuesB (.trc 4) [one 4] solo = true ∧
    solo.traceOn 0 = false ∧ issuesB (.trc 4) [one 4] tracing = true ∧ tracing.traceOn 0 = true ∧
    issuesB (.energy 30 4) [pair 30, one 4] solo = true ∧ 3 ≤ (solo.g.u 4).toNat ∧ 4 ≤ (solo.meter 0).freeRows := by decide +kernel
theorem witness_SelfTest :
    issuesB (.bist 30 10) [pair 30, one 10] solo = true ∧ solo.g.priv = true ∧
    bistOk 0 ((solo.g.u 10).extractLsb' 0 8).toNat ((solo.g.u 10).extractLsb' 8 16).toNat = false ∧
    roomyB solo (uniPair 30 (BitVec.ofNat 64 (2 + 256 * 0x40))) = true ∧
    (let s := State.put solo [(10, 0x101)]
     bistOk 0 ((s.g.u 10).extractLsb' 0 8).toNat ((s.g.u 10).extractLsb' 8 16).toNat = true) ∧
    (let s := { solo with arg := { Arg.zero with key := solo.g.key }, g := { solo.g with wait := .bist 30 1 0x1000 } }
     s.arg.key = s.g.key ∧ s.g.status = .live ∧ 4 ≤ s.freeRows ∧ s.unitBusy s.g.dk 0x1000 = false ∧
     { s with teams := [(firstTeam, { supervisorTeam 0 0 with kind := .grid, core := 5 })] }.unitBusy s.g.dk 5 = true) := by
  decide +kernel

/-! ### Copies, messages, collectives, graphs, launches -/

def copies : List Instr := [.cpy 4 8 10, .cpy2d 4 8 10 (some 0x400004), .cpyx 4 8 10, .cpyk 4 8 10 (some 0x400004)]
def copyMeets (s : State) (i : Instr) (bad : Bool) : Bool :=
  match copyForm i s.g with
  | some (ops, r) => issuesB i ops s && (r.sideFaults s.myTeam.bytes).isEmpty && r.badWord == bad
  | none => false
/-- 0x40 bytes in queue 0; with wait count 1 and no CHAIN the word is broken; with 64 requests the queue is full. -/
theorem witness_CopyIssue :
    (copies.all fun i => copyMeets solo i false) = true ∧ (solo.queue solo.g.tid 0).reqs.length < 64 ∧
    copyMeets (State.put solo [(11, 0x10000)]) (.cpy 4 8 10) true = true ∧
    (let s := { solo with teams := [(0, { supervisorTeam 0 0 with
        queues := (Vector.replicate 16 Queue.zero).set 0 { Queue.zero with reqs := List.replicate 64 aCopy } })] }
     copyMeets s (.cpy 4 8 10) false = true ∧ 64 ≤ (s.queue s.g.tid 0).reqs.length) := by decide +kernel

/-- A receive with handle 1 of the group in hand. -/
def aRecv (gk : Nat) (complete : Bool) : Recv :=
  ⟨1, gk, 0, 0, 0, 0, 0x60000, 0x100, 64, Heap.zero, 0, false, none, [], none, none, none, false, complete, 0, 0, 0⟩
def receiving (complete : Bool) : State :=
  { user with cores := [(0, { Core.reset with recvs := [aRecv user.g.key complete], handle := 2 })] }
theorem witness_MessageInstructions :
    issuesB (.send 4 8 10) [pair 4, pair 8, pair 10] user = true ∧ (user.g.u64 10).getLsbD 32 = false ∧
    (let s := State.put user [(10, 16), (11, 1)]
     issuesB (.send 4 8 10) [pair 4, pair 8, pair 10] s = true ∧ (s.g.u64 10).getLsbD 32 = true ∧ bits (s.g.u64 10).toNat 31 0 ≠ 0 ∧
     s.myTeam.bytes < bits (s.g.u64 4).toNat 31 0 + bits (s.g.u64 10).toNat 31 0) ∧
    ((user.g.u64 8).extractLsb' 0 32).extractLsb' 16 16 = 0#16 ∧ (user.g.u64 8).extractLsb' 48 16 = 0#16 ∧
    (user.g.u64 10).extractLsb' 33 31 = 0#31 ∧
    (((State.put user [(8, 0x10000)]).g.u64 8).extractLsb' 0 32).extractLsb' 16 16 ≠ 0#16 ∧
    issuesB (.recv 30 4 10) [one 30, pair 4, pair 10] user = true ∧ matchDcm ((user.g.u64 10).extractLsb' 32 32) = false ∧
    matchFull ((user.g.u64 10).extractLsb' 32 32) = false ∧ (user.g.u 30).extractLsb' 16 16 = 0#16 ∧
    ((user.g.u64 10).extractLsb' 32 32).extractLsb' 20 12 = 0#12 ∧ (user.core 0).recvs.length < 128 ∧ user.overflow 0 = [] ∧
    issuesB (.probe 24 7 0) [quad 24, one 7, one 0] user = true ∧ 8 ≤ user.freeRows ∧
    issuesB (.rwait 24 7) [quad 24, one 7] user = true ∧ user.recvOf 0 (user.g.u 7) = none ∧
    ([true, false].all fun c => (receiving c).recvOf 0 (user.g.u 7) == some (aRecv user.g.key c)) = true ∧
    8 ≤ (receiving true).freeRows := by decide +kernel

/-- The collective table of the die at 0x10000 holds one group, of this place alone. -/
def collected : State :=
  let s := (solo.setDev 0 0x0300 0x10000).setDev 0 0x0308 1
  let s := s.setBytes 0x10000 (bytesLE 0x20000 8 ++ bytesLE 3 4 ++ bytesLE 5 4)
  State.put s [(11, 0x2000)]
theorem witness_CollectiveIssue :
    (let ctl := collected.g.u64 10
     issuesB (.collRed 4 8 10) [pair 4, pair 8, pair 10] collected = true ∧
     collected.collTraps 0 0 0 (collected.g.u64 4) (collected.g.u64 8) ctl = [] ∧
     collected.collTable 0 0 (collGid ctl) = some (5, [0]) ∧ collected.colls = [] ∧
     Store.find (collGid ctl) (collected.core 0).counts = none) ∧
    (let s := State.put collected [(11, 0)]
     issuesB (.collBcast 4 8 10) [pair 4, pair 8, pair 10] s = true ∧ issuesB (.collGath 4 8 10) [pair 4, pair 8, pair 10] s = true ∧
     s.collTraps 0 0 1 (s.g.u64 4) (s.g.u64 8) (s.g.u64 10) = [] ∧ s.collTraps 0 0 2 (s.g.u64 4) (s.g.u64 8) (s.g.u64 10) = []) ∧
    inOrderB solo = true ∧ issuesB (.cwait 0) [one 0] solo = true ∧ bits (solo.g.u 0).toNat 11 0 = 0 ∧
    issuesB (.cwait 0) [one 0] { solo with g := { solo.g with colls := [⟨0, 9, false, none⟩] } } = true ∧
    issuesB (.cwait 0) [one 0] { solo with g := { solo.g with colls := [⟨0, 9, true, none⟩] } } = true := by decide +kernel
/-- An open instance of the group of core 1, not drained: core 0 joins it; its own issue of the first instance is not drained and it
waits to issue the second; a fault that `cwait` reports. -/
theorem witness_CollectiveIssue_waits :
    (let m : Member := ⟨0, 0, 1, some (16 * firstTeam), 0, 0, 0, 0, 0, Heap.zero, 0, true, ⟨none, 0, 0, 0⟩, none, none, false, false⟩
     let x : Coll := ⟨0, 5, 1, [0], [m], false, 0, [], none, 0⟩
     let s := { collected with colls := [(9, x)] }
     let t := { s with
       colls := [(9, { x with members := [{ m with core := 0 }] })], cores := [(0, { Core.reset with counts := [(0, (5, 1))] })] }
     (s.colls.find? fun x => x.2.gid = 0 && x.2.tabtag == 5 && x.2.inst = 1 && x.2.places == [0]) = some (9, x) ∧
     (s.colls.filter fun x => x.2.members.any fun o => o.dk == 0 && !o.noticed).length < 64 ∧
     issuesB (.collRed 4 8 10) [pair 4, pair 8, pair 10] s = true ∧ issuesB (.collRed 4 8 10) [pair 4, pair 8, pair 10] t = true ∧
     ([s, t].all fun s => s.collTraps 0 0 0 (s.g.u64 4) (s.g.u64 8) (s.g.u64 10) == [] && s.collTable 0 0 0 == some (5, [0])) = true ∧
     Store.find 0 (t.core 0).counts = some (5, 1) ∧ { m with core := 0 }.noticed = false) ∧
    (let c : CollIssue := ⟨0, 9, true, some oneFault⟩
     let s := { solo with g := { solo.g with colls := [c] } }
     issuesB (.cwait 0) [one 0] s = true ∧ (s.g.colls.filter fun c => c.gid = 0) = [c]) := by decide +kernel

def aRun (phase : Nat) : Run := ⟨1, 0, 0x2000, 4, 0, 0, phase, 0, 0, none, 0, 0, none, true, [], []⟩
def running (phase : Nat) : State := solo.setDie 0 { solo.die 0 with runs := [aRun phase], nextRun := 2 }
theorem witness_GraphRuns :
    issuesB (.grun 30 8) [one 30, pair 8] solo = true ∧ (solo.g.u64 8).toNat % 64 = 0 ∧ (solo.die 0).runs.length < 16 ∧ 2 ≤ solo.freeRows ∧
    issuesB (.gwait 24 7) [pair 24, one 7] solo = true ∧ solo.runOf 0 (solo.g.u 7) = none ∧
    roomyB solo [(24, Lanes.uni 3), (25, Lanes.uni 0xFFFFFFFF)] = true ∧ (running 0).runOf 0 (solo.g.u 7) = some (aRun 0) ∧
    (running 6).runOf 0 (solo.g.u 7) = some (aRun 6) ∧ 4 ≤ (running 6).freeRows ∧ issuesB (.gset 4 7) [pair 4, one 7] solo = true ∧
    (let m : MemOp := ⟨.write, true, true, true, true⟩
     let accs := accsOf solo m [lineReq solo 4 4]
     reachesB solo m [lineReq solo 4 4] accs = true ∧ inMemoryB accs = true ∧
     inOrderB solo = true ∧ (accs.map fun c => c.ps.map fun p => (p.off, p.len, p.x.ga)) = [[(0, 4, 0x1000)]]) := by decide +kernel

/-- A packet for die 0: descriptor at 0x3000, one team, launch 7, address space 1, record at 0x4000, signal at 0x4040. -/
def aPacket : List Byte :=
  bytesLE 0x3000 8 ++ bytesLE 0 8 ++ bytesLE 0 8 ++ bytesLE 7 4 ++ bytesLE 1 4 ++ bytesLE 1 4 ++ bytesLE 0 4 ++ bytesLE 0x4000 8 ++
  bytesLE 0x4040 8 ++ bytesLE 9 4 ++ List.replicate 68 0
/-- Entry 0x5000, 4096 bytes of core memory, one group with 32 registers. -/
def aKernel : List Byte := bytesLE 0x5000 8 ++ bytesLE 4096 4 ++ bytesLE 0 4 ++ bytesLE 0x2001 4 ++ List.replicate 44 0

/-- A die of a gallery whose address space 1 maps page 0 to itself; the supervisor runs in it, v8:v9 = 0x2000. -/
def gallery : State :=
  let s := { solo with
    g := { solo.g with asn := 1 }
    tlb := [⟨0, 1, 0, 65536, 0xFF, 0⟩]
    dies := [(0, { Die.reset with regs := [(0x0008, 2), (0x0800, 0x80000000), (0x0C00, 0x80)] })] }
  ((s.setBytes 0x10 [1]).setBytes 0x2000 aPacket).setBytes 0x3000 aKernel
def packetReq : LaneReq := lineReq gallery 8 128

theorem witness_LaunchInstruction :
    (let accs := accsOf gallery lineOp [packetReq]
     let r := (gallery.ready accs).readLanes 1 6 accs
     let s' := r.1
     let b := r.2.flatMap (·.2)
     inOrderB gallery = true ∧ inMemoryB accs = true ∧ s'.shareless 0 (BitVec.ofNat 32 (pkt b 0x18 4)) (s'.pktHome 0 b) = false ∧
     issuesB (.launch 8) [pair 8] gallery = true ∧ gallery.g.priv = true ∧ reachesB gallery lineOp [packetReq] accs = true ∧
     (s'.dev 0 0x0800).getLsbD 31 = true ∧ (pktDies b).contains (s'.pktSelf 0) = true ∧
     s'.activeLaunch 0 (BitVec.ofNat 32 (pkt b 0x18 4)) (s'.pktHome 0 b) = none ∧ (s'.die 0).notices = [] ∧
     (s'.die 0).launches.length < 32 ∧ s'.verdict 0 b none = .take aKernel) ∧
    (let s := gallery.setBytes 0x2028 [1]
     let r := (s.ready (accsOf s lineOp [packetReq])).readLanes 1 6 (accsOf s lineOp [packetReq])
     r.1.verdict 0 (r.2.flatMap (·.2)) none = .refuse 8) ∧
    (let s := gallery.setBytes 0x201C [2]
     let r := (s.ready (accsOf s lineOp [packetReq])).readLanes 1 6 (accsOf s lineOp [packetReq])
     reachesB s lineOp [packetReq] (accsOf s lineOp [packetReq]) = true ∧
     pktDies (r.2.flatMap (·.2)) ≠ [] ∧ (pktDies (r.2.flatMap (·.2))).contains (r.1.pktSelf 0) = false) := by decide +kernel

/-! ### Groups, teams and launches in steps of their own -/

def argAt (s : State) (key sub : Nat) : State := { s with arg := { Arg.zero with key := key, sub := sub } }
def userKey : Nat := 16 * firstTeam

/-- The user group stands among the others, with this status; the group in hand is the supervisor's. -/
def standing (st : Status) : State :=
  { argAt cored userKey 0 with g := solo.g, groups := [(userKey, { cored.g with status := st, slot := 1 })] }

theorem witness_SlotsAndFrames :
    (let s := { standing .rowWait with teams := [(firstTeam, { cored.myTeam with held := true })] }
     (s.group s.arg.key).status = .rowWait ∧ s.swapTeams 0 0 = [] ∧ (s.team (s.group s.arg.key).tid).swappable = false ∧
     s.rowsFree 0 0 0 ≠ 0) ∧
    (let s := argAt { solo with cores := [(0, { Core.reset with posts := [List.replicate 64 1] })] } 0 0
     (s.core 0).posts = [List.replicate 64 1] ∧ s.isFull (coreAddr 0 0 0 / 16) = false) ∧
    (let s := standing (.paging 3)
     (s.group s.arg.key).status = .paging 3 ∧ s.frameBusy (s.group s.arg.key) = false ∧ inOrderB s = true) ∧
    (let s := standing (.saving 0x5000 1)
     (s.group s.arg.key).status = .saving 0x5000 1 ∧ s.frameBusy (s.group s.arg.key) = false ∧ inOrderB s = true) ∧
    (let s := standing .returning
     (s.group s.arg.key).status = .returning ∧ (s.team (s.group s.arg.key).tid).status = .resident ∧ s.freeSlot 0 0 0 = some 1 ∧
     (((s.setGroup s.arg.key { (s.group s.arg.key).refetch with slot := 1, status := .live, wait := .none }).poolGive 0
       (groupFrame s.arg.key)).unsync 0 s.arg.key).rowsOk 0 0 = true) ∧
    (let s := standing .ending
     (s.group s.arg.key).status = .ending ∧ (s.group s.arg.key).key = s.arg.key ∧ firstTeam ≤ (s.group s.arg.key).tid ∧
     (s.team (s.group s.arg.key).tid).quota = []) := by decide +kernel

/-- A launch of the packet with the whole of a core's memory, under key 1; `next` teams of it are dispatched. -/
def aLaunch (next : Nat) : Launch :=
  ⟨0, 7, 0, aPacket, 0x5000, false, false, 4096, [(1, 32)], (1, 1), next, 0, none, [], [], false, false, false, 0, 0⟩
def launching (l : Launch) : State :=
  { gallery with
    launches := [(1, l)]
    dies := [(0, { gallery.die 0 with launches := [1] })] }
def fullLaunch : Launch := { aLaunch 0 with bytes := 2 ^ 20 - 4096 }
/-- The only good core of the die has its memory taken by the first team, and a head waits. -/
def crowded : State :=
  let s := { launching fullLaunch with
    teams := [(firstTeam, { supervisorTeam 0 0 with kind := .grid, base := 4096, bytes := 2 ^ 20 - 4096, lk := 1 })]
    groups := [(userKey, { user.g with slot := 1 })]
    cycle := 10 ^ 9 }
  argAt ((s.setDie 0 { s.die 0 with badUnits := List.range' 1 95 }).setDev 0 0x0408 0x100000000) 0 0

theorem witness_SwapAndRestore_swap :
    (let busy := crowded.setGroup userKey { crowded.group userKey with mat := [oneMatrix] }
     ([crowded, busy].all fun s => s.leaver 0 0 == none && s.headWaits 0 && s.quantumVictim 0 0 == some firstTeam &&
       s.teamRoom firstTeam && s.poolSize 0 != 0) = true ∧ crowded.canSave firstTeam = true ∧ inOrderB crowded = true ∧
     ((crowded.teamGroups firstTeam).all fun g => g.gidx < (crowded.team firstTeam).size && g.status == .live) = true ∧
     busy.canSave firstTeam = false) := by decide +kernel
theorem witness_SwapAndRestore_restore :
    (let l := { aLaunch 1 with swapq := [firstTeam], swapTurn := true }
     let s := { launching l with
       teams := [(firstTeam, { supervisorTeam 0 0 with kind := .grid, status := .swapped, lk := 1, frame := [(5, 7)] })]
       groups := [(userKey, { user.g with slot := 1, regs := user.g.regs })]
       arg := { Arg.zero with key := firstTeam, sub := 3 } }
     let t := s.team firstTeam
     Store.find t.lk s.launches = some l ∧ t.status = .swapped ∧ l.source = 2 ∧ l.swapq.head? = some firstTeam ∧
     (s.die 0).launches = [1] ∧ (s.die 0).strays = [] ∧ (s.die 0).strayq = [] ∧ s.stopWaits 0 = none ∧ t.img = none ∧
     s.coreTakes 0 3 = true ∧ s.admitted t.lk l = true ∧ l.coreOk 3 = true ∧ t.pinned = false ∧
     t.frame.Pairwise (fun a b => a.1 < b.1) ∧ (∀ c ∈ t.frame, c.1 < t.bytes) ∧
     ((s.teamGroups firstTeam).all fun g => !g.away) = true ∧
     s.freeBase 0 3 t.bytes = some 4096 ∧ (s.restoreTeam firstTeam 3).isSome = true) := by
  decide +kernel

def placesB (s : State) (l : Launch) (core : Nat) (roles : List (Nat × Nat)) (n0 base : Nat) : Bool :=
  (match s.slotsFor l.dk core (rolePlaces roles) with
    | some (n :: _) => n == n0
    | _ => false) && s.freeBase l.dk core l.bytes == some base && s.rowsOk l.dk core &&
  s.allGroups.all fun g => g.tid != s.fresh
theorem witness_DispatchSteps :
    (let s := argAt (launching (aLaunch 0)) 0 3
     (s.die 0).launches = [1] ∧ (s.die 0).strays = [] ∧ (s.die 0).strayq = [] ∧ (aLaunch 0).stem = none ∧ (aLaunch 0).teamStem = false ∧
     Store.find 1 s.launches = some (aLaunch 0) ∧ s.coreTakes 0 3 = true ∧ s.stopFirst 0 3 = false ∧
     s.admitted 1 (aLaunch 0) = true ∧ (aLaunch 0).coreOk 3 = true ∧ (aLaunch 0).source = 3 ∧
     placesB s (aLaunch 0) 3 [(1, 32)] 1 4096 = true) ∧
    (let l := { aLaunch 0 with pro := 1, gridStem := true }
     let s := argAt (launching l) 0 3
     (s.die 0).launches = [1] ∧ Store.find 1 s.launches = some l ∧ s.coreTakes 0 3 = true ∧ s.stopFirst 0 3 = false ∧
     s.admitted 1 l = true ∧ placesB s l 3 [(1, maxBudget l.roles)] 1 4096 = true) ∧
    (let s := { launching (aLaunch 0) with cycle := 10 ^ 9 }
     let st : Stem := ⟨true, 1, s.g.regs, [], s.g.targets, 1, 1, 0, [], 0x2000, 128, 4096, 1⟩
     let b : Bin := ⟨0, 0x800, [5], 0, []⟩
     let s := argAt (s.setDie 0 { s.die 0 with stems := [(0, st)], bins := [b] }) 0 0
     (s.die 0).bins = [b] ∧ s.binPeriod 0 b ≤ s.cycle - b.since ∧ s.stemAt 0 0 = some st ∧
     Store.find st.lk s.launches = some (aLaunch 0)) := by decide +kernel

/-- The home die's account of launch 7, under key 2: its one team retired, its one die quiet. -/
def anAccount : Home := ⟨0, 7, aPacket, 0, true, 1, 1, [0], none, []⟩
def accounting : State := { gallery with homes := [(2, anAccount)], arg := { Arg.zero with num := 7 } }
theorem witness_LaunchAccount :
    (let s := { accounting with reports := [⟨0, 7, 0, some ⟨2, 1, 0, 0, 0, 0⟩⟩], arg := Arg.zero }
     s.homeFind 0 7 = some (2, anAccount) ∧ anAccount.taken = true ∧ anAccount.fail = none) ∧
    (let h := { anAccount with notices := [0], quiet := [] }
     let s := { accounting with homes := [(2, h)] }
     let t := { s with launches := [(1, aLaunch 0)] }
     (s.homes.find? fun h => h.2.lid = 7 && h.2.notices.contains 0) = some (2, h) ∧ s.activeLaunch 0 7 0 = none ∧
     h.quiet.contains 0 = false ∧ t.activeLaunch 0 7 0 = some (1, aLaunch 0) ∧ Store.find 1 t.launches = some (aLaunch 0)) ∧
    (let s := accounting
     let r := s.xlat ⟨0, 1, false, Heap.zero, false⟩ 0x4000 32 .write
     let p := firstPiece r
     let q := firstPiece ((s.completeWrite anAccount 0x4000 (recordOf anAccount)).2.xlat ⟨0, 1, false, Heap.zero, false⟩ 0x4040 4 .write)
     settledB s = true ∧ s.homeFind 0 7 = some (2, anAccount) ∧ s.drained anAccount = true ∧ s.plainAccess 0 1 0x4000 32 .write none = .ok [p] ∧
     (s.completeWrite anAccount 0x4000 (recordOf anAccount)).2.plainAccess 0 1 0x4040 4 .write none = .ok [q] ∧ p.off = 0 ∧ p.len = 32 ∧
     p.x.ga = 0x4000 ∧ p.x.home ≠ 4 ∧ p.x.mark = none ∧ q.off = 0 ∧ q.len = 4 ∧ q.x.ga = 0x4040 ∧ q.x.home ≠ 4 ∧ q.x.mark = none) := by
  decide +kernel

/-- A run at a clause of the bytes `b`, which stand at 0x2000. -/
def atClause (b : List Byte) (r : Run) : State :=
  let s := { gallery with arg := { Arg.zero with sub := 1 } }
  (s.setBytes 0x2000 b).setDie 0 { s.die 0 with runs := [r], nextRun := 2 }
def galRun : Run := { aRun 0 with asn := 1 }
def clauseB (s : State) (k : Nat) (r : Run) : Bool :=
  let res := s.plainAccess 0 r.asn (r.clauses.toNat + 64 * r.cur) 64 .read r.fail
  let p := firstPiece (s.xlat ⟨0, r.asn, false, Heap.zero, false⟩ (r.clauses.toNat + 64 * r.cur) 64 .read)
  let b := (s.mark [p]).plainRead 0 [p]
  s.runOf s.arg.key (BitVec.ofNat 32 s.arg.sub) == some r && r.ready && r.phase != 2 && r.loaded && decide (r.cur < r.count) && res == .ok [p] &&
    !badClause b && pkt b 0 4 == k
/-- The state after the parser has read the clause, which marks nothing. -/
def clauseRead (s : State) : State := s.mark [firstPiece (s.xlat ⟨0, 1, false, Heap.zero, false⟩ 0x2000 64 .read)]
def piecesAt (s : State) (va n : Nat) (k : Kind) : Piece := firstPiece (s.xlat ⟨0, 1, false, Heap.zero, false⟩ va n k)

/-- Clause 0 goes to clause 1, or to 2 where the word at 0x6000 is 5. -/
def testClause (k : Nat) : List Byte := bytesLE k 4 ++ bytesLE 1 4 ++ bytesLE 0x6000 8 ++ bytesLE 5 4 ++ bytesLE 0 4 ++ bytesLE 2 4 ++
  List.replicate 36 0
theorem witness_GraphClauses_tests :
    ([4, 5].all fun k =>
      let s := atClause (testClause k) galRun
      inOrderB s && clauseB s k galRun && (clauseRead s).plainAccess 0 1 0x6000 4 .read none == .ok [piecesAt s 0x6000 4 .read] &&
      pkt (testClause k) 0x14 4 == 0 && !clauseTest 0 0 5 &&
      clauseTest 0 5 5 && decide (2 < galRun.count)) = true := by decide +kernel
def copyClause : List Byte := bytesLE 2 4 ++ bytesLE 1 4 ++ bytesLE 0x7000 8 ++ bytesLE 0x6000 8 ++ bytesLE 16 8 ++ List.replicate 32 0
theorem witness_GraphClauses_copy :
    (let s := atClause copyClause galRun
     let p := (clauseRead s).planRows (galRun.request copyClause) { deadTeam with dk := 0 }
     clauseB s 2 galRun = true ∧ bits (pkt copyClause 0x08 8) 59 56 = 0 ∧ bits (pkt copyClause 0x10 8) 59 56 = 0 ∧
     (match p.res with
       | .ok _ => true
       | _ => false) = true ∧ p.units ≠ []) ∧
    (let c := { galRun.request copyClause with started := true, units := [aUnit] }
     let r := { galRun with phase := 2, on := 1, copy := [c] }
     let s := atClause copyClause r
     s.runOf 0 (BitVec.ofNat 32 s.arg.sub) = some r ∧ r.loaded = true ∧ r.copy = [c] ∧ c.units = [aUnit] ∧ c.taken = [] ∧ aUnit.els = [] ∧
     aUnit.src = [(0, 0x1000, aUnit.len)] ∧ aUnit.home ≠ 4 ∧ inRamB aUnit.ga aUnit.len = true ∧ inRamB 0x1000 aUnit.len = true ∧
     s.arg.num = 0 ∧ (match s.unitRes 0 c aUnit with
       | .ok _ => true
       | _ => false) = true ∧ r.on ≠ 0xFFFFFFFF) := by decide +kernel
def launchClause : List Byte := bytesLE 1 4 ++ bytesLE 1 4 ++ bytesLE 0x8000 8 ++ List.replicate 48 0
theorem witness_GraphClauses_launch :
    (let s0 := (atClause launchClause galRun).setBytes 0x8000 aPacket
     let s := clauseRead s0
     let p := piecesAt s 0x8000 128 .read
     let b := s.plainRead 0 [p]
     clauseB s0 1 galRun = true ∧ galRun.ended = none ∧ s.plainAccess 0 1 0x8000 128 .read none = .ok [p] ∧ pktDies b = [s.pktSelf 0] ∧
     s.verdict 0 b none = .take aKernel ∧ (s.dev 0 0x0800).getLsbD 31 = true ∧
     s.shareless 0 (BitVec.ofNat 32 (pkt b 0x18 4)) (s.pktHome 0 b) = false ∧ s.activeLaunch 0 (BitVec.ofNat 32 (pkt b 0x18 4)) (s.pktHome 0 b) = none ∧ (s.die 0).notices = [] ∧ (s.die 0).launches.length < 32) := by
  decide +kernel
def collClause : List Byte := bytesLE 3 4 ++ bytesLE 1 4 ++ bytesLE 0x7000 8 ++ bytesLE 0x6000 8 ++ bytesLE (4 + 2 * 2 ^ 44) 8 ++ List.replicate 32 0
theorem witness_GraphClauses_collective :
    (let s0 := (((atClause collClause galRun).setDev 0 0x0300 0x9000).setDev 0 0x0308 1).setBytes 0x9000
        (bytesLE 0xA000 8 ++ bytesLE 3 4 ++ bytesLE 5 4)
     let s := clauseRead s0
     let at_ := s.absPlace 0 0
     clauseB s0 3 galRun = true ∧ galRun.phase = 0 ∧ badAbsPlace 0 = false ∧ at_.1 = 0 ∧
     s.collTraps 0 at_.2 0 0x7000 0x6000 (BitVec.ofNat 64 (4 + 2 * 2 ^ 44)) = [] ∧ s.collTable 0 at_.2 0 = some (5, [0]) ∧ s.colls = [] ∧
     Store.find 0 (s.core 0).counts = none) ∧
    (let r := { galRun with ended := some (false, 0, 0) }
     clauseB (atClause launchClause r) 1 r = true ∧ clauseB (atClause collClause r) 3 r = true) := by decide +kernel

/-! ### Engines -/

/-- The user's team with this request at the head of its queue 0, in the address space that maps page 0. -/
def queued (r : CopyReq) : State :=
  { gallery with
    teams := [(firstTeam, { supervisorTeam 0 0 with
      kind := .grid, base := 4096, bytes := 8192, queues := (Vector.replicate 16 Queue.zero).set 0 { Queue.zero with reqs := [r] } })]
    arg := { Arg.zero with key := firstTeam } }
def userCopy : CopyReq := { aCopy with gk := userKey, asn := 1 }
/-- A `cpyk` of 16 bytes through key 0 of package 0, tag 9, its key packet on its way. -/
def keyCopy : CopyReq := { userCopy with kind := .cpyk, a := 0, ctl := 16, e := 9 * 2 ^ 32, sent := true }
/-- The key table of package 0 at 0xB000: window 0xC000 to 0xC100, tag 9, reads and writes, cell 0. -/
def keyed (r : CopyReq) : State :=
  let s := ((queued r).setDev 0 0x0020 0xB000).setDev 0 0x0028 1
  s.setBytes 0xB000 (bytesLE 0xC000 8 ++ bytesLE 0x100 8 ++ bytesLE 9 4 ++ bytesLE 7 4 ++ bytesLE 1 8)
theorem witness_CopyProgress_start :
    ([userCopy, { userCopy with kind := .cpyx, ctl := 16 + 9 * 2 ^ 44 }].all fun r =>
      let s := queued r
      let p := if r.kind = .cpyx then s.planElems r (s.team firstTeam) else s.planRows r (s.team firstTeam)
      (s.queue firstTeam 0).nextStart == some (0, r) && s.served firstTeam && !r.skip && s.chainOk firstTeam r &&
      settledB s && (p.marks.all fun m => m.x.mark.isNone) && (match p.res with
        | .ok _ => true
        | _ => false)) = true := by decide +kernel
theorem witness_CopyProgress_key :
    (let s := keyed keyCopy
     (s.queue firstTeam 0).nextStart = some (0, keyCopy) ∧ (s.queue firstTeam 0).reqs = [keyCopy] ∧ s.served firstTeam = true ∧
     keyCopy.skip = false ∧ keyCopy.page = none ∧ keyCopy.sent = true ∧ bits keyCopy.e.toNat 29 20 = 0 ∧ (s.pkg 0).dead = false ∧
     s.reachable 0 0 = true ∧ s.hears 0 0 = true ∧ s.srcOk 0 0 = true ∧
     (match s.keyCheck keyCopy (s.team firstTeam) with
       | .ok base => base == 0xC000 && (match (s.planKey keyCopy (s.team firstTeam) base).res with
         | .ok _ => true
         | _ => false)
       | .error _ => false) = true) ∧
    (let r := { keyCopy with e := 8 * 2 ^ 32 }
     (match (keyed r).keyCheck r ((keyed r).team firstTeam) with
       | .ok _ => false
       | .error c => c == 5) = true) := by decide +kernel
theorem witness_CopyProgress_complete :
    (let c := aUnit
     let r : CopyReq := { userCopy with started := true, units := [c], ctl := 16 + 2 ^ 36, dst := [(0x2000, 16)] }
     let s := queued r
     (s.queue firstTeam 0).reqs = [r] ∧ s.served firstTeam = true ∧ r.skip = false ∧ c.els = [] ∧ c.src = [(0, 0x1000, c.len)] ∧
     c.home ≠ 4 ∧ inRamB c.ga c.len = true ∧ inRamB 0x1000 c.len = true ∧ s.portMine firstTeam 0 0 = true ∧ r.taken = [] ∧
     c.len ≤ s.segmentLeft firstTeam 0 ∧ ctlFull r.ctl = true ∧ (match s.unitRes 0 r c with
       | .ok _ => true
       | _ => false) = true) := by decide +kernel

/-- A message of 16 bytes to core 0, its source at 0x1000. -/
def aMessage : Msg := ⟨userKey, ⟨none, 0, 0, 0⟩, 0, 0, 0, 0, 5, 16, false, 0x1000, Heap.zero, 0, true, 0, .announce, false, false,
  some [(0, 0x1000, 16)], none, none, 0, [], []⟩
def aReceive : Recv := { aRecv userKey false with matchw := 5 + 2 ^ 18, lk := 0 }
def posted (m : Msg) (rs : List Recv) : State :=
  { cored with msgs := [(4, m)], cores := [(0, { Core.reset with recvs := rs })], arg := { Arg.zero with key := 4 } }
theorem witness_MessageSteps_announce :
    (let s := posted aMessage [aReceive]
     Store.find 4 s.msgs = some aMessage ∧ s.msgHeld 4 aMessage = false ∧ aMessage.places.isSome = true ∧
     ((s.core 0).recvs.find? fun r => r.msg.isNone && aMessage.fits r.dk r.core r.lk r.src r.matchw) = some aReceive ∧
     s.recvOf 0 1 = some aReceive) ∧
    (let s := posted aMessage []
     ((s.core 0).recvs.find? fun r => r.msg.isNone && aMessage.fits r.dk r.core r.lk r.src r.matchw) = none ∧ aMessage.len ≤ 4096 ∧
     (s.overflow 0).length < 64) ∧
    (let m := { aMessage with len := 4097 }
     (posted m []).msgHeld 4 m = false ∧ 4096 < m.len) := by decide +kernel
theorem witness_MessageSteps_reply :
    (let m := { aMessage with state := .toRecv 1 }
     Store.find 4 (posted m [aReceive]).msgs = some m ∧ m.go = false) ∧
    (let m := { aMessage with state := .refused }
     m.tries < (posted m []).retryCount m.dk ∧ (posted m []).retryCount m.dk ≤ ({ m with tries := 255 } : Msg).tries) ∧
    (let m := { aMessage with state := .toRecv 1, len := 0 }
     Store.find 4 (posted m [{ aReceive with complete := true }]).msgs = some m ∧ m.held = []) ∧
    (let m := { aMessage with state := .retry }
     Store.find 4 (posted m []).msgs = some m ∧ (posted m []).cycle - m.since < (posted m []).retryGap m.dk ∧
     (posted m []).retryGap m.dk ≤ ({ posted m [] with cycle := 0x1000 }).cycle - m.since) := by decide +kernel
theorem witness_MessageSteps_data :
    (let m := { aMessage with state := .toRecv 1, go := true }
     let s := posted m [{ aReceive with msg := some 4 }]
     let t := s.team firstTeam
     m.scm = false ∧ s.coreOwned firstTeam (bits aReceive.buf.toNat 31 0) m.len = false ∧
     s.teamBad firstTeam (bits aReceive.buf.toNat 31 0) m.len = none ∧ settledB s = true ∧ aReceive.placed = [] ∧
     aReceive.failed = false ∧ aReceive.page = none ∧
     inRamB 0x1000 16 = true ∧ inRamB (coreAddr t.dk t.core (t.base + bits aReceive.buf.toNat 31 0)) 16 = true ∧
     Store.find 4 s.msgs = some m ∧ m.got = [] ∧ m.held = [] ∧ m.places = some [(0, 0x1000, 16)] ∧ (match s.packetRes m 0 with
       | .ok _ => true
       | _ => false) = true ∧
     s.recvOf 0 1 = some { aReceive with msg := some 4 } ∧ matchDcm aReceive.matchw = true ∧ m.len ≤ aReceive.cap ∧
     t.status = .resident) := by decide +kernel

/-- The one member of an instance of four s32 elements. -/
def aMember : Member := ⟨0, 0, 0, some userKey, 0, 0, 4 + 2 * 2 ^ 44, 0x7000, 0x6000, Heap.zero, 1, true, ⟨none, 0, 0, 0⟩, none, none, false, false⟩
def anInstance (done : Bool) (m : Member) : Coll := ⟨0, 5, 1, [0], [m], done, 0, [], none, 0⟩
def collecting (x : Coll) : State := { gallery with colls := [(4, x)], arg := { Arg.zero with key := 4 }, groups := [(userKey, cored.g)] }
/-- What a collective packet asks of the instance before anything else. -/
def collReady (x : Coll) : Bool :=
  let s := collecting x
  Store.find 4 s.colls == some x && !x.performed && x.members.all (fun m => m.page.isNone) && s.collClash x 0 == none && !x.disagree &&
  !s.collLost x && !s.collMute x && settledB s
/-- The instance before its results go out; a source read, a node formed from two, a result written. -/
theorem witness_MessageSteps_collective :
    (let x := anInstance false aMember
     collReady x = true ∧ x.todo = none ∧ x.members.length = x.places.length ∧ resultOffs aMember.oper aMember.ctl 1 ≠ []) ∧
    (let x := { anInstance false aMember with todo := some [(0, 0)] }
     let s := collecting x
     let p := piecesAt s 0x6000 16 .read
     collReady x = true ∧ x.acts[0]? = some (.leaf 0 0) ∧ (x.members.find? fun m => m.rank = 0) = some aMember ∧
     s.collXlat aMember (aMember.a + BitVec.ofNat 64 0) (min 256 (collSrc aMember.oper aMember.ctl - 0)) .read = .ok [p] ∧
     p.x.mark = none ∧ p.x.home ≠ 4 ∧ inRamB p.x.ga p.len = true) ∧
    (let x := { anInstance false aMember with
       places := [0, 1], members := [aMember, { aMember with rank := 1 }], todo := some [(0, 0), (1, 0)]
       nodes := [((0, 0, 0), List.replicate 16 1), ((0, 1, 0), List.replicate 16 2)] }
     collReady x = true ∧ x.acts[0]? = some (.form 1 0 0) ∧ x.node 0 0 0 = some (List.replicate 16 1)) ∧
    (let x := { anInstance false aMember with todo := some [(0, 0)], nodes := [((0, 0, 0), List.replicate 16 1)] }
     let s := collecting x
     let q := piecesAt s 0x7000 16 .write
     let k := x.resultAt aMember.oper aMember.ctl 0
     collReady x = true ∧ x.acts[0]? = some (.write 0 0) ∧ aMember.gk = some userKey ∧ (s.group userKey).status ≠ .ended ∧
     x.node k.1 k.2.1 k.2.2 = some (List.replicate 16 1) ∧ s.collXlat aMember (aMember.d + BitVec.ofNat 64 0) 16 .write = .ok [q] ∧
     s.engPoison [q] = none ∧ q.len = 16 ∧ q.x.home ≠ 4 ∧ inRamB q.x.ga 16 = true ∧ q.x.mark = none) := by decide +kernel
theorem witness_MessageSteps_drain :
    (let x := anInstance true aMember
     Store.find 4 (collecting x).colls = some x ∧ x.performed = true ∧
     (∃ m ∈ x.members.map fun m => { m with drained := true }, m.noticed = false)) ∧
    (let x := anInstance true { aMember with drained := true }
     let y := { x with members := x.members ++ [{ aMember with rank := 1, drained := true }] }
     (∀ m ∈ y.members, m.drained = true) ∧ (∃ m ∈ y.members.map (fun m => if m.rank = 0 then { m with noticed := true } else m), m.noticed = false) ∧
     x.members.length = x.places.length ∧
     (∀ m ∈ x.members.map (fun m => if m.rank = 0 then { m with noticed := true } else m), m.noticed = true)) := by decide +kernel

/-! ### Pages, host, moves -/

/-- A page-request ring of 16 records at 0x10000; a request of page 0 that waits for room. -/
def aPage (posted : Bool) : PageReq := ⟨3, 0x5000, 1, 0, 0, 0, posted⟩
def ringed (posted : Bool) : State :=
  let s := (solo.setDev 0 0x0010 0x10000).setDev 0 0x0018 16
  { s.setDie 0 { s.die 0 with pages := [aPage posted] } with
    arg := { Arg.zero with val := 3 }, g := { solo.g with status := .paged 3 } }
theorem witness_PageSteps :
    ((ringed false).die 0).pages.find? (fun p => !p.posted) = some (aPage false) ∧ (ringed false).ringRoom 0 = true ∧
    (∀ p ∈ ((ringed false).die 0).pages, p.req = 3 → p.posted = false) ∧
    (aPage true ∈ ((ringed true).die 0).pages) ∧ (ringed true).g.dk = 0 ∧ (ringed true).g.status = .paged 3 ∧
    (let s := { solo with pkgs := [(0, { Package.reset with ats := [(7, 0)], pri := [(7, 0)] })], arg := { Arg.zero with sub := 7 } }
     let t := { s with g := { s.g with status := .paged (2 ^ 32 + 7) } }
     ((s.pkg 0).ats.any fun a => a.1 == 7) = true ∧ ((s.pkg 0).ats.any fun a => a.1 == 8) = false ∧ s.arg.num = 0 ∧
     ((t.pkg 0).pri.any fun a => a.1 == 7) = true ∧ ((t.pkg 0).pri.any fun a => a.1 == 8) = false ∧
     t.g.dk / 4 = 0 ∧ t.g.status = .paged (2 ^ 32 + 7)) ∧ solo.hostInUse 0 = false ∧
    (queued { userCopy with started := true, units := [{ aUnit with home := 4 }] }).hostInUse 0 = true := by
  decide +kernel

/-- A request of the host to BAR0 at offset `o`. -/
def atBar (o n : Nat) (data : List Byte) : State := { solo with arg := { Arg.zero with sub := o, num := n, data := data } }
/-- A request at 0x1000, one past the end of package DRAM, one that a posted write holds up, one with the T attribute while locked. -/
theorem witness_HostSteps_requests :
    (let s := atBar 0x1000 64 []
     let ps := [(0, 0x1000, 64)]
     settledB s = true ∧ (s.pkg 0).posted = [] ∧ s.physPlaces (barAddr 0 0x1000) 64 = ps ∧
     (∃ w ∈ ({ s with pkgs := [(0, { Package.reset with posted := [⟨0, [], 0, false, false, false⟩] })] }.pkg 0).posted, w.relaxed = false) ∧
     (s.pkg 0).dead = false ∧ s.tdiServes 0 s.arg.flag 0 = true ∧ barOk 0 0x1000 64 = true ∧ s.hostWaits 0 ps = false ∧
     s.stuckIn ps false = false ∧ (∀ l ∈ linesIn ps, s.isPoison l = false) ∧ barOk 0 (2 ^ 38 - 1) 64 = false ∧
     (s.setPkg 0 { s.pkg 0 with tdi := 1 }).tdiServes 0 true 0 = false) ∧
    (let s := atBar 0x1000 0 [1, 2, 3, 4]
     let ps := [(0, 0x1000, 4)]
     let t := { s with poison := [(32, true)] }
     s.physPlaces (barAddr 0 0x1000) 4 = ps ∧ s.tdiServes 0 s.arg.flag (bits s.arg.num 11 8) = true ∧ barOk 0 0x1000 4 = true ∧
     s.hostWaits 0 ps = false ∧ s.stuckIn ps true = false ∧ t.stuckIn ps true = false ∧ inRamB 0x1000 4 = true ∧
     (∀ l ∈ linesIn ps, s.walled 0 l = false ∧ s.keepsPoison ps l = false) ∧ (∃ l ∈ linesIn ps, t.keepsPoison ps l = true)) ∧
    ([(0, 4), (0, 8), (1, 8), (2, 16), (2, 32)].all fun (p : Nat × Nat) =>
      let w := hostAtomWidth p.1 p.2
      let ps := [(0, 0x1000, w)]
      w != 0 && 0x1000 % w == 0 && barOk 0 0x1000 w && solo.physPlaces (barAddr 0 0x1000) w == ps && !solo.hostWaits 0 ps &&
      !solo.stuckIn ps true && (linesIn ps).all (fun l => !solo.isPoison l && !solo.walled 0 l) && inRamB 0x1000 w) = true := by
  decide +kernel
/-- The storage ring of package 0 at 0x10000 holds one request: a read (1) or a write (2) of 4096 bytes at 0x20000. -/
def storing (op : Nat) : State :=
  let s := ((atBar 0 0 (List.replicate 4096 1)).setDev 0 0x0908 0x10000).setDev 0 0x0910 16
  (s.setBytes 0x10000 [1]).setBytes 0x10080 (bytesLE op 4 ++ bytesLE 0 4 ++ bytesLE 0 8 ++ bytesLE 0 8 ++ bytesLE 0x20000 8 ++ bytesLE 4096 4)
theorem witness_HostSteps_storage :
    ([1, 2].all fun op =>
      let s := storing op
      let r := s.bytes 0x10080 64
      settledB s && ([(0x10000, 4), (0x10084, 4), (0x10040, 4), (0x10080, 64), (0x20000, 4096)].all fun (p : Nat × Nat) =>
        s.physPlaces p.1 p.2 == [(0, p.1, p.2)] && !s.serviceWaits 0 true p.1 p.2 && !s.serviceWaits 0 false p.1 p.2 &&
        (linesOf p.1 p.2).all fun l => !s.walled 0 l && !s.isPoison l) &&
      inRamB 0x10080 64 && s.arg.data.length == 4096 && s.storCount 0 != 0 && tableOk 0x10000 && s.rdN 0x10000 4 != s.rdN 0x10040 4 &&
      !(s.pkg 0).dead && !badStore436 r && pkt r 0 4 == op && pkt r 0x18 8 == 0x20000 && pkt r 0x20 4 == 4096 && inRamB 0x10000 128 &&
      inRamB 0x20000 4096) = true := by decide +kernel
theorem witness_HostSteps_trust :
    (let s := fun (t : Nat) => { atBar 0 0 (List.replicate 32 5) with pkgs := [(0, { Package.reset with tdi := t })] }
     (s 0).heldError 0 = false ∧ ((s 0).pkg 0).tdi = 0 ∧ ((s 1).pkg 0).tdi = 1 ∧ ((s 2).pkg 0).tdi = 2 ∧ (s 0).arg.sub ≤ 8 ∧
     (s 0).arg.data.length = 32 ∧ ((s 0).pkg 0).leaf < 2 ^ 20 ∧
     ((s 3).setDie 0 { (s 3).die 0 with inReset := true }).heldError 0 = true) ∧
    (2 ^ 20 ≤ ({ solo with pkgs := [(0, { Package.reset with leaf := 2 ^ 20 })] }.pkg 0).leaf) := by decide +kernel

/-- Packages 1 and 2 are in the cell map of die 0, and a port of their route is up. -/
def linked (s : State) : State :=
  (s.setDie 0 { s.die 0 with
    regs := [(0x0800, 0x80000000), (0x0830, 3), (0x0C00, 0x828180), (0x3004, 1), (0x3008, 1)]
    ports := Vector.replicate 6 (Link.reset true) }).setDie 8 { Die.reset with
      regs := [(0x0800, 0x80020002), (0x0C00, 0x828180)], ports := Vector.replicate 6 (Link.reset true) }

/-- A small page from 0x10000 to 0x20000 under the leaf at 0x100. -/
def aMove (phase : Nat) : Migration := ⟨phase, 0x10000, 0x20000, 0x100, 65536, 0x10081, 0⟩
def moving (phase : Nat) : State :=
  let s := gallery.setBytes 0x100 (bytesLE 0x10081 8)
  s.setDie 0 { s.die 0 with mig := some (aMove phase) }
theorem witness_PageMoves :
    (let s := (((gallery.setBytes 0x100 (bytesLE 0x10081 8)).setDev 0 0x0040 0x10000).setDev 0 0x0048 0x20000).setDev 0 0x0050 0x100
     (s.die 0).mig = none ∧ tableOk 0x10000 = true ∧ tableOk 0x2FFFF = true ∧ gaDie 0x10000 = 0 ∧ s.migLeafOk 0x100 0x10000 65536 = true ∧
     s.reachable 0 0 = true ∧ s.migLeafOk 0x200 0x10000 65536 = false) ∧
    ([1, 2, 3, 4, 5].all fun n => ((moving n).die 0).mig == some (aMove n) && !((moving n).pkg 0).dead && !(moving n).declared 0 0) = true ∧
    (moving 1).engineIn 0x10000 65536 = false ∧ (moving 1).copiedIn (aMove 1) = [] ∧ (moving 4).migInUse (aMove 4) = false ∧
    ({ moving 4 with teams := (queued { userCopy with started := true, units := [{ aUnit with src := [(5, 0x20000, 16)] }] }).teams }).migInUse
      (aMove 4) = true ∧ Memory.wf (moving 2).mem = true ∧
    (BitVec.ofNat 64 ((moving 3).rdN 0x100 8) ^^^ (aMove 3).old) &&& ~~~0x60#64 = 0#64 ∧
    (let m := { aMove 3 with old := 0x10080 }
     (BitVec.ofNat 64 ((moving 3).rdN 0x100 8) ^^^ m.old) &&& ~~~0x60#64 ≠ 0#64) := by decide +kernel
/-- A page that moves to package 1, whose cell the die has declared dead, and whose own cell that package has; the die's package
without power. -/
theorem witness_PageMoves_cells :
    (let m := { aMove 4 with dst := 2 ^ 44 }
     let u := linked gallery
     let s := ((u.setDie 0 { u.die 0 with mig := some m }).setDie 4 { Die.reset with regs := [(0x0800, 0x80010001), (0x0C00, 0x828180)] })
     gaDie m.dst = 4 ∧ gaPkg m.dst = 1 ∧ (s.die 0).mig = some m ∧ (s.pkg 0).dead = false ∧ s.declared 0 1 = false ∧ s.declared 4 0 = false ∧
     (s.setDev 0 0x0808 2).declared 0 1 = true ∧ (s.setDev 4 0x0808 1).declared 4 0 = true ∧ (s.setDev 4 0x0808 1).declared 0 1 = false ∧
     ((s.setPkg 0 { s.pkg 0 with dead := true }).pkg 0).dead = true) := by decide +kernel
theorem witness_PageMoves_buckets :
    solo.sliceFused 0 5 = false ∧ (solo.setSysReg 0 0x703 32).sliceFused 0 5 = true ∧
    (let s := (solo.setDie 0 { solo.die 0 with served := [(3, 5)] }).setDev 0 0x0060 1
     (s.dev 0 0x0060).getLsbD 0 = true ∧ s.rebPeriod 0 ≤ s.cycle - (s.die 0).period ∧ (s.rebalance 0).isSome = true ∧
     (s.setDev 0 0x0060 0x101).rebPeriod 0 = 256 ∧ s.cycle - (s.die 0).period < 256) ∧ solo.rebalance 0 = none ∧
    (let s := solo.setDie 0 { solo.die 0 with reb := [(3, 3), (4, 9)] }
     let t := solo.setDie 0 { solo.die 0 with reb := [(4, 9)] }
     s.bucket 0 3 = 3 ∧ t.bucket 0 4 ≠ 9 ∧ t.bucketBlocked 0 4 = false) ∧
    (let m : Migration := { aMove 1 with bytes := 2 ^ 28 }
     (solo.setDie 0 { solo.die 0 with mig := some m, reb := [(4, 9)] }).bucketBlocked 0 4 = true) := by decide +kernel

/-! ### Coherence, links, cells -/

/-- Package 1 is in the gallery, in cell 1; a request of it for line 32 stands at its home, die 0, under key 4. -/
def aTxn (op phase grant : Nat) : Txn := ⟨userKey, op, 0x1000, 1, phase, grant, 0, some 1, some []⟩
def asking (t : Txn) : State :=
  { gallery with
    txns := [(4, t)]
    groups := [(userKey, { cored.g with dk := 4 })]
    dies := [(0, { Die.reset with
        regs := [(0x0800, 0x80000000), (0x0830, 3), (0x0C00, 0x8180), (0x3004, 1)], ports := Vector.replicate 6 (Link.reset true) }),
      (4, { Die.reset with regs := [(0x0800, 0x80010001), (0x0C00, 0x8180)], ports := Vector.replicate 6 (Link.reset true) })]
    arg := { Arg.zero with key := 4 } }
def pendingB (s : State) (op : Nat) (t : Txn) : Bool := @decide (Pending s op t) (by unfold Pending Heard; infer_instance)
theorem witness_HomeService :
    ([1, 2, 3, 7, 8, 9].all fun op => pendingB (asking (aTxn op 0 0)) op (aTxn op 0 0)) = true ∧
    (let s := asking (aTxn 1 0 0)
     s.isPoison 32 = false ∧ (s.dirAt 32).state = 0 ∧ s.firewall 0x1000 ((s.cellOf 0 1).getD 0) = true ∧ s.holders 32 = [] ∧
     (let t : Txn := { aTxn 1 0 0 with seq := none, ask := none }
      @decide (Heard (asking t) 1 t) (by unfold Heard; infer_instance) = true ∧ ((asking t).die 0).recov.phase = 0 ∧
      ((asking t).setLines 32).length < 16) ∧ settledB s = true ∧ s.clearFor 32 1 = true ∧ lineCached 0x1000 = true ∧ lineCached (coreAddr 0 0 0) = false ∧
     ({ s with poison := [(32, true)] }).isPoison 32 = true ∧
     (s.setDev 0 0x0830 1).firewall 0x1000 ((s.cellOf 0 1).getD 0) = false) := by decide +kernel
/-- A GetS of a shared line, of one that another package owns in O, of one that its own package holds in E; requests of a place
without a line. -/
theorem witness_HomeService_states :
    (let s := { asking (aTxn 1 0 0) with dir := [(32, ⟨1, 0, 4⟩)] }
     pendingB s 1 (aTxn 1 0 0) = true ∧ s.isPoison 32 = false ∧ (s.dirAt 32).state = 1) ∧
    (let s := { linked (asking (aTxn 1 0 0)) with dir := [(32, ⟨3, 2, 4⟩)] }
     pendingB s 1 (aTxn 1 0 0) = true ∧ s.ownerMute 32 = false ∧ (s.dirAt 32).owner ≠ 1) ∧
    (let s := { asking (aTxn 1 0 0) with dir := [(32, ⟨2, 1, 2⟩)], held := [(32 * 1024 + 1, 2)] }
     pendingB s 1 (aTxn 1 0 0) = true ∧ (s.dirAt 32).owner = 1 ∧ (s.dirAt 32).state = 2) ∧
    ([7, 8, 9].all fun op =>
      let t := { aTxn op 0 0 with ga := coreAddr 0 0 0 }
      pendingB (asking t) op t && !lineCached t.ga) = true := by decide +kernel

/-- Package 1 owns line 32 in a state, and another request wants it alone or not. -/
def owned (state have_ : Nat) (alone : Bool) : State :=
  { linked (asking { (if alone then aTxn 2 0 0 else aTxn 1 0 0) with src := 2, ask := some [1] }) with
    dir := [(32, ⟨state, 1, 2⟩)], held := if have_ = 0 then [] else [(32 * 1024 + 1, have_)]
    arg := { Arg.zero with key := 1, sub := 32 } }
/-- A write notice of package 1 for line 32; the same with the package's cell set wrongly in the map. -/
def noticing (dirState : Nat) : State := { owned dirState dirState false with txns := [(4, { aTxn 4 0 0 with ask := none })] }
theorem witness_CopiesAndResponses :
    ([2, 1].all fun d =>
      let n : Txn := { aTxn 4 0 0 with ask := none }
      let s := noticing d
      (s.txns.find? fun t => t.2.op = 4 && t.2.phase = 0 && t.2.src = 1 && t.2.ga / 128 = 32) == some (4, n) && !s.unheard n &&
      n.src != gaPkg n.ga && s.srcOk 0 1 && n.seq.isSome && s.turnOf 4 n && !s.cannotServe n && (s.die 0).recov.phase == 0 &&
      (s.dirAt 32).state == d && (s.dirAt 32).owner == 1) = true ∧
    (let s := (noticing 2).setDev 0 0x0C00 0x828280
     s.srcOk 0 1 = false ∧ s.unheard (aTxn 4 0 0) = false) ∧
    ([4, 3, 2].all fun d =>
      let s := { owned d 0 false with txns := [] }
      s.returning 1 32 && (s.dirAt 32).state == d && !(s.pkg 0).dead && s.hears 0 1 && (s.begun 32).isNone && !s.engineOwns 32 &&
      !s.blocked (32 * 128) && s.srcOk 0 1 && (s.die 0).recov.phase == 0 && !(s.setDev 0 0x0808 2).hears 0 1 &&
      !(s.setDev 0 0x0C00 0x828280).srcOk 0 1 && (s.setDev 0 0x0C00 0x828280).hears 0 1) = true ∧
    ([owned 2 2 true, owned 4 4 false, owned 2 2 false, { owned 1 1 true with dir := [(32, ⟨1, 0, 2⟩)] }].all fun s =>
       match s.txns with
       | [(k, t)] => @decide (Asked s 1 32 k t) (by unfold Asked; infer_instance)
       | _ => false) = true ∧ settledB (owned 2 2 true) = true ∧
     (owned 4 4 false).heldBy 32 1 ≠ 0 ∧ (owned 2 2 false).heldBy 32 1 ≠ 0 := by decide +kernel
theorem witness_CopiesAndResponses_answers :
    ([1, 2, 3, 4, 7, 8, 9].all fun op => [0, 4, 5, 7].all fun gr =>
      let t := aTxn op 1 gr
      @decide (Answered (asking t) t) (by unfold Answered; infer_instance)) = true ∧
    ([(1, 0), (0, 0), (1, 7)].all fun (p : Nat × Nat) =>
      let s := { asking (aTxn 1 p.1 p.2) with cycle := 2 ^ 30 }
      (s.group userKey).dk != gaDie 0x1000 && !s.blocked 0x1000 && decide (s.txnLimit 4 ≤ s.cycle) && decide (s.arg.key < s.fresh)) = true ∧
    (asking (aTxn 1 1 0)).cycle - 0 < (asking (aTxn 1 1 0)).txnLimit 4 := by decide +kernel

def aHeader : List Byte := bytesLE 0x20 1 ++ bytesLE 0 1 ++ bytesLE 0 2 ++ bytesLE 0 2 ++ bytesLE 0x80 1 ++ List.replicate 25 0
/-- A station with 300 bytes that wait, and with the flits 6, 7, 8 kept. -/
def aStation : Station := { Station.reset with wait := List.replicate 300 1 }
theorem witness_LinkSteps :
    (solo.edge 0 0).up = true ∧ (solo.edge 0 0).training = false ∧ (solo.station 0 0 3).seq = 0 ∧ (5 : BitVec 12) ≠ (solo.station 0 0 3).seq ∧
    ({ aStation with kept := [(6, []), (7, []), (8, [])] }.kept.findIdx? fun (f : BitVec 12 × List Byte) => f.1 == 7) = some 1 ∧
    aStation.kept[aStation.again]? = none ∧ aStation.wait ≠ [] ∧ aStation.kept.length < 512 ∧ aStation.next.isSome = true ∧
    ((solo.die 0).ports)[5]? = some (Link.reset false) ∧ (solo.sysReg 0 0x706).getLsbD (2 + 5) = false ∧
    (solo.die 0).badUnits.contains (0x3000 + 5) = false ∧
    (let s := solo.setDie 0 { solo.die 0 with ports := ((solo.die 0).ports).set 5 (Link.reset true) }
     (((s.die 0).ports)[5]?.map Link.up) = some true) ∧
    (gallery.dev 0 0x0800).getLsbD 31 = true ∧ gallery.badPacket 0 [] = true ∧
    (pktOps.any fun op => !gallery.badPacket 0 (bytesLE op 1 ++ List.replicate 5 0 ++ [0] ++ List.replicate 25 0)) = true := by decide +kernel

/-- A recovery of cell 1 on die 0 in a phase. -/
def recovering (phase : Nat) : State :=
  let s := asking (aTxn 2 0 0)
  { s.setDie 0 { s.die 0 with recov := ⟨phase, 1, [7], 0⟩ } with arg := Arg.zero, dir := [(32, ⟨4, 1, 2⟩)] }
theorem witness_CellSteps :
    (let s := { asking (aTxn 1 0 0) with arg := { Arg.zero with val := 1 } }
     bits 1 31 6 = 0 ∧ 1 ≠ s.myCell 0 ∧ (s.dev 0 0x0808).getLsbD 1 = false ∧ (s.die 0).recov.phase = 0 ∧
     ((s.setDev 0 0x0808 2).dev 0 0x0808).getLsbD 1 = true ∧ (s.die 0).recov.queue.contains 1 = false) ∧
    (let s := { asking (aTxn 1 0 0) with arg := { Arg.zero with val := 1 } }
     (4, aTxn 1 0 0) ∈ s.txns ∧ (s.group userKey).dk ≠ 0 ∧ gaDie 0x1000 = 0 ∧ s.inCell 0 1 1 = true ∧ (aTxn 1 0 0).seq.isSome = true) ∧
    (let s := { asking (aTxn 1 0 0) with arg := { Arg.zero with key := 4 } }
     s.myCell 4 ≠ 0 ∧ (s.group userKey).dk = 4 ∧ s.inCell 4 0 0 = true ∧ (s.dev 4 0x0808).getLsbD 0 = false) ∧
    ((recovering 4).core 0).posts = [] ∧ (recovering 4).isFull (mailGranule 0 ((recovering 4).firstCore 0) 0) = false ∧
    ((recovering 1).die 0).recov.phase = 1 ∧ (recovering 2).inCell 0 1 1 = true ∧ (recovering 2).txns = [(4, aTxn 2 0 0)] ∧
    settledB (recovering 2) = true ∧ (recovering 2).dirAt 32 = ⟨4, 1, 2⟩ ∧ gaDie 0x1000 = 0 ∧ (recovering 3).dir = [(32, ⟨4, 1, 2⟩)] ∧ ((recovering 4).die 0).recov.phase = 4 ∧
    (aTxn 2 0 0).gk ≠ noGroup ∧ (aTxn 2 0 0).phase = 0 := by decide +kernel

theorem witness_RegisterSteps :
    devWidth 0x0004 = none ∧ devMask 0 0x0000 ≠ 0 ∧ devMask 0 0x0828 ≠ 0 ∧ (devWidth 0x0900).isSome = true ∧
    ((List.range 0x1000).any fun o => devLocked o && (devWidth o).isSome && devMask 0 o != 0) = true ∧
    (gallery.dev 0 0x0800).getLsbD 31 = true ∧ (solo.dev 0 0x0800).getLsbD 31 = false ∧ solo.dir = [] ∧
    (let s := asking (aTxn 1 0 0)
     let s := (({ linked s with dir := [(32, ⟨4, 1, 2⟩)] }).setHeld 32 1 4).setDev 0 0x0830 1
     s.firewall (32 * 128) ((s.cellOf 0 1).getD 0) = false ∧ s.ownerMute 32 = false ∧ s.heldBy 32 1 = 4 ∧ gaDie (32 * 128) = 0 ∧
     (s.die 0).fwPend = [] ∧ s.engineUnpermitted 0 = false ∧ { s with txns := [] }.takesUnpermitted 0 = false ∧ settledB s = true ∧
     (s.setPkg 1 { s.pkg 1 with dead := true }).ownerMute 32 = true) ∧
    gaDie (2 ^ 44) ≠ 0 ∧ gaRegion 0x1000 = 0 ∧ solo.isPoison 32 = false ∧ solo.inMove 0x1000 = false ∧ (solo.dirAt 32).state ≠ 5 ∧
    { solo with poison := [(32, true)] }.isPoison 32 = true ∧ (solo.dirAt 32).state = 0 ∧ solo.inner = [] ∧ inOrderB solo = true ∧
    gaRegion (coreAddr 0 0 0) ≠ 0 := by
  decide +kernel

/-! ### Debug, upkeep, reset -/

/-- DBG.LID and DBG.TIDX name the user's team; its stop is in a state. -/
def stopping (st : Nat) : State :=
  let s := ({ gallery with
    launches := [(1, aLaunch 1)]
    teams := [(firstTeam, { supervisorTeam 0 0 with kind := .grid, base := 4096, lk := 1, held := st == 3 })]
    groups := [(userKey, cored.g)] }).setDev 0 0x0A00 7
  (s.setDie 0 { s.die 0 with dbgTeam := firstTeam, dbgStep := some [] }).setDbg 0 st
theorem witness_TeamStops :
    (stopping 0).dbgState 0 = 0 ∧ (stopping 0).dbgFind 0 false = some firstTeam ∧ ((stopping 0).setDev 0 0x0A00 8).dbgFind 0 false = none ∧
    (stopping 1).dbgState 0 = 1 ∧ ((stopping 1).team ((stopping 1).die 0).dbgTeam).status = .resident ∧
    (stopping 3).dbgState 0 = 3 ∧ ((stopping 3).team ((stopping 3).die 0).dbgTeam).held = true ∧ ((stopping 3).die 0).dbgStep = some [] ∧
    (stopping 2).dbgState 0 = 2 ∧ firstTeam ≤ ((stopping 2).die 0).dbgTeam ∧ ((stopping 2).team firstTeam).status ≠ .retired ∧
    (stopping 4).dbgState 0 = 4 ∧ (stopping 2).cycle - ((stopping 2).die 0).dbgSince < (stopping 2).holdLimit 0 ∧
    ({ stopping 2 with cycle := 10 ^ 12 }).holdLimit 0 ≤ 10 ^ 12 := by decide +kernel

/-- Sampling on core 0: the period of 64 cycles has passed once. -/
def sampled : State :=
  { solo with
    cores := [(0, { Core.reset with sys := [(0x300, 13), (0x301, 0x10000), (0x302, 64)] })]
    cycle := 100 }
theorem witness_UpkeepSteps :
    solo.sampling 0 = false ∧ (0#64).getLsbD 0 = false ∧ (1#64).getLsbD 0 = true ∧ (tracing.coreSys 0 0x400).getLsbD 0 = true ∧
    solo.windowNow 0 = (solo.die 0).window ∧ ({ solo with cycle := 10 ^ 10 }).windowNow 0 ≠ 0 ∧ (solo.pkg 0).tdi = 0 ∧
    (solo.sysReg 0 0x601).extractLsb' 0 2 ≠ 3#2 ∧ (solo.setSysReg 0 0x602 1).sysReg 0 0x602 = 1 ∧ solo.sysReg 0 0x602 ≠ 1 := by
  decide +kernel
theorem witness_UpkeepSteps_sample :
    (let now := sampled.cycleOf 0
     sampled.sampling 0 = true ∧ now / sampled.samplePeriod 0 - (sampled.core 0).ticked / sampled.samplePeriod 0 = 1 ∧
     sampled.residents 0 0 0 = [sampled.g] ∧ sampled.g.slot < 16 ∧ ([1, 2, 3].all fun p => (sampled.residents 0 0 p).isEmpty) = true) ∧
    ({ sampled with cycle := 0 }).sampling 0 = true ∧
    (let s := { solo with cores := [(0, { Core.reset with failing := [(0, 9)] })] }
     (s.core 0).failing = [(0, 9)] ∧ (s.core 0).withdrawn = false ∧ (∀ t ∈ s.teams, ¬ (t.2.kind ≠ .supervisor))) := by decide +kernel
theorem witness_DieReset : natLE (slice [4, 0, 0, 0, 0, 0, 0, 0] 0 8) % 4 = 0 ∧ natLE (slice [2, 0, 0, 0, 0, 0, 0, 0] 0 8) % 4 ≠ 0 ∧
    (solo.coreBad 0 95) = false ∧ (solo.pkg 0).rollback ≤ 0 ∧ 3 < ({ Package.reset with rollback := 4 } : Package).rollback ∧
    ∃ d ∈ diesOf 0, d ≠ 0 ∧ ((solo.setDie 1 { solo.die 1 with inReset := true }).die d).inReset = true := by decide +kernel

end Sys2Proof.Tests
end

/-! ## Encoding and assembly (02_encoding_and_assembly.md)

The decoder reads back what the encoder writes, reads nothing but well-formed instructions, and a step runs what it reads at
the pc. -/

namespace Sys2Proof

/-! ### Words and their bytes (R55, R63) -/

/-- The bytes of a word, put together again. -/
theorem wordOfBytes_bytesOfWord (w : BitVec 32) :
    wordOfBytes (w.extractLsb' 0 8) (w.extractLsb' 8 8) (w.extractLsb' 16 8) (w.extractLsb' 24 8) = w := by
  unfold wordOfBytes
  rw [BitVec.extractLsb'_append_extractLsb'_eq_extractLsb' (show 24 = 16 + 8 from rfl),
    BitVec.extractLsb'_append_extractLsb'_eq_extractLsb' (show 16 = 8 + 8 from rfl),
    BitVec.extractLsb'_append_extractLsb'_eq_extractLsb' (show 8 = 0 + 8 from rfl)]
  exact BitVec.extractLsb'_eq_self

/-- The major of a word is its byte at the highest address. -/
theorem major_wordOfBytes (b0 b1 b2 b3 : Byte) : major (wordOfBytes b0 b1 b2 b3) = b3.toNat := by
  simp (disch := decide) only [major, wordOfBytes, Laws.Encoding.ext_hi, Laws.Encoding.ext_self, Nat.reduceSub]

theorem major_extWord (p : BitVec 24) : major (0xFF#8 ++ p) = 0xFF := by
  rw [major, Laws.Encoding.ext_hi _ _ _ _ (by decide)]
  rfl

theorem payload_extWord (p : BitVec 24) : (0xFF#8 ++ p).extractLsb' 0 24 = p := by
  rw [Laws.Encoding.ext_lo _ _ _ _ (by decide), Laws.Encoding.ext_self]

/-! ### What the decoder reads -/

/-- A word that is no `ext` is read alone. -/
theorem decode_word {w : BitVec 32} (h : major w ≠ 0xFF) (r : List Byte) :
    decode (bytesOfWord w ++ r) = .ok (decodeOne w none, r) := by
  simp [decode, bytesOfWord, wordOfBytes_bytesOfWord, h]

/-- An `ext` word is read as the payload of the word after it. -/
theorem decode_pair (p : BitVec 24) (w : BitVec 32) (r : List Byte) :
    decode (bytesOfWord (0xFF#8 ++ p) ++ (bytesOfWord w ++ r)) = .ok (decodeOne w (some p), r) := by
  simp [decode, bytesOfWord, wordOfBytes_bytesOfWord, major_extWord, payload_extWord]

/-- Everything the decoder reads is one word that is no `ext` word, or the word after an `ext` word. -/
theorem decodeOne_of_decode {bs : List Byte} {i : Instr} {r : List Byte} (h : decode bs = .ok (i, r)) :
    ∃ w x, i = decodeOne w x ∧ (x = none → major w ≠ 0xFF) := by
  unfold decode at h
  split at h
  · dsimp only at h
    split at h
    · split at h
      · obtain ⟨rfl, rfl⟩ := h
        exact ⟨_, _, rfl, nofun⟩
      · cases h
    · next hmaj =>
      obtain ⟨rfl, rfl⟩ := h
      exact ⟨_, _, rfl, fun _ => hmaj⟩
  · cases h

/-- What is read from one word does not begin with an `ext` (R63). -/
theorem not_ext_of_decode {bs : List Byte} {i : Instr} {r : List Byte} (hlen : bs.length ≤ 4) (h : decode bs = .ok (i, r)) :
    (bs[3]?).getD 0 ≠ 0xFF := by
  match bs, hlen, h with
  | [b0, b1, b2, b3], _, h =>
    rintro (rfl : b3 = 0xFF)
    simp [decode, major_wordOfBytes] at h

/-! ### Round trip of the encoding -/

/-- The law of the encoding for every instruction: constructor by constructor, in the order of `Instr`. -/
theorem Laws.Encoding.statement_holds (i : Instr) : Statement i :=
  Instr.casesOn i
    add sub mul mulh mad div rem min max abs neg cmp add64 sub64 cmp64 lea and or xor andn shl shr sar rol ror popc clz ctz brev
    bfx bfi sel addi andi ori xori shli shri sari muli shfl vote red scan perm faddF32 fsubF32 fmulF32 fmacF32 fminF32 fmaxF32
    cmpF32 rcpF32 rsqF32 sqrtF32 exp2F32 log2F32 tanhF32 faddF64 fsubF64 fmulF64 fmacF64 fminF64 fmaxF64 cmpF64 faddF16 fmulF16
    fmacF16 faddBf16 fmulBf16 fmacBf16 faddF16x2 fmulF16x2 fmacF16x2 faddBf16x2 fmulBf16x2 fmacBf16x2 fminFmaxHalf cmpF16
    cmpBf16 cvtToFloat cvtToInteger cvtToNarrow cvtBf16x2F32 cvtF16x2F32 atomc clre tagld tagst pclr cwb cinv cflush pref ldf
    stf ldS8 ldN8 ldS16 ldN16 ld32 ld64 ld128 atom32 st8 st16 st32 st64 st128 atom64 atom128 ldc32 ldc64 ldc128 ldcWK32 ldcWK64
    ldcWK128 ldcWC32 ldcWC64 ldcWC128 stc32 stc64 stc128 stcF32 stcF64 stcF128 stcT128 uadd usub umul umad udiv urem umin umax
    ucmp uadd64 usub64 ucmp64 ulea uand uor uxor uandn ushl ushr usar upopc uclz uctz ubfx usel uaddi uandi uori ushli ushri
    usari li ufaddF32 ufmulF32 ufmacF32 ucmpF32 ucvtToFloat ucvtToInteger prep prepv br brt brf brnone brany call bloop binv
    bmov brd msave mload mand mandn mor mrestore mall mcount mfirst brk svc rett sysr sysw wline mmaBf16 mmaF16 mmaT8 mmaT6
    mmaI4 mmas mmaqBf16 mmaqF16 mmaqT8 mmaqT6 mmaqI4 mmaqs mscl mfence mwait mstat cpy cpy2d cpyx cpyk freezeKeep stemend spawn
    spawnf launch bar arrive waitb quota energy bist trc send recv probe rwait collRed collBcast collGath cwait grun gset gwait
    tlbinv fence ext wordNotAnInstruction instructionFetchFault isync lexit exit nop yield freeze registerCopyReexecute
    mailboxPost dieReset groupEnd teamDispatch gridPrologueDispatch binTimerExpiry quantumSwap groupFrameWrite teamRestore
    groupFrameRestore energyWindow clockThrottle launchCompletion launchFailureReport launchEndNotice matrixOpComplete
    copyRequestStart copyRequestComplete pageRequestPost prqDone atsCompletion prgResponse atsInvalidation hostRead hostWrite
    hostAtomicop tdispMessage stopInterface ideKm spdmMeasurements storageRequest migGo migrationRecall migrationCopy
    migrationRemap migrationForward migrationRelease rebalancePeriod bucketWrite bucketDrain homeGets homeGetm homeUpgrade
    writeNotice putm pute homeAtomic uncachedRead uncachedWrite Laws.Encoding.recall invalidate cacheEvict responseData
    responseGrant responseAcknowledge responseRefused responsePoisoned bulkPacket keyCopyPacket transactionTimeout dieEdgeFlit
    dieEdgeRetrain d2dRetrain fabricPortRetrain fabRetrain messageAnnouncement announcementReply messageRetry messageDataPacket
    collectivePacket collectiveDrainReport collectiveDrainedNotice clauseLaunch clauseCopy clauseCollective clauseConditional
    clauseWhile galIdWrite recDeclare recoveryFence recoveryResolve recoverySweep recoveryReport recReadmit firewallWrite
    rdirQuery registerWrite dbgStop teamStopEffect dbgAttach dbgStep dbgResume dbgTerminate holdLimitExpiry sampleTick
    traceEnable margVolt margLrun marginRunDone laneSpareSteer bistTestComplete cellFailure fabricLinkTraining

/-- Settles O1: the encoder writes one word or a pair, and each instruction's law reads it back. -/
theorem decodeOfEncode : Obligations.DecodeOfEncode := by
  unfold Obligations.DecodeOfEncode
  intro i r henc hwf
  obtain ⟨hread, hmaj⟩ := Laws.Encoding.statement_holds i henc hwf
  cases hx : i.extOf with
  | none =>
    rw [hx] at hread
    simpa [encodeBytes, encode, hx, hread] using decode_word (hmaj hx) r
  | some p =>
    rw [hx] at hread
    simpa [encodeBytes, encode, Instr.extWord, hx, hread] using decode_pair p i.word r

/-! ### Well-formedness of what is read (R64, R76) -/

theorem major_lt (w : BitVec 32) : major w < 256 := (w.extractLsb' 24 8).isLt

/-- A word of the table has a major that the table assigns. -/
theorem rowsAt_of_rowWord {w : BitVec 32} (h : rowWord w = true) : rowsAt (major w) ≠ [] := by
  intro hnil
  simp [rowWord, hnil] at h

/-- Major 0x37 holds the approximations, told apart by M (Table 2-4). -/
theorem decodeMajor3_approximation_wf (w : BitVec 32) :
    (decodeMajor3 7 w).wf = true ∧ (decodeMajor3 7 w).encodable = true := by
  simp only [decodeMajor3]
  split <;> exact ⟨rfl, rfl⟩

/-- Major 0xE4 holds `freeze` and `freeze.keep`. -/
theorem decodeMajorE_freeze_wf (w : BitVec 32) (x : Option (BitVec 24)) :
    (decodeMajorE 4 w x).wf = true ∧ (decodeMajorE 4 w x).encodable = true := by
  simp only [decodeMajorE]
  split <;> exact ⟨rfl, rfl⟩

/-- What 16 rows of 16 majors pass, every major passes. -/
theorem of_all_majors {f : Nat → Bool} (h : ((List.range 16).all fun a => (List.range 16).all fun b => f (16 * a + b)) = true) :
    ∀ k, k < 256 → f k = true := by
  intro k hk
  have hrow := List.all_eq_true.mp h (k / 16) (List.mem_range.mpr (by omega))
  have hone := List.all_eq_true.mp hrow (k % 16) (List.mem_range.mpr (by omega))
  rwa [Nat.div_add_mod] at hone

/-- The 256 majors, each by computation: one holds several instructions, or has no row, or its word without a payload is one
well-formed instruction whatever its fields. -/
theorem decodeFields_of_major (w : BitVec 32) :
    (major w == 0x37 || major w == 0xE4 || (rowsAt (major w)).isEmpty ||
      ((decodeFields w none).wf && (decodeFields w none).encodable)) = true := by
  have hk := major_lt w
  unfold decodeFields
  generalize major w = k at hk ⊢
  revert k
  exact of_all_majors rfl

/-- The fields of a word of an assigned major make a well-formed instruction without a payload. -/
theorem decodeFields_alone_wf {w : BitVec 32} (hrow : rowsAt (major w) ≠ []) :
    (decodeFields w none).wf = true ∧ (decodeFields w none).encodable = true := by
  by_cases h37 : major w = 0x37
  · simpa [decodeFields, h37] using decodeMajor3_approximation_wf w
  by_cases hE4 : major w = 0xE4
  · simpa [decodeFields, hE4] using decodeMajorE_freeze_wf w none
  simpa [h37, hE4, hrow] using decodeFields_of_major w

/-- The fields of a word after a payload make a well-formed instruction that carries it, for each major of Table 2-3: those are
the branches of `acceptsKind`, whose last takes no payload. -/
theorem decodeFields_payload_wf {w : BitVec 32} {p : BitVec 24} (hx : acceptsKind (major w) (p.extractLsb' 22 2) = true) :
    (decodeFields w (some p)).wf = true ∧ (decodeFields w (some p)).encodable = true := by
  unfold decodeFields
  generalize major w = k at hx ⊢
  unfold acceptsKind at hx
  split at hx
  rotate_right
  · cases hx
  all_goals exact ⟨hx, rfl⟩

/-- A word, alone or after an `ext` word, reads as a well-formed instruction with an encoding. -/
theorem decodeOne_wf {w : BitVec 32} {x : Option (BitVec 24)} (hmaj : x = none → major w ≠ 0xFF) :
    (decodeOne w x).wf = true ∧ (decodeOne w x).encodable = true := by
  unfold decodeOne
  split
  · next hacc =>
    obtain ⟨hrow, hx⟩ : rowWord w = true ∧ prefixOk (major w) x = true := by simpa [accepted] using hacc
    cases x with
    | none => exact decodeFields_alone_wf (rowsAt_of_rowWord hrow)
    | some p => exact decodeFields_payload_wf hx
  · next hacc =>
    cases x with
    | none =>
      have hrow : rowWord w = false := by simpa [accepted, prefixOk] using hacc
      exact ⟨by simp [Instr.wf, hrow, hmaj], rfl⟩
    | some p => exact ⟨by simpa [Instr.wf] using hacc, rfl⟩

/-- Settles O2: whatever is read is one word, alone or after an `ext` word. -/
theorem decodedIsWellFormed : Obligations.DecodedIsWellFormed := by
  unfold Obligations.DecodedIsWellFormed
  intro bs i r h
  obtain ⟨w, x, rfl, hmaj⟩ := decodeOne_of_decode h
  exact decodeOne_wf hmaj

/-- Settles O3, by decoding each word. -/
theorem decodedWords : Obligations.DecodedWords :=
  ⟨rfl, rfl, rfl, rfl, rfl, rfl, rfl⟩

namespace Machine

/-! ### Fetching what a step runs (R65, R135) -/

section Held
variable {s : State} {gr : Nat} {bs : List Byte}

/-- A granule that the run holds is not fetched again. -/
theorem State.loadGranule_held (h : Store.find gr s.g.run = some bs) (hlen : bs.length = 16) :
    s.loadGranule gr = .ok s bs := by
  simp [State.loadGranule, heldGranule, h, hlen]

theorem State.loadWord_held {pc : Nat} (h : Store.find (pc / 16) s.g.run = some bs) (hlen : bs.length = 16) :
    s.loadWord pc = .ok s (slice bs (pc % 16) 4) := by
  simp [State.loadWord, State.loadGranule_held h hlen]

/-- A granule that the run does not hold, and whose last word is no `ext`, is fetched into it alone. -/
theorem State.loadGranule_fetched {t : State} (h : Store.find gr s.g.run = none) (hf : s.fetchGranule gr = .ok t bs)
    (hext : lastExt bs = false) :
    s.loadGranule gr = .ok { t with g := { t.g with run := Store.ins gr bs t.g.run } } bs := by
  simp [State.loadGranule, State.fetchUnit, h, hf, hext, holdAll]

end Held

/-- The fetch of a granule on one page whose line is at hand and sound (R135, R136): the walker's marks are made and the group's own
stores to the granule performed, and the requests that waited for the line have been answered. -/
theorem State.fetchGranule_ok {s m : State} {gr : Nat} {p : Piece} (hm : (s.mark [p]).establish (p.x.ga / 16) = m)
    (hx : s.xlat s.g.ctx (gr * 16) 16 .fetch = .ok [p]) (hreg : gaRegion p.x.ga ≠ 15) (hmark : s.markRefused p.x = false)
    (hline : s.lineState .fetch ⟨0, gr * 16, p.x.ga, gr * 16, p.x.home, 16⟩ = .ok)
    (hpoison : s.isPoison (p.x.ga / 128) = false) (hbad : s.isBad (p.x.ga / 16) = false) :
    s.fetchGranule gr =
      .ok { m with txns := m.txns.filter fun t => !(t.2.gk == m.g.key && t.2.ga / 128 == p.x.ga / 128 && t.2.phase == 6) }
        (m.bytes p.x.ga 16) := by
  simp [State.fetchGranule, hx, hreg, hmark, hline, hpoison, hbad, hm]

theorem length_slice_le {α : Type} (l : List α) (i k : Nat) : (slice l i k).length ≤ k := List.length_take_le _ _

/-- A slice is made of two that adjoin. -/
theorem slice_add {α : Type} (l : List α) (i j k : Nat) : slice l i (j + k) = slice l i j ++ slice l (i + j) k := by
  simp [slice, List.take_add, List.drop_drop]

/-- The instruction of one word at the pc. -/
theorem State.fetch_word {s t : State} {bs : List Byte} {i : Instr} {r : List Byte} (hload : s.loadWord s.g.pc.toNat = .ok t bs)
    (hlen : bs.length ≤ 4) (hdec : decode bs = .ok (i, r)) : s.fetch = .instr t i := by
  simp only [State.fetch, hload, if_neg (not_ext_of_decode hlen hdec), hdec]

/-- The instruction of an `ext` word at the pc and the word after it. -/
theorem State.fetch_pair {s t u : State} {b c : List Byte} {i : Instr} {r : List Byte} (hload : s.loadWord s.g.pc.toNat = .ok t b)
    (hext : (b[3]?).getD 0 = 0xFF) (hload2 : t.loadWord ((s.g.pc.toNat + 4) % 2 ^ 56) = .ok u c)
    (hdec : decode (b ++ c) = .ok (i, r)) : s.fetch = .instr u i := by
  simp only [State.fetch, hload, hext, if_true, hload2, hdec]

/-- With no turn named, the group in hand, due and selected by its pipe, runs what its fetch delivers (R357). -/
theorem step_of_fetch {s t : State} {i : Instr} (hag : s.agenda = []) (hbeat : s.beat = false) (hmay : s.mayRun s.g.key = true)
    (hf : s.enter.fetch = .instr t i) : step s = t.runs i := by
  simp [step, hag, hbeat, hmay, State.runOne, hf, State.runs]

/-- The word after one that stands in the lower half of its granule, or at its middle, is in the same granule. -/
theorem next_word_in_granule {pc : BitVec 56} (h : pc.toNat % 16 ≤ 8) :
    (pc.toNat + 4) % 2 ^ 56 / 16 = pc.toNat / 16 ∧ (pc.toNat + 4) % 2 ^ 56 % 16 = pc.toNat % 16 + 4 := by
  have hlt := pc.isLt
  omega

/-- A step whose granule is fetched now, into the run. -/
theorem step_fetched {s t : State} {bs : List Byte} {i : Instr} {r : List Byte} (hag : s.agenda = []) (hbeat : s.beat = false)
    (hmay : s.mayRun s.g.key = true) (hrun : Store.find (s.enter.g.pc.toNat / 16) s.enter.g.run = none)
    (hf : s.enter.fetchGranule (s.enter.g.pc.toNat / 16) = .ok t bs) (hext : lastExt bs = false)
    (hdec : decode (slice bs (s.enter.g.pc.toNat % 16) 4) = .ok (i, r)) :
    step s = State.runs { t with g := { t.g with run := Store.ins (s.enter.g.pc.toNat / 16) bs t.g.run } } i := by
  refine step_of_fetch hag hbeat hmay (State.fetch_word ?_ (length_slice_le _ _ _) hdec)
  simp [State.loadWord, State.loadGranule_fetched hrun hf hext]

/-- A step whose word the run holds. -/
theorem step_held {s : State} {bs : List Byte} {i : Instr} {r : List Byte} (hag : s.agenda = []) (hbeat : s.beat = false)
    (hmay : s.mayRun s.g.key = true) (hrun : Store.find (s.enter.g.pc.toNat / 16) s.enter.g.run = some bs) (hlen : bs.length = 16)
    (hdec : decode (slice bs (s.enter.g.pc.toNat % 16) 4) = .ok (i, r)) : step s = s.enter.runs i :=
  step_of_fetch hag hbeat hmay (State.fetch_word (State.loadWord_held hrun hlen) (length_slice_le _ _ _) hdec)

/-- A step whose pair the run holds in one granule. -/
theorem step_held_pair {s : State} {bs : List Byte} {i : Instr} {r : List Byte} (hag : s.agenda = []) (hbeat : s.beat = false)
    (hmay : s.mayRun s.g.key = true) (hrun : Store.find (s.enter.g.pc.toNat / 16) s.enter.g.run = some bs) (hlen : bs.length = 16)
    (hpc : s.enter.g.pc.toNat % 16 ≤ 8) (hext : bs[s.enter.g.pc.toNat % 16 + 3]? = some 0xFF)
    (hdec : decode (slice bs (s.enter.g.pc.toNat % 16) 8) = .ok (i, r)) : step s = s.enter.runs i := by
  obtain ⟨hgr, hoff⟩ := next_word_in_granule hpc
  have hload2 := State.loadWord_held (pc := (s.enter.g.pc.toNat + 4) % 2 ^ 56) (hgr ▸ hrun) hlen
  have hpair : decode (slice bs (s.enter.g.pc.toNat % 16) 4 ++ slice bs ((s.enter.g.pc.toNat + 4) % 2 ^ 56 % 16) 4) =
      .ok (i, r) := by
    rwa [hoff, ← slice_add]
  exact step_of_fetch hag hbeat hmay (State.fetch_pair (State.loadWord_held hrun hlen) (by simp [slice, hext]) hload2 hpair)

/-- Settles O4: one case for a granule that is fetched now, one for a word and one for a pair that the run holds. -/
theorem stepRunsDecoded : Obligations.StepRunsDecoded := by
  unfold Obligations.StepRunsDecoded
  refine ⟨?_, ?_, ?_⟩ <;> dsimp only
  · intro s p i r hag hbeat hmay hrun hx hreg hmark hline hpoison hbad hext hdec
    have hf := State.fetchGranule_ok rfl hx hreg hmark hline hpoison hbad
    exact (step_fetched hag hbeat hmay hrun hf hext hdec).trans rfl
  · exact fun _ _ _ _ => step_held
  · exact fun _ _ _ _ => step_held_pair

end Machine

end Sys2Proof

/-! ## Number formats (03_number_formats.md)

The integer results in every width: wrapped or saturated (R96), divided (R97). The lane operations are these at 32 bits (R159),
and the atomics choose among their two operands (R197). -/

namespace Sys2Proof.Machine

/-! ### Wrapped and saturated results (R96) -/

section Fit
variable {n : Nat}

theorem intFit_wrap (uns : Bool) (x : Int) : intFit n uns false x = BitVec.ofInt n x := rfl

/-- A value that the signed type holds is its own result, read back. -/
theorem toInt_ofInt_of_mem {x : Int} (hn : 0 < n) (hlo : intMin n false ≤ x) (hhi : x ≤ intMax n false) :
    (BitVec.ofInt n x).toInt = x :=
  BitVec.toInt_ofInt_eq_self hn hlo (Int.lt_of_le_sub_one hhi)

/-- A value that the unsigned type holds is its own result, read back. -/
theorem toNat_ofInt_of_mem {x : Int} (hlo : 0 ≤ x) (hhi : x ≤ intMax n true) : ((BitVec.ofInt n x).toNat : Int) = x := by
  have hlt : x < ((2 ^ n : Nat) : Int) := Int.natCast_pow 2 n ▸ Int.lt_of_le_sub_one hhi
  rw [BitVec.toNat_ofInt, Int.emod_eq_of_lt hlo hlt, Int.toNat_of_nonneg hlo]

/-- The limits of a type are in order. -/
theorem intMin_le_intMax (uns : Bool) : intMin n uns ≤ intMax n uns := by
  cases uns with
  | false =>
    have hhalf : (0 : Int) < 2 ^ (n - 1) := Int.pow_pos (by decide)
    show -2 ^ (n - 1) ≤ 2 ^ (n - 1) - 1
    omega
  | true => exact Int.le_sub_one_of_lt (Int.pow_pos (by decide))

theorem toInt_intFit_sat (hn : 0 < n) (x : Int) :
    (intFit n false true x).toInt = max (intMin n false) (min (intMax n false) x) :=
  toInt_ofInt_of_mem hn (Int.le_max_left _ _) (Int.max_le.mpr ⟨intMin_le_intMax false, Int.min_le_left _ _⟩)

theorem toNat_intFit_sat (x : Int) : ((intFit n true true x).toNat : Int) = max 0 (min (intMax n true) x) :=
  toNat_ofInt_of_mem (Int.le_max_left _ _) (Int.max_le.mpr ⟨intMin_le_intMax true, Int.min_le_left _ _⟩)

/-- Saturation leaves a value that the type holds. -/
theorem intFit_of_mem {uns sat : Bool} {x : Int} (hlo : intMin n uns ≤ x) (hhi : x ≤ intMax n uns) :
    intFit n uns sat x = BitVec.ofInt n x := by
  cases sat with
  | false => rfl
  | true => simp only [intFit, if_true, Int.min_eq_right hhi, Int.max_eq_right hlo]

/-- The quotient of two naturals is no greater than the dividend, so the unsigned type holds it. -/
theorem intFit_natDiv (sat : Bool) (a b : BitVec n) :
    (intFit n true sat (Int.tdiv a.toNat b.toNat)).toNat = a.toNat / b.toNat := by
  have hlt : a.toNat / b.toNat < 2 ^ n := Nat.lt_of_le_of_lt (Nat.div_le_self _ _) a.isLt
  rw [← Int.ofNat_tdiv]
  have hhi : ((a.toNat / b.toNat : Nat) : Int) ≤ intMax n true := Int.le_sub_one_of_lt (by exact_mod_cast hlt)
  have hlo := Int.natCast_nonneg (a.toNat / b.toNat)
  rw [intFit_of_mem hlo hhi]
  exact_mod_cast toNat_ofInt_of_mem hlo hhi

end Fit

/-! ### Operands as integers, quotients and remainders (R97, Table 3-1) -/

section Divide
variable {n : Nat}

@[simp] theorem intOf_signed (x : BitVec n) : intOf false x = x.toInt := rfl
@[simp] theorem intOf_unsigned (x : BitVec n) : intOf true x = (x.toNat : Int) := rfl

@[simp] theorem ofInt_intOf (uns : Bool) (x : BitVec n) : BitVec.ofInt n (intOf uns x) = x := by
  cases uns with
  | false => exact BitVec.ofInt_toInt
  | true => rw [intOf_unsigned, BitVec.ofInt_natCast, BitVec.ofNat_toNat, BitVec.setWidth_eq]

@[simp] theorem intOf_zero (uns : Bool) : intOf uns (0#n) = 0 := by
  cases uns with
  | false => exact BitVec.toInt_zero
  | true => rw [intOf_unsigned, BitVec.toNat_zero, Int.natCast_zero]

/-- A divisor that is not all zeros is nonzero in either type. -/
theorem intOf_ne_zero (uns : Bool) {x : BitVec n} (hx : x ≠ 0#n) : intOf uns x ≠ 0 :=
  fun h0 => hx ((ofInt_intOf uns x).symm.trans (congrArg (BitVec.ofInt n) h0))

/-- The quotient by a nonzero divisor is the exact one, fitted to the type. -/
theorem intDiv_of_ne (uns sat : Bool) {a b : Int} (hb : b ≠ 0) : intDiv n uns sat a b = intFit n uns sat (a.tdiv b) :=
  if_neg hb

theorem intRem_of_ne {a b : Int} (hb : b ≠ 0) : intRem n a b = BitVec.ofInt n (a.tmod b) := if_neg hb

theorem intDiv_zero_unsigned (sat : Bool) (a : Int) : intDiv n true sat a 0 = BitVec.ofInt n (intMax n true) := rfl

theorem intDiv_zero_wrap (a : Int) : intDiv n false false a 0 = BitVec.ofInt n (-1) := rfl

theorem intDiv_zero_sat (a : Int) :
    intDiv n false true a 0 = if 0 ≤ a then BitVec.ofInt n (intMax n false) else BitVec.ofInt n (intMin n false) :=
  apply_ite (BitVec.ofInt n) _ _ _

theorem intRem_zero (a : Int) : intRem n a 0 = BitVec.ofInt n a := rfl

/-- The remainder of two naturals is less than 2^n. -/
theorem toNat_ofInt_natMod (a b : BitVec n) : (BitVec.ofInt n (Int.tmod a.toNat b.toNat)).toNat = a.toNat % b.toNat := by
  rw [← Int.ofNat_tmod, BitVec.ofInt_natCast, BitVec.toNat_ofNat]
  exact Nat.mod_eq_of_lt (Nat.lt_of_le_of_lt (Nat.mod_le _ _) a.isLt)

/-- Only MIN by −1 has a quotient that the signed type does not hold. -/
theorem tdiv_mem {a b : BitVec n} (hab : a ≠ BitVec.intMin n ∨ b ≠ -1#n) :
    intMin n false ≤ a.toInt.tdiv b.toInt ∧ a.toInt.tdiv b.toInt ≤ intMax n false := by
  rw [← BitVec.toInt_sdiv_of_ne_or_ne a b hab]
  exact ⟨BitVec.le_toInt _, Int.le_sub_one_of_lt BitVec.toInt_lt⟩

end Divide

/-! ### The lane operations of class I (R159, Tables 3-1 and 5-1)

M[0] is .sat and M[1] the unsigned type. -/

section ClassI
variable {m : BitVec 3}

theorem intRes_wrap (hsat : m.getLsbD 0 = false) (x : Int) : intRes m x = BitVec.ofInt 32 x := by
  simp only [intRes, hsat, intFit_wrap]

theorem toInt_intRes_sat (hsat : m.getLsbD 0 = true) (huns : m.getLsbD 1 = false) (x : Int) :
    (intRes m x).toInt = max (-2 ^ 31) (min (2 ^ 31 - 1) x) := by
  simp only [intRes, hsat, huns]
  exact toInt_intFit_sat (by decide) x

theorem toNat_intRes_sat (hsat : m.getLsbD 0 = true) (huns : m.getLsbD 1 = true) (x : Int) :
    ((intRes m x).toNat : Int) = max 0 (min (2 ^ 32 - 1) x) := by
  simp only [intRes, hsat, huns]
  exact toNat_intFit_sat x

/-- A quotient by a nonzero divisor is a class I result like any other. -/
theorem aluDiv_of_ne {a b : Word} (hb : b ≠ 0) :
    aluDiv m a b = intRes m ((intOf (m.getLsbD 1) a).tdiv (intOf (m.getLsbD 1) b)) :=
  intDiv_of_ne _ _ (intOf_ne_zero _ hb)

theorem aluRem_of_ne {a b : Word} (hb : b ≠ 0) :
    aluRem m a b = BitVec.ofInt 32 ((intOf (m.getLsbD 1) a).tmod (intOf (m.getLsbD 1) b)) :=
  intRem_of_ne (intOf_ne_zero _ hb)

theorem toNat_aluDiv_unsigned (huns : m.getLsbD 1 = true) {a b : Word} (hb : b ≠ 0) :
    (aluDiv m a b).toNat = a.toNat / b.toNat := by
  simp only [aluDiv_of_ne hb, intRes, huns, intOf_unsigned, intFit_natDiv]

theorem toNat_aluRem_unsigned (huns : m.getLsbD 1 = true) {a b : Word} (hb : b ≠ 0) :
    (aluRem m a b).toNat = a.toNat % b.toNat := by
  simp only [aluRem_of_ne hb, huns, intOf_unsigned, toNat_ofInt_natMod]

theorem aluRem_signed (huns : m.getLsbD 1 = false) {a b : Word} (hb : b ≠ 0) :
    aluRem m a b = BitVec.ofInt 32 (a.toInt.tmod b.toInt) := by
  simp only [aluRem_of_ne hb, huns, intOf_signed]

theorem aluDiv_signed_wrap (huns : m.getLsbD 1 = false) (hsat : m.getLsbD 0 = false) {a b : Word} (hb : b ≠ 0) :
    aluDiv m a b = BitVec.ofInt 32 (a.toInt.tdiv b.toInt) := by
  simp only [aluDiv_of_ne hb, intRes_wrap hsat, huns, intOf_signed]

/-- The quotient saturates for MIN by −1 alone: every other one is in range. -/
theorem toInt_aluDiv_signed_sat (huns : m.getLsbD 1 = false) (hsat : m.getLsbD 0 = true) {a b : Word} (hb : b ≠ 0) :
    (aluDiv m a b).toInt = if a = 0x80000000#32 ∧ b = 0xFFFFFFFF#32 then 2 ^ 31 - 1 else a.toInt.tdiv b.toInt := by
  rw [aluDiv_of_ne hb, toInt_intRes_sat hsat huns, huns, intOf_signed, intOf_signed]
  split
  · next hmin =>
    obtain ⟨rfl, rfl⟩ := hmin
    decide
  · next hmin =>
    obtain ⟨hlo, hhi⟩ : -2 ^ 31 ≤ a.toInt.tdiv b.toInt ∧ a.toInt.tdiv b.toInt ≤ 2 ^ 31 - 1 :=
      tdiv_mem (Decidable.not_and_iff_not_or_not.mp hmin)
    rw [Int.min_eq_right hhi, Int.max_eq_right hlo]

theorem aluDiv_min_negOne (huns : m.getLsbD 1 = false) (hsat : m.getLsbD 0 = false) :
    aluDiv m 0x80000000 0xFFFFFFFF = 0x80000000 := by
  rw [aluDiv_signed_wrap huns hsat (by decide)]
  decide

theorem aluDiv_zero_wrap (huns : m.getLsbD 1 = false) (hsat : m.getLsbD 0 = false) (a : Word) :
    aluDiv m a 0 = 0xFFFFFFFF := by
  simp only [aluDiv, huns, hsat]
  exact intDiv_zero_wrap a.toInt

theorem aluDiv_zero_sat (huns : m.getLsbD 1 = false) (hsat : m.getLsbD 0 = true) (a : Word) :
    aluDiv m a 0 = if 0 ≤ a.toInt then 0x7FFFFFFF else 0x80000000 := by
  simp only [aluDiv, huns, hsat]
  exact intDiv_zero_sat a.toInt

theorem aluDiv_zero_unsigned (huns : m.getLsbD 1 = true) (a : Word) : aluDiv m a 0 = 0xFFFFFFFF := by
  simp only [aluDiv, huns]
  exact intDiv_zero_unsigned _ (a.toNat : Int)

theorem aluRem_zero (a : Word) : aluRem m a 0 = a := by
  have hzero : intOf (m.getLsbD 1) (0 : Word) = 0 := intOf_zero _
  rw [aluRem, hzero, intRem_zero, ofInt_intOf]

theorem aluRem_min_negOne (huns : m.getLsbD 1 = false) : aluRem m 0x80000000 0xFFFFFFFF = 0 := by
  rw [aluRem_signed huns (by decide)]
  decide

end ClassI

/-! ### The values of atomics (R197, Table 6-7) -/

section Atomics
variable (n old op cmp : Nat)

/-- Of signed operands the smaller, or the greater, is chosen by its signed value and left as its bits. -/
theorem atomNew_minSigned : atomNew n 4#5 old op cmp =
    if (BitVec.ofNat (8 * n) op).toInt < (BitVec.ofNat (8 * n) old).toInt then op else old := rfl

theorem atomNew_maxSigned : atomNew n 6#5 old op cmp =
    if (BitVec.ofNat (8 * n) old).toInt < (BitVec.ofNat (8 * n) op).toInt then op else old := rfl

theorem toInt_atomNew_min : (BitVec.ofNat (8 * n) (atomNew n 4#5 old op cmp)).toInt =
    min (BitVec.ofNat (8 * n) old).toInt (BitVec.ofNat (8 * n) op).toInt := by
  rw [atomNew_minSigned]
  split <;> omega

theorem toInt_atomNew_max : (BitVec.ofNat (8 * n) (atomNew n 6#5 old op cmp)).toInt =
    max (BitVec.ofNat (8 * n) old).toInt (BitVec.ofNat (8 * n) op).toInt := by
  rw [atomNew_maxSigned]
  split <;> omega

theorem atomNew_minUnsigned : atomNew n 5#5 old op cmp = min old op := by
  change (if op < old then op else old) = min old op
  split <;> omega

theorem atomNew_maxUnsigned : atomNew n 7#5 old op cmp = max old op := by
  change (if old < op then op else old) = max old op
  split <;> omega

end Atomics

/-- Settles O9: a clause for each value of class I, and one for each operation of an atomic. -/
theorem arithmeticValues : Obligations.ArithmeticValues := by
  unfold Obligations.ArithmeticValues
  refine ⟨⟨?wrap, ?sat, ?satUnsigned, ?divUnsigned, ?remUnsigned, ?rem, ?div, ?divSat, ?divMin, ?divZero, ?divZeroSat,
    ?divZeroUnsigned, ?remZero, ?remMin⟩, ?atomics⟩
  case wrap => exact fun _ x hsat => intRes_wrap hsat x
  case sat => exact fun _ x hsat huns => toInt_intRes_sat hsat huns x
  case satUnsigned => exact fun _ x hsat huns => toNat_intRes_sat hsat huns x
  case divUnsigned => exact fun _ _ _ hb huns => toNat_aluDiv_unsigned huns hb
  case remUnsigned => exact fun _ _ _ hb huns => toNat_aluRem_unsigned huns hb
  case rem => exact fun _ _ _ hb huns => aluRem_signed huns hb
  case div => exact fun _ _ _ hb huns hsat => aluDiv_signed_wrap huns hsat hb
  case divSat => exact fun _ _ _ hb huns hsat => toInt_aluDiv_signed_sat huns hsat hb
  case divMin => exact fun _ => aluDiv_min_negOne
  case divZero => exact fun _ a huns hsat => aluDiv_zero_wrap huns hsat a
  case divZeroSat => exact fun _ a huns hsat => aluDiv_zero_sat huns hsat a
  case divZeroUnsigned => exact fun _ a huns => aluDiv_zero_unsigned huns a
  case remZero => exact fun _ => aluRem_zero
  case remMin => exact fun _ => aluRem_min_negOne
  case atomics =>
    intro n k old op cmp _ _ _
    refine ⟨?add, ?and, ?or, ?xor, ?min, ?minUnsigned, ?max, ?maxUnsigned, ?exchange, ?compareSwap⟩ <;> rintro rfl
    case min => exact toInt_atomNew_min n old op cmp
    case minUnsigned => exact atomNew_minUnsigned n old op cmp
    case max => exact toInt_atomNew_max n old op cmp
    case maxUnsigned => exact atomNew_maxUnsigned n old op cmp
    case add | and | or | xor | exchange | compareSwap => rfl

end Sys2Proof.Machine
